-- ==== Sys2Proof/Word.lean ====
section
/-! DEFINITION. The word types of the block and the index types of its fixed collections
(spec/00_scope.md, Capacities). -/

namespace Sys2Proof

/-- One byte of a frame (spec/11, section 11.6). -/
abbrev Byte := BitVec 8

/-- A two-byte field: an occurrence number, a handover number, an area set, a channel value. -/
abbrev Word16 := BitVec 16

/-- A four-byte field: an elapsed time, a mill time, a badge, a serial. -/
abbrev Word32 := BitVec 32

/-- The body of a request frame as the bytes on the wire (R165). -/
abbrev Body := List Byte

/-- Any of the nine ports: 0 to 5 consoles, 6 the supervisor, 7 and 8 the gateways. -/
abbrev Port := Fin 9

/-- Ports 0 to 6: the six consoles and the supervisor. -/
abbrev Desk := Fin 7

/-- Console ports 0 to 5. -/
abbrev Console := Fin 6

/-- The two gateways: 0 is port 7 and 1 is port 8. -/
abbrev Gateway := Fin 2

/-- One of the 16 plant areas. -/
abbrev Area := Fin 16

/-- One of the 32 suppression groups (R57). -/
abbrev GroupIdx := Fin 32

/-- One of the eight handover records (R142). -/
abbrev RecordIdx := Fin 8

/-- An elapsed time or an expiry: a count of tenths of a second that wraps (R80). -/
abbrev Time := Word32

/-- A mill time (R82). -/
abbrev MillTime := Word32

/-- A 32-bit operator identity (R112). -/
abbrev Badge := Word32

end Sys2Proof
end

