-- ==== Sys2Proof/Syntax.lean ====
section
/-! DEFINITION. The commands of the block: one constructor for each row of spec/opcode_table.json.
A request carries the port it arrives on, its tag and the raw bytes of its body (spec/11, sections
11.6 and 11.7; log entry 4); a timer event carries the owner of the timer. -/

namespace Sys2Proof

/-- The commands. Each constructor is one row of the table, whole and indivisible
(spec/95_what_each_step_holds.md). -/
inductive Instr where
  /-- Supply power comes up (R181). -/
  | powerOn
  /-- The reset pin is asserted and released (R181). -/
  | resetPin
  /-- `cycles` cycles of the 1 kHz time reference pass with nothing else taken between them (R80). -/
  | timeReferenceTick (cycles : Nat)
  /-- A transaction of raw bytes, its code byte first, that is no sound SEND, no FETCH and no LINK RESET (R165). -/
  | badFrame (port : Port) (bytes : List Byte)
  /-- A sound frame that arrives while the answer slot is full (R165). -/
  | overrun (port : Port) (kind tag : Byte) (body : Body)
  /-- A sound frame whose kind is not in the request catalogue (R166). -/
  | unknownRequestKind (port : Port) (kind tag : Byte) (body : Body)
  /-- A FETCH transaction: its port, and the number of bytes clocked after its code byte (R167). -/
  | fetch (clocking : Port × Nat)
  /-- A LINK RESET transaction with nothing after its code (R168). -/
  | linkReset (port : Port)
  /-- The request LOGIN, kind 01h (R120). -/
  | login (port : Port) (tag : Byte) (body : Body)
  /-- The request LOGOUT, kind 02h (R125). -/
  | logout (port : Port) (tag : Byte) (body : Body)
  /-- The request PRESENT, kind 03h (R123). -/
  | present (port : Port) (tag : Byte) (body : Body)
  /-- The request END SESSION, kind 04h (R128). -/
  | endSession (port : Port) (tag : Byte) (body : Body)
  /-- The request GRANT, kind 05h (R116). -/
  | grant (port : Port) (tag : Byte) (body : Body)
  /-- The request REVOKE, kind 06h (R117). -/
  | revoke (port : Port) (tag : Byte) (body : Body)
  /-- The request ACK POINT, kind 10h (R35). -/
  | ackPoint (port : Port) (tag : Byte) (body : Body)
  /-- The request ACK AREA, kind 11h (R40). -/
  | ackArea (port : Port) (tag : Byte) (body : Body)
  /-- The request RESET POINT, kind 12h (R42). -/
  | resetPoint (port : Port) (tag : Byte) (body : Body)
  /-- The request SILENCE, kind 13h (R105). -/
  | silence (port : Port) (tag : Byte) (body : Body)
  /-- The request QUERY LIST, kind 14h (R103). -/
  | queryList (port : Port) (tag : Byte) (body : Body)
  /-- The request READ JOURNAL, kind 15h (R111). -/
  | readJournal (port : Port) (tag : Byte) (body : Body)
  /-- The request SHELVE, kind 20h (R47). -/
  | shelve (port : Port) (tag : Byte) (body : Body)
  /-- The request UNSHELVE, kind 21h (R50). -/
  | unshelve (port : Port) (tag : Byte) (body : Body)
  /-- The request SET OUT OF SERVICE, kind 22h (R54). -/
  | setOutOfService (port : Port) (tag : Byte) (body : Body)
  /-- The request RETURN TO SERVICE, kind 23h (R55). -/
  | returnToService (port : Port) (tag : Byte) (body : Body)
  /-- The request CLAIM AREA, kind 30h (R135). -/
  | claimArea (port : Port) (tag : Byte) (body : Body)
  /-- The request RELEASE AREA, kind 31h (R136). -/
  | releaseArea (port : Port) (tag : Byte) (body : Body)
  /-- The request RELOCATE, kind 32h (R138). -/
  | relocate (port : Port) (tag : Byte) (body : Body)
  /-- The request OFFER, kind 40h (R145). -/
  | offer (port : Port) (tag : Byte) (body : Body)
  /-- The request ACCEPT, kind 41h (R147). -/
  | accept (port : Port) (tag : Byte) (body : Body)
  /-- The request DECLINE, kind 42h (R149). -/
  | decline (port : Port) (tag : Byte) (body : Body)
  /-- The request WITHDRAW, kind 43h (R150). -/
  | withdraw (port : Port) (tag : Byte) (body : Body)
  /-- The request CONFIRM ITEM, kind 44h (R154). -/
  | confirmItem (port : Port) (tag : Byte) (body : Body)
  /-- The request CONFIRM PAGE, kind 45h (R155). -/
  | confirmPage (port : Port) (tag : Byte) (body : Body)
  /-- The request QUERY ITEMS, kind 46h (R156). -/
  | queryItems (port : Port) (tag : Byte) (body : Body)
  /-- The request TAKE, kind 47h (R159). -/
  | take (port : Port) (tag : Byte) (body : Body)
  /-- The request CO SIGN, kind 48h (R161). -/
  | coSign (port : Port) (tag : Byte) (body : Body)
  /-- The request FORCE COMMIT, kind 49h (R162). -/
  | forceCommit (port : Port) (tag : Byte) (body : Body)
  /-- The request FORCE WITHDRAW, kind 4Ah (R162). -/
  | forceWithdraw (port : Port) (tag : Byte) (body : Body)
  /-- The request TIME SET, kind 50h (R83). -/
  | timeSet (port : Port) (tag : Byte) (body : Body)
  /-- The request SWAP GATEWAYS, kind 51h (R173). -/
  | swapGateways (port : Port) (tag : Byte) (body : Body)
  /-- The request CHANNEL REPORT, kind 60h (R2). -/
  | channelReport (port : Port) (tag : Byte) (body : Body)
  /-- The request HEARTBEAT, kind 61h (R166). -/
  | heartbeat (port : Port) (tag : Byte) (body : Body)
  /-- The request LOAD START, kind 70h (R175). -/
  | loadStart (port : Port) (tag : Byte) (body : Body)
  /-- The request CONFIG BLOCK, kind 71h (R176). -/
  | configBlock (port : Port) (tag : Byte) (body : Body)
  /-- The request LOAD END, kind 72h (R177). -/
  | loadEnd (port : Port) (tag : Byte) (body : Body)
  /-- The request LOAD ABANDON, kind 73h (R175). -/
  | loadAbandon (port : Port) (tag : Byte) (body : Body)
  /-- The request EDIT POINT, kind 74h (R178). -/
  | editPoint (port : Port) (tag : Byte) (body : Body)
  /-- The request EDIT PARAMETERS, kind 75h (R179). -/
  | editParameters (port : Port) (tag : Byte) (body : Body)
  /-- The request RESTART, kind 76h (R180). -/
  | restart (port : Port) (tag : Byte) (body : Body)
  /-- The request RESTART TO LOAD, kind 77h (R181). -/
  | restartToLoad (port : Port) (tag : Byte) (body : Body)
  /-- A point's pending part expires and delivers its raise or return. (R14) -/
  | pendingExpiry (point : Nat)
  /-- The first shelve entry expires and the point's shelving ends. (R51) -/
  | shelveExpiry
  /-- A RELEASING group's release expiry releases the group. (R59) -/
  | releaseExpiry (group : GroupIdx)
  /-- After a release, each formerly SUPPRESSED member, in list order, is given a fresh raise as its own event when its condition still stands. (R60) -/
  | groupMemberReleaseEvent (group : GroupIdx)
  /-- The load interval expiry decays every defined area and sets the next expiry. (R68) -/
  | loadIntervalExpiry
  /-- A FLOOD area's summary expiry sends a SUMMARY notice when its count is above 0 and sets the next expiry. (R73) -/
  | summaryExpiry (area : Area)
  /-- A sweep visit applies the escalation, staleness and chatter checks to one point. (R87) -/
  | sweepVisit
  /-- A sweep pass ends, first pass clears, and the next pass begins. (R86) -/
  | passEnd
  /-- An ACTIVE session reaching its idle expiry becomes IDLE. (R124) -/
  | idleExpiry (desk : Desk)
  /-- An IDLE session reaching its absent expiry becomes ABSENT. (R124) -/
  | absentExpiry (desk : Desk)
  /-- A port's lockout expires and its failure history is emptied. (R122) -/
  | lockoutExpiry (desk : Desk)
  /-- A TEMPORARY credential entry expires, is removed, and any session it holds ends REVOKED. (R118) -/
  | credentialExpired (badge : Badge)
  /-- An OFFERED record's offer expiry ends it EXPIRED. (R151) -/
  | offerExpiry (record : RecordIdx)
  /-- A record in OVERLAP reaching its overlap limit expiry ends EXPIRED. (R152) -/
  | overlapLimitExpiry (record : RecordIdx)
  /-- A port not heard within its silence limit becomes SILENT, with its consequences. (R169) -/
  | livenessExpiry (port : Port)
  /-- A gateway in DOUBT reaching its DOUBT expiry returns to GOOD with its history emptied. (R170) -/
  | doubtExpiry (gateway : Gateway)
deriving DecidableEq, Repr

end Sys2Proof
end

