-- ==== Sys2Proof/Machine/Frames.lean ====
section
/-! DEFINITION. What stands on the wire (spec/11, sections 11.2 and 11.6): byte order, the CRC, the
frame, the transaction, and the request kinds of the catalogue. Nothing here reads the state. -/

namespace Sys2Proof.Machine

/-- A two-byte field, high byte first (11.6). -/
def be16 (x : Word16) : List Byte := [x.extractLsb' 8 8, x.extractLsb' 0 8]

/-- A four-byte field, high byte first (11.6). -/
def be32 (x : Word32) : List Byte :=
  [x.extractLsb' 24 8, x.extractLsb' 16 8, x.extractLsb' 8 8, x.extractLsb' 0 8]

/-- Reads a two-byte field, high byte first. -/
def read16 (hi lo : Byte) : Word16 := hi ++ lo

/-- Reads a four-byte field, high byte first. -/
def read32 (a b c d : Byte) : Word32 := a ++ b ++ c ++ d

/-- A one-byte field of a number. -/
def byte (n : Nat) : Byte := BitVec.ofNat 8 n

/-- A two-byte field of a number. -/
def num16 (n : Nat) : List Byte := be16 (BitVec.ofNat 16 n)

/-- A four-byte field of a number. -/
def num32 (n : Nat) : List Byte := be32 (BitVec.ofNat 32 n)

/-- One bit of the CRC's shift: polynomial 1021h, no reflection (11.6). -/
def crcShift (c : Word16) : Word16 := if c.msb then (c <<< 1) ^^^ 0x1021#16 else c <<< 1

/-- The CRC after one more byte. -/
def crcByte (c : Word16) (b : Byte) : Word16 :=
  let x := c ^^^ (b ++ 0#8)
  crcShift (crcShift (crcShift (crcShift (crcShift (crcShift (crcShift (crcShift x)))))))

/-- CRC-16 over a list of bytes: initial value FFFFh, final exclusive-or 0000h (11.6). -/
def crc16 (bytes : List Byte) : Word16 := bytes.foldl crcByte 0xFFFF#16

/-- The largest body of a frame (R165). -/
def maxBody : Nat := 250

/-- A whole frame: header, body and CRC over both (11.6). -/
def frameBytes (kind tag : Byte) (body : Body) : List Byte :=
  let covered := kind :: tag :: (num16 body.length ++ body)
  covered ++ be16 (crc16 covered)

/-- The transaction code bytes (11.6). -/
def sendCode : Byte := 0x5A#8
def fetchCode : Byte := 0xA5#8
def linkResetCode : Byte := 0xC3#8

/-- What a transaction's bytes are: a sound SEND, a FETCH with this many bytes clocked after its code, a LINK
RESET, or none of them. -/
inductive Transaction where
  | send (kind tag : Byte) (body : Body)
  | fetch (clocked : Nat)
  | linkReset
  | bad
deriving DecidableEq, Repr

/-- A frame is sound when it is a whole frame with nothing beyond it, its body length is 0..250 and
its CRC agrees (R165). -/
def parseFrame : List Byte → Option (Byte × Byte × Body)
  | kind :: tag :: l1 :: l2 :: rest =>
    let len := (read16 l1 l2).toNat
    let body := rest.take len
    if len ≤ maxBody ∧ rest.length = len + 2 ∧
        rest.drop len = be16 (crc16 (kind :: tag :: l1 :: l2 :: body)) then
      some (kind, tag, body)
    else none
  | _ => none

/-- The first byte names the transaction (R165, R167, R168). A LINK RESET with further bytes, and a
transaction of no byte, are bad transactions (log entry 5). -/
def parseTransaction : List Byte → Transaction
  | [] => .bad
  | code :: rest =>
    if code = sendCode then
      match parseFrame rest with
      | some (kind, tag, body) => .send kind tag body
      | none => .bad
    else if code = fetchCode then .fetch rest.length
    else if code = linkResetCode then (if rest.isEmpty then .linkReset else .bad)
    else .bad

/-- The bytes of a SEND transaction that carries one frame. -/
def sendBytes (kind tag : Byte) (body : Body) : List Byte := sendCode :: frameBytes kind tag body

/-- The request kinds of the catalogue (11.7). -/
inductive Kind where
  | login
  | logout
  | present
  | endSession
  | grant
  | revoke
  | ackPoint
  | ackArea
  | resetPoint
  | silence
  | queryList
  | readJournal
  | shelve
  | unshelve
  | setOutOfService
  | returnToService
  | claimArea
  | releaseArea
  | relocate
  | offer
  | accept
  | decline
  | withdraw
  | confirmItem
  | confirmPage
  | queryItems
  | take
  | coSign
  | forceCommit
  | forceWithdraw
  | timeSet
  | swapGateways
  | channelReport
  | heartbeat
  | loadStart
  | configBlock
  | loadEnd
  | loadAbandon
  | editPoint
  | editParameters
  | restart
  | restartToLoad
deriving DecidableEq, Repr

/-- The code of each request kind (11.7). -/
def Kind.code : Kind → Byte
  | .login => 0x01#8
  | .logout => 0x02#8
  | .present => 0x03#8
  | .endSession => 0x04#8
  | .grant => 0x05#8
  | .revoke => 0x06#8
  | .ackPoint => 0x10#8
  | .ackArea => 0x11#8
  | .resetPoint => 0x12#8
  | .silence => 0x13#8
  | .queryList => 0x14#8
  | .readJournal => 0x15#8
  | .shelve => 0x20#8
  | .unshelve => 0x21#8
  | .setOutOfService => 0x22#8
  | .returnToService => 0x23#8
  | .claimArea => 0x30#8
  | .releaseArea => 0x31#8
  | .relocate => 0x32#8
  | .offer => 0x40#8
  | .accept => 0x41#8
  | .decline => 0x42#8
  | .withdraw => 0x43#8
  | .confirmItem => 0x44#8
  | .confirmPage => 0x45#8
  | .queryItems => 0x46#8
  | .take => 0x47#8
  | .coSign => 0x48#8
  | .forceCommit => 0x49#8
  | .forceWithdraw => 0x4A#8
  | .timeSet => 0x50#8
  | .swapGateways => 0x51#8
  | .channelReport => 0x60#8
  | .heartbeat => 0x61#8
  | .loadStart => 0x70#8
  | .configBlock => 0x71#8
  | .loadEnd => 0x72#8
  | .loadAbandon => 0x73#8
  | .editPoint => 0x74#8
  | .editParameters => 0x75#8
  | .restart => 0x76#8
  | .restartToLoad => 0x77#8

/-- The request kind a code names; none when the catalogue does not hold it (R166). -/
def kindOf (code : Byte) : Option Kind :=
  [.login, .logout, .present, .endSession, .grant, .revoke, .ackPoint, .ackArea, .resetPoint,
   .silence, .queryList, .readJournal, .shelve, .unshelve, .setOutOfService, .returnToService,
   .claimArea, .releaseArea, .relocate, .offer, .accept, .decline, .withdraw, .confirmItem,
   .confirmPage, .queryItems, .take, .coSign, .forceCommit, .forceWithdraw, .timeSet,
   .swapGateways, .channelReport, .heartbeat, .loadStart, .configBlock, .loadEnd, .loadAbandon,
   .editPoint, .editParameters, .restart, .restartToLoad].find? (fun k => k.code == code)

end Sys2Proof.Machine
end

