-- ==== Sys2Proof/Config.lean ====
section
/-! DEFINITION. The capacities the part fixes (spec/00_scope.md, Capacities) and the free values
the spec leaves open. -/

namespace Sys2Proof.Config

/-- Entries a console port's queue holds (R97). -/
def consoleQueueCapacity : Nat := 64

/-- Entries the supervisor port's queue holds (R97). -/
def supervisorQueueCapacity : Nat := 128

/-- Entries the journal holds (R109). -/
def journalCapacity : Nat := 256

/-- Entries the shelve list holds (R44). -/
def shelveCapacity : Nat := 96

/-- Items a handover record's list holds (R142). -/
def itemCapacity : Nat := 64

/-- The largest value of a saturating 16-bit quantity: a load, a summary count, the gap count. -/
def saturation : Nat := 65535

/-- FREE VALUE (log entry 8, DESIGN CHOICE: the spec states none). The class, less one, in the body of
a REFRESH notice: section 11.6 gives every notice body a class of 1..4, and neither R93 nor R172
states the class of REFRESH. Applied to the counter `freeCount` of the state, so that each REFRESH
notice has a value of its own. -/
opaque refreshClass : Nat → Fin 4

/-- FREE VALUE (log entry 34, DESIGN CHOICE: two rules state two results). Whether the part follows the table
of R49 where it and the table of R33 differ: at the return of the pending RETURN that stood when shelving
ended, an acknowledged LATCHING point in ACK_ACTIVE goes to NORMAL by R49 and to LATCHED by R33. -/
opaque normalAfterShelving : Bool

end Sys2Proof.Config
end

