-- ==== Sys2Proof/Machine/State.lean ====
section
/-! DEFINITION. The state of the block as plain data, the reasons a step can stop, and the state
right after power-on or the reset pin. INVENTORY.md lists every field with its rule. -/

namespace Sys2Proof.Machine

/-! ## Time, device state, configuration -/

/-- The device state (R175). -/
inductive DeviceState where
  | unconfigured | loading | running
deriving DecidableEq, Repr

/-- The configuration tables as CONFIG BLOCK wrote them (R175, R176): for block kinds 1 to 9, at
positions 0 to 8, whether a block of the kind was taken, and the raw entries by index, ascending. -/
structure Staged where
  present : Vector Bool 9
  tables : Vector (List (Nat × List Byte)) 9
deriving DecidableEq, Repr

/-- A role (R114): for each area its permissions, bit 0 VIEW, 1 ACK, 2 SHELVE, 3 SERVICE, 4 TAKE;
and its rights, bit 0 SUPERVISE, 1 GRANT, 2 ENGINEER (R176). -/
structure Role where
  perms : Vector Byte 16
  rights : Byte
deriving DecidableEq, Repr

/-- The PORTS entry of a console or of the supervisor port (R115). Limits in seconds. The
supervisor port's horn floor is not used. -/
structure PortCfg where
  enabled : Bool
  hornFloor : Nat
  idleLimit : Nat
  absentLimit : Nat
deriving DecidableEq, Repr

/-! ## Channels and points -/

inductive ChannelKind where
  | analog | discrete
deriving DecidableEq, Repr

inductive Quality where
  | never | good | bad | stale
deriving DecidableEq, Repr

/-- A configured channel's record (R1); an unconfigured channel has no record. -/
structure Channel where
  kind : ChannelKind
  value : Word16
  quality : Quality
  lastReport : Option Time
deriving DecidableEq, Repr

inductive ConditionKind where
  | high | low | on | off
deriving DecidableEq, Repr

inductive Mode where
  | standard | latching | selfClearing | noteOnly
deriving DecidableEq, Repr

/-- The configuration part of a configured point (R6). -/
structure PointCfg where
  area : Area
  channel : Nat
  kind : ConditionKind
  limit : Word16
  deadband : Nat
  priority : Nat
  mode : Mode
  onDelay : Nat
  offDelay : Nat
  chatterGap : Nat
  group : Option GroupIdx
  headOf : Option GroupIdx
deriving DecidableEq, Repr

/-- A point's condition (R8). -/
inductive Condition where
  | isTrue | isFalse | unknown
deriving DecidableEq, Repr

/-- A pending part (R8): RAISE when `raise` is set, RETURN otherwise. `afterShelving` marks the pending RETURN
that an ACK_ACTIVE point had when its shelving ended with the condition FALSE, of which R49 speaks apart from
R33 (log entry 34). -/
structure PendingPart where
  raise : Bool
  expiry : Time
  afterShelving : Bool := false
deriving DecidableEq, Repr

/-- A point's alarm state (R22). -/
inductive AlarmState where
  | normal | unackActive | ackActive | unackReturned | latched
deriving DecidableEq, Repr

/-- Who acknowledged the current occurrence, where and when (R22). -/
structure AckRecord where
  badge : Badge
  desk : Desk
  mill : MillTime
deriving DecidableEq, Repr

/-- When the current occurrence began (R22). -/
structure Stamp where
  elapsed : Time
  mill : MillTime
deriving DecidableEq, Repr

/-- A configured point's record: its configuration part (R6), the evaluator's share (R8), the alarm
state engine's record (R22) and the in-service setting (R53). -/
structure Point where
  cfg : PointCfg
  cond : Condition
  lastKnown : Option Bool
  delivered : Bool
  pendingPart : Option PendingPart
  badInput : Bool
  state : AlarmState
  occ : Word16
  acked : Bool
  ackRecord : Option AckRecord
  stamp : Option Stamp
  raiseSerial : Word32
  escSerial : Option Word32
  muted : Bool
  lastReturn : Option Time
  chatterCount : Nat
  foldSince : Bool
  escalated : Bool
  shelved : Bool
  suppressed : Bool
  chattering : Bool
  inService : Bool
deriving DecidableEq, Repr

/-! ## Shelve list, groups, loads, sweep -/

/-- A shelve entry (R44). -/
structure ShelveEntry where
  point : Nat
  badge : Badge
  desk : Desk
  expiry : Time
  reason : Byte
deriving DecidableEq, Repr

inductive GroupState where
  | isOpen | blocking | releasing
deriving DecidableEq, Repr

/-- A configured suppression group (R57). `owed` holds the members whose further event of R60 has
still to be taken, in the order of the member list (log entry 16). -/
structure Group where
  head : Nat
  members : List Nat
  state : GroupState
  delay : Nat
  expiry : Option Time
  owed : List Nat
deriving DecidableEq, Repr

inductive LoadState where
  | calm | busy | flood
deriving DecidableEq, Repr

/-- An area's load record (R65). -/
structure AreaLoad where
  load : Nat
  state : LoadState
  count : Nat
  summaryExpiry : Option Time
deriving DecidableEq, Repr

/-- The review sweep (R85). -/
structure Sweep where
  running : Bool
  passStart : Time
  period : Nat
  size : Nat
  position : Nat
  firstPass : Bool
deriving DecidableEq, Repr

/-! ## Sessions, areas, handover -/

/-- The state of a session that is not NONE (R119). -/
inductive Presence where
  | active | idle | absent
deriving DecidableEq, Repr

/-- A session that is not NONE (R119). -/
structure Session where
  presence : Presence
  badge : Badge
  role : Fin 8
  loginMill : MillTime
  lastInteraction : Time
  idleExpiry : Time
  absentExpiry : Time
deriving DecidableEq, Repr

/-- The cause of a session change or an attendance change (R126, R132). -/
inductive Cause where
  | login | interaction | idleLimit | absentLimit | logout | endedBySupervisor | revoked | portLost
  | ownerChange
deriving DecidableEq, Repr

/-- The session record, failure history and lockout of one of ports 0 to 6 (R119). -/
structure DeskState where
  session : Option Session
  failures : List Time
  lockout : Option Time
deriving DecidableEq, Repr

/-- A credential entry (R112). STANDING when `temporary` is absent; a TEMPORARY entry's expiry and
issuing badge otherwise. -/
structure Credential where
  badge : Badge
  check : Word16
  role : Fin 8
  temporary : Option (Time × Badge)
deriving DecidableEq, Repr

inductive Attendance where
  | attended | covered | unattended
deriving DecidableEq, Repr

/-- A console and a badge: an owner or a party (R129, R142). -/
structure Party where
  console : Console
  badge : Badge
deriving DecidableEq, Repr

/-- A defined area's responsibility record (R129). -/
structure AreaRecord where
  nameIndex : Byte
  owner : Option Party
  attendance : Attendance
  link : Option RecordIdx
deriving DecidableEq, Repr

inductive HandoverState where
  | offered | overlap | held
deriving DecidableEq, Repr

inductive HandoverOutcome where
  | committed | forced | withdrawn | declined | expired | revoked | restarted
deriving DecidableEq, Repr

inductive ItemReason where
  | unacked | standing | latched | shelved | service
deriving DecidableEq, Repr

inductive ItemStatus where
  | isOpen | confirmed | resolved
deriving DecidableEq, Repr

/-- An item of a handover record's list, with the four fields of R143. Who answered the occurrence (R38) is
read from the ack record of the point it lists (log entry 31). -/
structure Item where
  point : Nat
  reason : ItemReason
  occ : Word16
  status : ItemStatus
deriving DecidableEq, Repr

/-- A live handover record (R142). A target of none is ANY. -/
structure Record where
  number : Word16
  state : HandoverState
  flood : Bool
  outgoingLost : Bool
  areas : Word16
  outgoing : Party
  target : Option Console
  incoming : Option Party
  offerExpiry : Option Time
  accumulated : Nat
  resume : Option Time
  limitExpiry : Option Time
  coSigned : Option Badge
  incomplete : Bool
  items : List Item
deriving DecidableEq, Repr

/-! ## Ports -/

inductive Link where
  | good | silent
deriving DecidableEq, Repr

/-- The status of an answer (11.6). -/
inductive Status where
  | done | malformed | noSuch | notRunning | noSession | noPermission | notResponsible | staleView
  | already | wrongState | listFull | rowFull | inUse | badCredential | lockedOut | ownsAreas
  | inHandover | areaBusy | noRecord | held | notYet | needsCosign | configError | outOfRange
deriving DecidableEq, Repr

/-- An answer as its request's rule gives it (11.6): the status, the indications of bits 1 to 7 in
order, the reason index and the detail bytes. -/
structure Reply where
  status : Status
  inds : List Bool
  reason : Option Nat
  detail : List Byte
deriving DecidableEq, Repr

/-- The answer that stands in a slot: the request's kind and tag, and the reply. -/
structure Answer where
  kind : Byte
  tag : Byte
  reply : Reply
deriving DecidableEq, Repr

/-- The fields every port holds (R164). -/
structure PortState where
  slot : Option Answer
  overrun : Bool
  link : Link
  lastHeard : Option Time
  liveness : Option Time
deriving DecidableEq, Repr

inductive Health where
  | absent | good | doubt | failed
deriving DecidableEq, Repr

inductive GatewayRole where
  | none | primary | secondary
deriving DecidableEq, Repr

/-- The further fields of a gateway port (R164). -/
structure GatewayState where
  health : Health
  history : List Time
  doubtExpiry : Option Time
  role : GatewayRole
  refresh : Bool
deriving DecidableEq, Repr

/-! ## Notices and the journal -/

/-- The body of a POINT notice (R25, 11.6). -/
structure PointBody where
  point : Nat
  area : Area
  priority : Nat
  state : AlarmState
  occ : Word16
  escalated : Bool
  shelved : Bool
  suppressed : Bool
  badInput : Bool
  chattering : Bool
  muted : Bool
  noted : Bool
  chatter : Bool
  outOfService : Bool
  raiseMill : Option MillTime
  ack : Option AckRecord
deriving DecidableEq, Repr

/-- One gateway as a SYSTEM GATEWAY notice shows it (11.6). -/
structure GatewayView where
  link : Link
  health : Health
  role : GatewayRole
deriving DecidableEq, Repr

/-- The body of a HANDOVER notice (11.6). A state of none says that the record has ended. -/
structure HandoverBody where
  record : RecordIdx
  number : Word16
  state : Option HandoverState
  flood : Bool
  outgoingLost : Bool
  outcome : Option HandoverOutcome
  incomplete : Bool
  coSigned : Option Badge
  areas : Word16
  outgoing : Party
  target : Option Console
  incoming : Option Party
deriving DecidableEq, Repr

/-- The body of a notice, by kind (R93, 11.6). -/
inductive NoticeBody where
  | point (body : PointBody)
  | timeSet (old new : MillTime)
  | gateways (first second : GatewayView)
  | lockout (desk : Desk) (expiry : MillTime)
  | area (area : Area) (nameIndex : Byte) (load : Nat) (state : LoadState)
      (attendance : Attendance) (owner : Option Party)
  | handover (body : HandoverBody)
  | session (desk : Desk) (badge : Badge) (presence : Option Presence) (cause : Cause)
  | summary (area : Area) (count : Nat) (load : Nat) (state : LoadState)
deriving DecidableEq, Repr

/-- A notice, and an entry of a queue (R93, R97): its class and its body; the body names the kind and,
for a POINT notice, its point. -/
structure Notice where
  cls : Nat
  body : NoticeBody
deriving DecidableEq, Repr

/-- A console or supervisor queue with its RESYNC marker (R97). -/
structure Queue where
  entries : List Notice
  resync : Bool
deriving DecidableEq, Repr

/-- The kinds of journal entry (R109, 11.6). -/
inductive JournalKind where
  | ack | ackArea | reset | shelve | unshelve | shelveExpired | outOfService | inService | loadState
  | timeSet | silence | login | loginFailed | lockout | logout | sessionState | sessionEnd | grant
  | revoke | credentialExpired | attendance | claim | release | relocate | offer | accept
  | handoverState | confirm | coSign | handoverEnd | gatewayHealth | gatewayRole | linkReset
  | restart | edit
deriving DecidableEq, Repr

/-- A journal entry (R109). -/
structure JournalEntry where
  mill : MillTime
  kind : JournalKind
  port : Option Port
  badge : Option Badge
  area : Option Area
  point : Option Nat
  occ : Word16
  detail : Word32
deriving DecidableEq, Repr

/-- The journal queue, oldest first, and the gap count (R109). -/
structure Journal where
  entries : List JournalEntry
  gap : Nat
deriving DecidableEq, Repr

/-! ## The whole state -/

/-- Everything the spec gives the block, and the queue of waiting commands. -/
structure State where
  pending : List Instr
  elapsed : Time
  refCycles : Fin 100
  offset : Word32
  dev : DeviceState
  staged : Staged
  params : Vector Nat 29
  roles : Vector Role 8
  reach : Vector Word16 6
  portCfg : Vector PortCfg 7
  preferred : Gateway
  channels : List (Nat × Channel)
  points : List (Nat × Point)
  serial : Word32
  shelf : List ShelveEntry
  groups : Vector (Option Group) 32
  loads : Vector AreaLoad 16
  loadExpiry : Option Time
  sweep : Sweep
  queues : Vector Queue 7
  marks : Vector Word32 7
  horns : Vector Bool 7
  attention : Vector Bool 9
  journal : Journal
  creds : Vector (Vector (Option Credential) 4) 64
  desks : Vector DeskState 7
  map : Vector (Option AreaRecord) 16
  records : Vector (Option Record) 8
  handoverCounter : Word16
  ports : Vector PortState 9
  gateways : Vector GatewayState 2
  shiftedOut : Vector (List Byte) 9
  freeCount : Nat
deriving DecidableEq, Repr

/-- No fault: the spec names no condition that stops the block (INVENTORY.md, Faults). -/
inductive Fault where
deriving DecidableEq, Repr

/-- The reasons a command can be refused. -/
inductive Refusal where
  /-- Raised by Dispatch.lean for a command whose meaning is not written; no arm raises it. Safe:
  nothing can be proved of such a command's effect. -/
  | notModelled (mnemonic : String)
deriving DecidableEq, Repr

/-! ## Reset -/

/-- Empty configuration tables (R175). -/
def Staged.empty : Staged := { present := .replicate 9 false, tables := .replicate 9 [] }

/-- The defaults of parameters 0 to 28 in the order of R176 (R63, R45, R88, R85, R90, R28, R145, R152,
R169). -/
def defaultParams : Vector Nat 29 :=
  #v[64, 32, 16, 16, 26, 10, 96, 48, 320, 160, 3, 30, 400, 0, 14400, 43200, 43200,
     60, 300, 900, 0, 60, 30, 5, 300, 120, 2700, 20, 5]

/-- The sweep while the device is not RUNNING (R85): the spec gives running alone; the period is its
default of 60 s and the rest is 0 (log entry 29). -/
def Sweep.atRest : Sweep :=
  { running := false, passStart := 0, period := 600, size := 0, position := 0, firstPass := false }

/-- A role that holds nothing (R114). -/
def Role.empty : Role := { perms := .replicate 16 0#8, rights := 0#8 }

/-- A PORTS entry before a load: not enabled (R166), the rest at the defaults (log entry 7). -/
def PortCfg.unloaded : PortCfg :=
  { enabled := false, hornFloor := 2, idleLimit := 300, absentLimit := 900 }

/-- An area's load after power-on (R65). -/
def AreaLoad.quiet : AreaLoad := { load := 0, state := .calm, count := 0, summaryExpiry := none }

/-- A queue after power-on (R97). -/
def Queue.empty : Queue := { entries := [], resync := false }

/-- The session unit's record of a port after power-on (R119). -/
def DeskState.fresh : DeskState := { session := none, failures := [], lockout := none }

/-- A port after power-on (R164). -/
def PortState.fresh : PortState :=
  { slot := none, overrun := false, link := .silent, lastHeard := none, liveness := none }

/-- A gateway after power-on (R164). -/
def GatewayState.fresh : GatewayState :=
  { health := .absent, history := [], doubtExpiry := none, role := .none, refresh := false }

/-- The machine right after power-on or the reset pin (R181 and the rule of each block, as
INVENTORY.md lists them). -/
def State.reset : State where
  pending := []
  elapsed := 0
  refCycles := 0
  offset := 0
  dev := .unconfigured
  staged := .empty
  params := defaultParams
  roles := .replicate 8 .empty
  reach := .replicate 6 0
  portCfg := .replicate 7 .unloaded
  preferred := 0
  channels := []
  points := []
  serial := 0
  shelf := []
  groups := .replicate 32 none
  loads := .replicate 16 .quiet
  loadExpiry := none
  sweep := .atRest
  queues := .replicate 7 .empty
  marks := .replicate 7 0
  horns := .replicate 7 false
  attention := .replicate 9 false
  journal := { entries := [], gap := 0 }
  creds := .replicate 64 (.replicate 4 none)
  desks := .replicate 7 .fresh
  map := .replicate 16 none
  records := .replicate 8 none
  handoverCounter := 0
  ports := .replicate 9 .fresh
  gateways := .replicate 2 .fresh
  shiftedOut := .replicate 9 []
  freeCount := 0

end Sys2Proof.Machine
end

