-- ==== Sys2Proof/Machine/Codes.lean ====
section
/-! DEFINITION. The bytes of every record a master reads (spec/11, section 11.6): the codes of the
named values, answers, notices, journal entries and items. Fields of an absent part are 0. -/

namespace Sys2Proof.Machine

/-- Status codes (11.6). -/
def Status.code : Status → Byte
  | .done => 0x00#8 | .malformed => 0x01#8 | .noSuch => 0x02#8 | .notRunning => 0x03#8
  | .noSession => 0x04#8 | .noPermission => 0x05#8 | .notResponsible => 0x06#8
  | .staleView => 0x07#8 | .already => 0x08#8 | .wrongState => 0x09#8 | .listFull => 0x0A#8
  | .rowFull => 0x0B#8 | .inUse => 0x0C#8 | .badCredential => 0x0D#8 | .lockedOut => 0x0E#8
  | .ownsAreas => 0x0F#8 | .inHandover => 0x10#8 | .areaBusy => 0x11#8 | .noRecord => 0x12#8
  | .held => 0x13#8 | .notYet => 0x14#8 | .needsCosign => 0x15#8 | .configError => 0x16#8
  | .outOfRange => 0x17#8

/-- Point states, as byte 4 of a point notice body (11.6). -/
def AlarmState.code : AlarmState → Byte
  | .normal => 0#8 | .unackActive => 1#8 | .ackActive => 2#8 | .unackReturned => 3#8
  | .latched => 4#8

def LoadState.code : LoadState → Byte
  | .calm => 0#8 | .busy => 1#8 | .flood => 2#8

def Attendance.code : Attendance → Byte
  | .attended => 0#8 | .covered => 1#8 | .unattended => 2#8

/-- Session states: NONE is an absent session. -/
def presenceCode : Option Presence → Byte
  | none => 0#8 | some .active => 1#8 | some .idle => 2#8 | some .absent => 3#8

def Cause.code : Cause → Byte
  | .login => 0#8 | .interaction => 1#8 | .idleLimit => 2#8 | .absentLimit => 3#8 | .logout => 4#8
  | .endedBySupervisor => 5#8 | .revoked => 6#8 | .portLost => 7#8 | .ownerChange => 8#8

def Link.code : Link → Byte
  | .good => 0#8 | .silent => 1#8

def Health.code : Health → Byte
  | .absent => 0#8 | .good => 1#8 | .doubt => 2#8 | .failed => 3#8

def GatewayRole.code : GatewayRole → Byte
  | .none => 0#8 | .primary => 1#8 | .secondary => 2#8

/-- Handover states: 03h when the record has ended. -/
def handoverCode : Option HandoverState → Byte
  | some .offered => 0#8 | some .overlap => 1#8 | some .held => 2#8 | none => 3#8

/-- Outcomes: 00h while the record is live. -/
def outcomeCode : Option HandoverOutcome → Byte
  | none => 0#8 | some .committed => 1#8 | some .forced => 2#8 | some .withdrawn => 3#8
  | some .declined => 4#8 | some .expired => 5#8 | some .revoked => 6#8 | some .restarted => 7#8

def ItemReason.code : ItemReason → Byte
  | .unacked => 0#8 | .standing => 1#8 | .latched => 2#8 | .shelved => 3#8 | .service => 4#8

def ItemStatus.code : ItemStatus → Byte
  | .isOpen => 0#8 | .confirmed => 1#8 | .resolved => 2#8

/-- Journal kinds (11.6). -/
def JournalKind.code : JournalKind → Byte
  | .ack => 0x01#8 | .ackArea => 0x02#8 | .reset => 0x03#8 | .shelve => 0x04#8
  | .unshelve => 0x05#8 | .shelveExpired => 0x06#8 | .outOfService => 0x07#8
  | .inService => 0x08#8 | .loadState => 0x09#8 | .timeSet => 0x0A#8 | .silence => 0x0B#8
  | .login => 0x0C#8 | .loginFailed => 0x0D#8 | .lockout => 0x0E#8 | .logout => 0x0F#8
  | .sessionState => 0x10#8 | .sessionEnd => 0x11#8 | .grant => 0x12#8 | .revoke => 0x13#8
  | .credentialExpired => 0x14#8 | .attendance => 0x15#8 | .claim => 0x16#8 | .release => 0x17#8
  | .relocate => 0x18#8 | .offer => 0x19#8 | .accept => 0x1A#8 | .handoverState => 0x1B#8
  | .confirm => 0x1C#8 | .coSign => 0x1D#8 | .handoverEnd => 0x1E#8 | .gatewayHealth => 0x1F#8
  | .gatewayRole => 0x20#8 | .linkReset => 0x21#8 | .restart => 0x22#8 | .edit => 0x23#8

/-- A byte whose bit k is the k-th of the list. -/
def bits : List Bool → Nat
  | [] => 0
  | b :: rest => (if b then 1 else 0) + 2 * bits rest

/-- A byte from its bits, bit 0 first. -/
def bitByte (l : List Bool) : Byte := byte (bits l)

/-- A port or console field: FFh for none. -/
def portByte : Option Nat → Byte
  | none => 0xFF#8
  | some p => byte p

/-- A point field: FFFFh for none. -/
def pointField : Option Nat → List Byte
  | none => num16 0xFFFF
  | some p => num16 p

/-- The hold causes of a record: bit 0 FLOOD, bit 1 OUTGOING_LOST. -/
def causesByte (flood outgoingLost : Bool) : Byte := bitByte [flood, outgoingLost]

/-- An answer body (11.6): the request kind, the status, the indications with the overrun indication
in bit 0, the reason index, the detail. -/
def Answer.body (a : Answer) (overrun : Bool) : Body :=
  a.kind :: a.reply.status.code :: bitByte (overrun :: a.reply.inds) ::
    (num16 (a.reply.reason.getD 0xFFFF) ++ a.reply.detail)

/-- A point notice body, 22 bytes (11.6). -/
def PointBody.bytes (b : PointBody) : List Byte :=
  num16 b.point ++ [byte b.area, byte b.priority, b.state.code] ++ be16 b.occ ++
  [bitByte [b.escalated, b.shelved, b.suppressed, b.badInput, b.chattering, b.muted, b.noted,
      b.chatter],
   bitByte [b.outOfService, b.raiseMill.isSome, b.ack.isSome]] ++
  be32 (b.raiseMill.getD 0) ++
  (match b.ack with
   | some a => be32 a.badge ++ [byte a.desk] ++ be32 a.mill
   | none => be32 0 ++ [0#8] ++ be32 0)

/-- A console and badge field of a notice body: FFh and 0 when absent. -/
def partyBytes : Option Party → List Byte
  | none => 0xFF#8 :: be32 0
  | some p => byte p.console :: be32 p.badge

/-- A HANDOVER notice body (11.6). -/
def HandoverBody.bytes (b : HandoverBody) : List Byte :=
  [byte b.record] ++ be16 b.number ++
  [handoverCode b.state, causesByte b.flood b.outgoingLost, outcomeCode b.outcome,
   bitByte [b.coSigned.isSome, b.incomplete]] ++
  be32 (b.coSigned.getD 0) ++ be16 b.areas ++ partyBytes (some b.outgoing) ++
  [portByte (b.target.map (·.val))] ++ partyBytes b.incoming

/-- The kind body of a notice (11.6). -/
def NoticeBody.bytes : NoticeBody → List Byte
  | .point b => b.bytes
  | .timeSet old new => [1#8] ++ be32 old ++ be32 new
  | .gateways a b => [2#8, a.link.code, a.health.code, a.role.code, b.link.code, b.health.code,
      b.role.code]
  | .lockout desk expiry => [3#8, byte desk] ++ be32 expiry
  | .area a name load st att owner =>
    [byte a, name] ++ num16 load ++ [st.code, att.code] ++ partyBytes owner
  | .handover b => b.bytes
  | .session desk badge presence cause =>
    [byte desk] ++ be32 badge ++ [presenceCode presence, cause.code]
  | .summary a count load st => [byte a] ++ num16 count ++ num16 load ++ [st.code]

/-- The notice kind byte (11.6). -/
def NoticeBody.kindByte : NoticeBody → Byte
  | .point _ => 1#8
  | .timeSet _ _ => 2#8
  | .gateways _ _ => 2#8
  | .lockout _ _ => 2#8
  | .area _ _ _ _ _ _ => 3#8
  | .handover _ => 4#8
  | .session _ _ _ _ => 5#8
  | .summary _ _ _ _ => 6#8

/-- A notice body: kind, class, kind body (11.6). -/
def Notice.bytes (n : Notice) : Body := n.body.kindByte :: byte n.cls :: n.body.bytes

/-- The frames the device makes (11.6). The tag of a device-made frame is 00h, but for an answer. -/
def answerFrame (a : Answer) (overrun : Bool) : List Byte := frameBytes 0x80#8 a.tag (a.body overrun)
def noticeFrame (n : Notice) : List Byte := frameBytes 0x81#8 0#8 n.bytes

/-- The RESYNC frame (R101, 11.6), with a body of length 0, since 11.6 gives it no body layout (log entry
40). -/
def resyncFrame : List Byte := frameBytes 0x82#8 0#8 []

/-- The EMPTY frame (R102, 11.6), with a body of length 0, since 11.6 gives it no body layout (log entry
40). -/
def emptyFrame : List Byte := frameBytes 0x83#8 0#8 []

/-- A REFRESH notice: kind 07h, its class, no kind body (R172). -/
def refreshFrame (cls : Nat) : List Byte := frameBytes 0x81#8 0#8 [7#8, byte cls]

/-- A journal entry, 19 bytes (11.6). -/
def JournalEntry.bytes (e : JournalEntry) : List Byte :=
  be32 e.mill ++ [e.kind.code, portByte (e.port.map (·.val))] ++ be32 (e.badge.getD 0) ++
  [portByte (e.area.map (·.val))] ++ pointField e.point ++ be16 e.occ ++ be32 e.detail

/-- An item, 7 bytes (11.6). -/
def Item.bytes (i : Nat) (t : Item) : List Byte :=
  [byte i] ++ num16 t.point ++ [t.reason.code] ++ be16 t.occ ++ [t.status.code]

/-- The detail word of a journal entry from the fields of its bits 31 to 24, 23 to 16, 15 to 8 and
7 to 0. -/
def detail4 (a b c d : Byte) : Word32 := a ++ b ++ c ++ d

/-- A detail word from bits 31 to 24 and the 24 bits below. -/
def detail24 (a : Byte) (n : Nat) : Word32 := (a ++ BitVec.ofNat 24 n : BitVec (8 + 24))

/-- A detail word from bits 31 to 24, 23 to 16 and the 16 bits below. -/
def detail16 (a b : Byte) (n : Word16) : Word32 := a ++ b ++ n

/-- A detail word from bits 31 to 24, the flag of bit 23 and the 23 bits below. -/
def detailFlag (a : Byte) (flag : Bool) (n : Nat) : Word32 :=
  (a ++ BitVec.ofBool flag ++ BitVec.ofNat 23 n : BitVec (8 + 1 + 23))

end Sys2Proof.Machine
end

