-- ==== Sys2Proof/Machine/Ops.lean ====
section
/-! DEFINITION. The named operations over the state that every rule uses: indexed reads and writes,
time (spec/05), the journal (spec/06, 6.5), the queues (6.3) and the routing of notices (6.2). -/

namespace Sys2Proof.Machine

/-! ## Indices and tables -/

def allDesks : List Desk := [0, 1, 2, 3, 4, 5, 6]
def allAreas : List Area := [0, 1, 2, 3, 4, 5, 6, 7, 8, 9, 10, 11, 12, 13, 14, 15]
def allRecords : List RecordIdx := [0, 1, 2, 3, 4, 5, 6, 7]

/-- The supervisor port as a desk (R119). -/
def supervisor : Desk := 6

/-- A desk as a port. -/
def deskPort (d : Desk) : Port := ⟨d.val, by omega⟩

/-- A gateway as a port. -/
def gatewayPort (g : Gateway) : Port := ⟨g.val + 7, by omega⟩

/-- The other gateway. -/
def otherGateway (g : Gateway) : Gateway := if g = 0 then 1 else 0

/-- A console as a desk. -/
def consoleDesk (c : Console) : Desk := ⟨c.val, by omega⟩

/-- The console a desk is, none for the supervisor port. -/
def deskConsole (d : Desk) : Option Console :=
  if h : d.val < 6 then some ⟨d.val, h⟩ else none

/-- The entry of a keyed list. -/
def tableGet {α : Type} : List (Nat × α) → Nat → Option α
  | [], _ => none
  | (k, x) :: rest, q => if k = q then some x else tableGet rest q

/-- Changes the entry of a key; a key that is not listed stays so. -/
def tableModify {α : Type} (t : List (Nat × α)) (q : Nat) (f : α → α) : List (Nat × α) :=
  t.map (fun e => if e.1 = q then (e.1, f e.2) else e)

/-- Writes the entry of a key in a list with rising keys. -/
def tablePut {α : Type} : List (Nat × α) → Nat → α → List (Nat × α)
  | [], q, x => [(q, x)]
  | (k, y) :: rest, q, x =>
    if q < k then (q, x) :: (k, y) :: rest
    else if q = k then (q, x) :: rest
    else (k, y) :: tablePut rest q x

/-- Whether an area set holds an area (11.6: bit a stands for area a). -/
def inSet (set : Word16) (a : Area) : Bool := set.getLsbD a.val

/-- The areas of an area set, ascending. -/
def areasOf (set : Word16) : List Area := allAreas.filter (inSet set)

/-- Stable insertion: before the first element that must come after. -/
def insertBy {α : Type} (before : α → α → Bool) (x : α) : List α → List α
  | [] => [x]
  | y :: rest => if before x y then x :: y :: rest else y :: insertBy before x rest

/-- Stable insertion sort; `before x y` says that x comes strictly before y. -/
def sortBy {α : Type} (before : α → α → Bool) (l : List α) : List α :=
  l.foldl (fun sorted x => insertBy before x sorted) []

/-! ## Reads and writes of one record -/

def State.port (s : State) (p : Port) : PortState := s.ports[p]
def State.setPort (s : State) (p : Port) (x : PortState) : State :=
  { s with ports := s.ports.set p x }
def State.gateway (s : State) (g : Gateway) : GatewayState := s.gateways[g]
def State.setGateway (s : State) (g : Gateway) (x : GatewayState) : State :=
  { s with gateways := s.gateways.set g x }
def State.desk (s : State) (d : Desk) : DeskState := s.desks[d]
def State.setDesk (s : State) (d : Desk) (x : DeskState) : State :=
  { s with desks := s.desks.set d x }
def State.queue (s : State) (d : Desk) : Queue := s.queues[d]
def State.setQueue (s : State) (d : Desk) (x : Queue) : State :=
  { s with queues := s.queues.set d x }
def State.mark (s : State) (d : Desk) : Word32 := s.marks[d]
def State.setMark (s : State) (d : Desk) (x : Word32) : State :=
  { s with marks := s.marks.set d x }
def State.area (s : State) (a : Area) : Option AreaRecord := s.map[a]
def State.setArea (s : State) (a : Area) (x : AreaRecord) : State :=
  { s with map := s.map.set a (some x) }
def State.load (s : State) (a : Area) : AreaLoad := s.loads[a]
def State.setLoad (s : State) (a : Area) (x : AreaLoad) : State :=
  { s with loads := s.loads.set a x }
def State.group (s : State) (g : GroupIdx) : Option Group := s.groups[g]
def State.setGroup (s : State) (g : GroupIdx) (x : Group) : State :=
  { s with groups := s.groups.set g (some x) }
def State.record (s : State) (i : RecordIdx) : Option Record := s.records[i]
def State.setRecord (s : State) (i : RecordIdx) (x : Option Record) : State :=
  { s with records := s.records.set i x }
def State.point (s : State) (p : Nat) : Option Point := tableGet s.points p
def State.setPoint (s : State) (p : Nat) (x : Point) : State :=
  { s with points := tableModify s.points p (fun _ => x) }
def State.channel (s : State) (c : Nat) : Option Channel := tableGet s.channels c
def State.setChannel (s : State) (c : Nat) (x : Channel) : State :=
  { s with channels := tableModify s.channels c (fun _ => x) }
def State.setShiftedOut (s : State) (p : Port) (bytes : List Byte) : State :=
  { s with shiftedOut := s.shiftedOut.set p bytes }

/-- A device parameter by its number (R176). -/
def State.param (s : State) (n : Fin 29) : Nat := s.params[n]

/-! ## Time (spec/05) -/

/-- The mill time of the moment (R82). -/
def State.mill (s : State) : MillTime := s.elapsed + s.offset

/-- The mill time an elapsed time has under the current offset (R82). -/
def State.millOf (s : State) (t : Time) : MillTime := t + s.offset

/-- The age of a stamp: the difference modulo 2^32, in tenths (R81). -/
def age (now t : Time) : Nat := (now - t).toNat

/-- a is at or before b: b minus a, modulo 2^32, is less than 2^31 (R82). -/
def atOrBefore (a b : Word32) : Bool := (b - a).toNat < 2 ^ 31

/-- An expiry has fallen due: elapsed time has reached it (R81; log entry 3). -/
def reached (now expiry : Time) : Bool := atOrBefore expiry now

/-- The same for an optional expiry: an absent expiry does not happen. -/
def reachedOpt (now : Time) : Option Time → Bool
  | none => false
  | some e => reached now e

/-- A time some tenths later. -/
def after (t : Time) (tenths : Nat) : Time := t + BitVec.ofNat 32 tenths

/-- The tenths that remain to an expiry, 0 once it is due. -/
def remaining (now expiry : Time) : Nat := if reached now expiry then 0 else (expiry - now).toNat

/-- Serial s is later than serial m (R32). -/
def later (s m : Word32) : Bool := 0 < (s - m).toNat && decide ((s - m).toNat < 2 ^ 31)

/-! ## The journal (R109, R110) -/

/-- An entry arrives: appended, displacing the oldest of a full journal into the gap count (R110). -/
def Journal.append (j : Journal) (e : JournalEntry) : Journal :=
  if j.entries.length < Config.journalCapacity then { j with entries := j.entries ++ [e] }
  else { entries := j.entries.tail ++ [e], gap := min Config.saturation (j.gap + 1) }

/-- What a rule gives an entry beside its mill time; what it does not name is none or 0 (R109). -/
structure EntryFields where
  port : Option Port := none
  badge : Option Badge := none
  area : Option Area := none
  point : Option Nat := none
  occ : Word16 := 0
  detail : Word32 := 0

/-- The journal receives an entry, stamped with the mill time of the moment (R82), while the device
is RUNNING (R109). -/
def State.enter (s : State) (kind : JournalKind) (f : EntryFields) : State :=
  { s with
    journal :=
      if s.dev = .running then
        s.journal.append
          { mill := s.mill, kind := kind, port := f.port, badge := f.badge, area := f.area
            point := f.point, occ := f.occ, detail := f.detail }
      else s.journal }

/-! ## The queues (R97 to R100) -/

/-- The capacity of a port's queue (R97). -/
def queueCapacity (d : Desk) : Nat :=
  if d = supervisor then Config.supervisorQueueCapacity else Config.consoleQueueCapacity

/-- The point of a POINT notice (R97). -/
def Notice.point? (n : Notice) : Option Nat :=
  match n.body with
  | .point b => some b.point
  | .timeSet _ _ => none
  | .gateways _ _ => none
  | .lockout _ _ => none
  | .area _ _ _ _ _ _ => none
  | .handover _ => none
  | .session _ _ _ _ => none
  | .summary _ _ _ _ => none

/-- The entry is a POINT notice for the same point. -/
def sameSubject (n e : Notice) : Bool := n.point?.isSome && n.point? == e.point?

/-- Inserted after every entry whose class is at or before its own, before every later one (R98). -/
def insertByClass (n : Notice) : List Notice → List Notice
  | [] => [n]
  | e :: rest => if e.cls ≤ n.cls then e :: insertByClass n rest else n :: e :: rest

/-- The in-place update of R99: the body is replaced, and an entry whose class changed moves to the
end of its new class. -/
def updateInPlace (n : Notice) (entries : List Notice) : List Notice :=
  if entries.any (fun e => sameSubject n e && e.cls == n.cls) then
    entries.map (fun e => if sameSubject n e then n else e)
  else insertByClass n (entries.filter (fun e => !sameSubject n e))

/-- The least urgent class present: the numerically greatest. -/
def leastUrgent (entries : List Notice) : Nat := entries.foldl (fun m e => max m e.cls) 0

/-- Removes the oldest entry of a class. -/
def removeOldest (cls : Nat) : List Notice → List Notice
  | [] => []
  | e :: rest => if e.cls = cls then rest else e :: removeOldest cls rest

/-- The notice is an in-place update in this queue (R98). -/
def Queue.holds (q : Queue) (n : Notice) : Bool := q.entries.any (sameSubject n)

/-- The notice is new to a queue that is full (R100). -/
def Queue.overflows (capacity : Nat) (q : Queue) (n : Notice) : Bool :=
  !q.holds n && decide (capacity ≤ q.entries.length)

/-- The notice takes a place in the queue: it is not dropped by R100. -/
def Queue.places (capacity : Nat) (q : Queue) (n : Notice) : Bool :=
  !q.overflows capacity n || decide (n.cls ≤ leastUrgent q.entries)

/-- A notice reaches a queue (R98, R99, R100). -/
def Queue.push (capacity : Nat) (q : Queue) (n : Notice) : Queue :=
  if q.holds n then { q with entries := updateInPlace n q.entries }
  else if q.entries.length < capacity then { q with entries := insertByClass n q.entries }
  else if n.cls ≤ leastUrgent q.entries then
    { entries := insertByClass n (removeOldest (leastUrgent q.entries) q.entries), resync := true }
  else { q with resync := true }

/-! ## Sessions, ports and areas as other rules read them -/

/-- The port of a desk holds a session in ACTIVE or IDLE. -/
def State.present (s : State) (d : Desk) : Bool :=
  match (s.desk d).session with
  | some x => x.presence != .absent
  | none => false

/-- The port's link is GOOD (R164). -/
def State.linkGood (s : State) (p : Port) : Bool := (s.port p).link == .good

/-- The port is enabled: the supervisor port always, a console by its PORTS entry once the device is
RUNNING (R115, R166). -/
def State.enabled (s : State) (d : Desk) : Bool :=
  d == supervisor || (s.dev == .running && s.portCfg[d].enabled)

/-- The reach of a desk holds an area; the supervisor port reaches every area (R115). -/
def State.reaches (s : State) (d : Desk) (a : Area) : Bool :=
  match deskConsole d with
  | some c => inSet s.reach[c] a
  | none => true

/-- The attendance of a defined area. -/
def State.attendance (s : State) (a : Area) : Option Attendance := (s.area a).map (·.attendance)

/-- The owner of an area. -/
def State.owner (s : State) (a : Area) : Option Party := (s.area a).bind (·.owner)

/-- The desk is the console of the party. -/
def isParty (d : Desk) : Option Party → Bool
  | some p => consoleDesk p.console == d
  | none => false

/-- The records, live ones only. -/
def State.liveRecords (s : State) : List Record := s.records.toList.filterMap id

/-- The record is in OVERLAP or HELD. -/
def Record.accepted (r : Record) : Bool := r.state != .offered

/-! ## Routing (R94, R95) -/

/-- Items 1 to 4 of R94: the ports a notice of the area's points names, escalation apart. -/
def State.areaNames (s : State) (a : Area) (d : Desk) : Bool :=
  (s.attendance a == some .attended && isParty d (s.owner a)) ||
  s.liveRecords.any (fun r => r.accepted && inSet r.areas a && isParty d r.incoming) ||
  (s.attendance a == some .covered && d == supervisor) ||
  (s.attendance a == some .unattended &&
    (d == supervisor || (s.reaches d a && s.present d)))

/-- The ports a POINT notice names, before the removal of disabled and SILENT ports (R94). -/
def State.pointNames (s : State) (a : Area) (escalated : Bool) (d : Desk) : Bool :=
  s.areaNames a d || (d == supervisor && escalated)

/-- The point's routing set holds the port (R94). -/
def State.routed (s : State) (a : Area) (escalated : Bool) (d : Desk) : Bool :=
  s.pointNames a escalated d && s.enabled d && s.linkGood (deskPort d)

/-- The ports an AREA notice names; `before` is the owner before the change (R95). -/
def State.areaNoticeNames (s : State) (a : Area) (before : Option Party) (d : Desk) : Bool :=
  d == supervisor || s.reaches d a || isParty d (s.owner a) || isParty d before ||
  s.liveRecords.any (fun r => inSet r.areas a && (isParty d (some r.outgoing) || isParty d r.incoming))

/-- One notice reaches each port it names: disabled ports apart, a SILENT port has its RESYNC marker
set in place of a copy (R94, R95, R96). Notices are made only while RUNNING (R93). -/
def deliver (s : State) (n : Notice) (names : Desk → Bool) : State :=
  { s with
    queues :=
      if s.dev = .running then
        Vector.ofFn fun d =>
          if names d && s.enabled d then
            if s.linkGood (deskPort d) then (s.queue d).push (queueCapacity d) n
            else { s.queue d with resync := true }
          else s.queue d
      else s.queues }

/-! ## Notices of areas and gateways -/

/-- The AREA notice of an area (R93, class 2), routed by R95. -/
def areaNotice (s : State) (a : Area) (before : Option Party) : State :=
  match s.area a with
  | none => s
  | some r =>
    let body := .area a r.nameIndex (s.load a).load (s.load a).state r.attendance r.owner
    deliver s { cls := 2, body := body } (s.areaNoticeNames a before)

/-- The SUMMARY notice of an area (class 3), routed by items 1 to 4 of R94 (R73, R95). -/
def summaryNotice (s : State) (a : Area) : State :=
  deliver s { cls := 3, body := .summary a (s.load a).count (s.load a).load (s.load a).state }
    (s.areaNames a)

/-- A gateway as a SYSTEM notice shows it. -/
def State.gatewayView (s : State) (g : Gateway) : GatewayView :=
  { link := (s.port (gatewayPort g)).link, health := (s.gateway g).health, role := (s.gateway g).role }

/-- The SYSTEM notice of a gateway change, to the supervisor port (R169, class 1). -/
def gatewayNotice (s : State) : State :=
  deliver s { cls := 1, body := .gateways (s.gatewayView 0) (s.gatewayView 1) } (· == supervisor)

end Sys2Proof.Machine
end

