-- ==== Sys2Proof/Machine/Flags.lean ====
section
/-! DEFINITION. Everything the rules compute from what is held: a point's condition (spec/01, 1.4), the
tests on points and groups (02, 03, 06), the load state (04, 4.5), attendance (08, 8.2), and the lines
of the part: horns (06, 6.4) and attention (06, R102; 11, R167). -/

namespace Sys2Proof.Machine

/-! ## Conditions (R10, R11, R12) -/

/-- A known condition as a condition. -/
def conditionOf (b : Bool) : Condition := if b then .isTrue else .isFalse

/-- Inside a hold band: a known condition is kept; an unknown one takes the last known condition, or
FALSE where there is none (R10). -/
def holdBand (previous : Condition) (lastKnown : Option Bool) : Bool :=
  match previous with
  | .isTrue => true
  | .isFalse => false
  | .unknown => lastKnown.getD false

/-- The lower band edge of a HIGH point: limit minus deadband, clamped to -32768 (R10). -/
def lowerEdge (limit : Word16) (deadband : Nat) : Int := max (-32768) (limit.toInt - deadband)

/-- The upper band edge of a LOW point: limit plus deadband, clamped to 32767 (R11). -/
def upperEdge (limit : Word16) (deadband : Nat) : Int := min 32767 (limit.toInt + deadband)

/-- The condition the point's rule gives for a stored value (R10, R11, R12). -/
def evaluate (c : PointCfg) (value : Word16) (previous : Condition) (lastKnown : Option Bool) : Bool :=
  match c.kind with
  | .high =>
    if c.limit.toInt < value.toInt then true
    else if value.toInt ≤ lowerEdge c.limit c.deadband then false
    else holdBand previous lastKnown
  | .low =>
    if value.toInt < c.limit.toInt then true
    else if upperEdge c.limit c.deadband ≤ value.toInt then false
    else holdBand previous lastKnown
  | .on => value == 1#16
  | .off => value == 0#16

/-! ## Tests on points -/

/-- The state is UNACK_ACTIVE or ACK_ACTIVE. -/
def AlarmState.inAlarm (a : AlarmState) : Bool := a == .unackActive || a == .ackActive

/-- The state is UNACK_ACTIVE or UNACK_RETURNED. -/
def AlarmState.unacked (a : AlarmState) : Bool := a == .unackActive || a == .unackReturned

/-- A head is active while it is IN_SERVICE and in alarm (R58). -/
def Point.active (p : Point) : Bool := p.inService && p.state.inAlarm

/-- A configured point is listable (R103). -/
def Point.listable (p : Point) : Bool := p.state != .normal || p.shelved || !p.inService

/-- The reason of a listable point's item: the first that fits (R143). -/
def Point.reason (p : Point) : ItemReason :=
  if !p.inService then .service
  else if p.shelved then .shelved
  else match p.state with
    | .unackActive => .unacked
    | .unackReturned => .unacked
    | .latched => .latched
    | .ackActive => .standing
    | .normal => .standing

/-- A quiet occurrence: in ACK_ACTIVE, not acknowledged (R31). -/
def Point.quiet (p : Point) : Bool := p.state == .ackActive && !p.acked

/-- The fields a POINT notice carries (R25), with the indications of the change that made it. -/
def Point.body (i : Nat) (p : Point) (noted chatter : Bool) : PointBody :=
  { point := i, area := p.cfg.area, priority := p.cfg.priority, state := p.state, occ := p.occ
    escalated := p.escalated, shelved := p.shelved, suppressed := p.suppressed
    badInput := p.badInput, chattering := p.chattering, muted := p.muted, noted := noted
    chatter := chatter, outOfService := !p.inService, raiseMill := p.stamp.map (·.mill)
    ack := p.ackRecord }

/-- The body of a listed point: as it stands, the note indication telling a quiet occurrence apart
(R103, R138; log entry 12). -/
def Point.listedBody (i : Nat) (p : Point) : PointBody := p.body i p.quiet false

/-- The POINT notice of a body: its class is the point's priority (R93). -/
def pointNoticeOf (b : PointBody) : Notice := { cls := b.priority, body := .point b }

/-- The point is a member of a group that is BLOCKING or RELEASING (R30, R31). -/
def State.blocks (s : State) (p : Point) : Bool :=
  match p.cfg.group.bind s.group with
  | some g => g.state != .isOpen
  | none => false

/-- A raise of the point at this moment would be quiet (R31). -/
def State.wouldBeQuiet (s : State) (p : Point) : Bool :=
  p.cfg.mode == .noteOnly || p.shelved || s.blocks p

/-- The raise carrying time t is folded (R26). -/
def Point.folds (p : Point) (t : Time) : Bool :=
  match p.lastReturn with
  | none => false
  | some r =>
    decide (age t r < p.cfg.chatterGap) &&
      (p.state == .unackReturned || p.state == .latched || (p.state == .normal && p.acked))

/-- The configured points of the area that are listable (R103). -/
def State.listablePoints (s : State) (a : Area) : List (Nat × Point) :=
  s.points.filter (fun e => e.2.cfg.area == a && e.2.listable)

/-! ## Loads (R63, R71, R75, R76) -/

/-- The weight of a priority (R63). -/
def State.weight (s : State) (priority : Nat) : Nat :=
  match priority with
  | 1 => s.param 0
  | 2 => s.param 1
  | 3 => s.param 2
  | _ => s.param 3

/-- One evaluation of a load state (R71). -/
def State.evalLoad (s : State) (before : LoadState) (load : Nat) : LoadState :=
  let be := s.param 6
  let bx := s.param 7
  let fe := s.param 8
  let fx := s.param 9
  match before with
  | .calm => if fe ≤ load then .flood else if be ≤ load then .busy else .calm
  | .busy => if fe ≤ load then .flood else if load ≤ bx then .calm else .busy
  | .flood => if load ≤ fx then (if load ≤ bx then .calm else .busy) else .flood

/-- L after a decay: less L·D/256 rounded up (R69). -/
def decayed (load d : Nat) : Nat := load - (load * d + 255) / 256

/-- A sum of loads that stops at 65535 (R75). -/
def State.sumLoads (s : State) (areas : List Area) : Nat :=
  min Config.saturation ((areas.map (fun a => (s.load a).load)).sum)

/-- The console load of a console and an area set together (R76). -/
def State.loadAfter (s : State) (c : Console) (set : Word16) : Nat :=
  s.sumLoads (allAreas.filter (fun a => inSet set a || (s.owner a).any (fun p => p.console == c)))

/-! ## Permissions (R114) -/

inductive Permission where
  | view | ack | shelve | service | take
deriving DecidableEq, Repr

/-- The bit of a permission in a ROLES entry (R176). -/
def Permission.bit : Permission → Nat
  | .view => 0 | .ack => 1 | .shelve => 2 | .service => 3 | .take => 4

inductive Right where
  | supervise | grant | engineer
deriving DecidableEq, Repr

/-- The bit of a right in a ROLES entry (R176). -/
def Right.bit : Right → Nat
  | .supervise => 0 | .grant => 1 | .engineer => 2

/-- A role holds a permission for an area. -/
def Role.permits (r : Role) (p : Permission) (a : Area) : Bool := r.perms[a].getLsbD p.bit

/-- A role holds a right. -/
def Role.holds (r : Role) (x : Right) : Bool := r.rights.getLsbD x.bit

/-- The role of a session. -/
def State.roleOf (s : State) (x : Session) : Role := s.roles[x.role]

/-! ## Attendance and entitlement (R131, R133) -/

/-- The attendance of an area with this owner (R131). -/
def State.deriveAttendance (s : State) (owner : Option Party) : Attendance :=
  let attended : Bool := match owner with
    | some p =>
      (match (s.desk (consoleDesk p.console)).session with
       | some x => x.presence != .absent && x.badge == p.badge
       | none => false) && s.linkGood (deskPort (consoleDesk p.console))
    | none => false
  if attended then .attended else if s.present supervisor then .covered else .unattended

/-- A port is entitled to act on an area (R133). -/
def State.entitled (s : State) (d : Desk) (a : Area) : Bool :=
  (isParty d (s.owner a) && s.attendance a == some .attended) ||
  (match ((s.area a).bind (·.link)).bind s.record with
   | some r => r.accepted && isParty d r.incoming
   | none => false) ||
  d == supervisor ||
  (s.attendance a == some .unattended && s.reaches d a)

/-! ## The lines of the part -/

/-- A point sounds console d's horn (R106). -/
def State.soundsConsole (s : State) (d : Desk) (p : Point) : Bool :=
  p.state == .unackActive && s.routed p.cfg.area p.escalated d &&
  decide (p.cfg.priority ≤ s.portCfg[d].hornFloor) && !p.muted && later p.raiseSerial (s.mark d)

/-- A point sounds the supervisor's horn (R107). -/
def State.soundsSupervisor (s : State) (p : Point) : Bool :=
  (p.escalated && p.escSerial.any (fun e => later e (s.mark supervisor))) ||
  (p.state == .unackActive &&
    (s.attendance p.cfg.area == some .covered || s.attendance p.cfg.area == some .unattended) &&
    !p.muted && later p.raiseSerial (s.mark supervisor))

/-- The horn line of a desk from the state of the device (R106, R107, R108): off while the device is
not RUNNING, and the supervisor's is off while its port is SILENT. -/
def State.hornLine (s : State) (d : Desk) : Bool :=
  s.dev == .running &&
  (if d = supervisor then
    s.linkGood (deskPort supervisor) && s.points.any (fun e => s.soundsSupervisor e.2)
  else s.points.any (fun e => s.soundsConsole d e.2))

/-- Something other than EMPTY waits on the port of a desk (R102). -/
def State.deskAttention (s : State) (d : Desk) : Bool :=
  (s.port (deskPort d)).slot.isSome || (s.queue d).resync || !(s.queue d).entries.isEmpty

/-- Something other than EMPTY waits on a gateway's port (R167). -/
def State.gatewayAttention (s : State) (g : Gateway) : Bool :=
  ((s.port (gatewayPort g)).slot.isSome || (s.gateway g).refresh) && (s.gateway g).health != .failed

/-- A port is a desk's or a gateway's. -/
def splitPort (p : Port) : Desk ⊕ Gateway :=
  if h : p.val < 7 then .inl ⟨p.val, h⟩ else .inr ⟨p.val - 7, by omega⟩

/-- The attention line of a port. -/
def State.attentionLine (s : State) (p : Port) : Bool :=
  match splitPort p with
  | .inl d => s.deskAttention d
  | .inr g => s.gatewayAttention g

/-- The lines take the values the state gives them, as the last part of every command (R108, R102;
log entry 10). -/
def settle (s : State) : State :=
  { s with horns := Vector.ofFn s.hornLine, attention := Vector.ofFn s.attentionLine }

end Sys2Proof.Machine
end

