-- ==== Sys2Proof/Machine/Responsibility.lean ====
section
/-! DEFINITION. The responsibility map's shared operations (spec/08): the re-derivation of attendance
and the changes of owners and links. -/

namespace Sys2Proof.Machine

/-- The map judges one area (R132): its attendance is derived afresh; a change sends the AREA notice
and makes the ATTENDANCE entry; an owner change (an area of `moved`) that leaves the attendance as it
was still sends its AREA notice. `old` is the state before the event, whose owner is named too
(R95). -/
def rederiveArea (old : State) (cause : Cause) (moved : Word16) (s : State) (a : Area) : State :=
  match s.area a with
  | none => s
  | some r =>
    let now := s.deriveAttendance r.owner
    let s1 := s.setArea a { r with attendance := now }
    if now ≠ r.attendance then
      (areaNotice s1 a (old.owner a)).enter .attendance
        { port := r.owner.map (fun p => deskPort (consoleDesk p.console))
          badge := r.owner.map (·.badge)
          area := some a
          detail := detail4 r.attendance.code now.code cause.code 0 }
    else if inSet moved a then areaNotice s1 a (old.owner a)
    else s1

/-- The map re-derives the attendance of every defined area (R132), in ascending index, an order R132
leaves open (log entry 30). -/
def rederive (old : State) (cause : Cause) (moved : Word16) (s : State) : State :=
  allAreas.foldl (rederiveArea old cause moved) s

/-- Changes the responsibility record of each defined area of a set. -/
def changeAreas (s : State) (set : Word16) (f : AreaRecord → AreaRecord) : State :=
  (areasOf set).foldl (fun t a => match t.area a with
    | some r => t.setArea a (f r)
    | none => t) s

/-- An owner change of a set of areas with its re-derivation (R132, cause OWNER_CHANGE). -/
def changeOwner (s : State) (set : Word16) (f : AreaRecord → AreaRecord) : State :=
  rederive s .ownerChange set (changeAreas s set f)

end Sys2Proof.Machine
end

