-- ==== Sys2Proof/Machine/HandoverOps.lean ====
section
/-! DEFINITION. The handover unit's shared operations (spec/09): notices of records, hold causes and the
overlap accounting, the item list, and the end of a record. -/

namespace Sys2Proof.Machine

/-! ## Notices -/

/-- The body of a record's HANDOVER notice while it is live (11.6). -/
def Record.body (i : RecordIdx) (r : Record) : HandoverBody :=
  { record := i, number := r.number, state := some r.state, flood := r.flood
    outgoingLost := r.outgoingLost, outcome := none, incomplete := r.incomplete
    coSigned := r.coSigned, areas := r.areas, outgoing := r.outgoing, target := r.target
    incoming := r.incoming }

/-- The body when the record has ended: its index, number and outcome (R163), and the other fields as
they last stood (log entry 13). -/
def Record.endBody (i : RecordIdx) (r : Record) (o : HandoverOutcome) : HandoverBody :=
  { r.body i with state := none, outcome := some o }

/-- A HANDOVER notice (R93, class 2): to the ports named, and in every case the supervisor (R95). -/
def handoverNotice (s : State) (b : HandoverBody) (names : Desk → Bool) : State :=
  deliver s { cls := 2, body := .handover b } (fun d => names d || d == supervisor)

/-- The parties of a record. -/
def Record.names (r : Record) (d : Desk) : Bool :=
  isParty d (some r.outgoing) || isParty d r.incoming

/-- The receivers of an offer (R145): the target console, or for ANY every console other than the
outgoing one whose reach holds every area of the set. -/
def State.receives (s : State) (r : Record) (d : Desk) : Bool :=
  match r.target with
  | some c => consoleDesk c == d
  | none => d != supervisor && !isParty d (some r.outgoing) &&
      (areasOf r.areas).all (fun a => s.reaches d a)

/-! ## Hold causes and overlap (R142, R152, R157) -/

/-- The overlap accumulated at this moment (R142). -/
def State.overlap (s : State) (r : Record) : Nat :=
  match r.state, r.resume with
  | .overlap, some t => r.accumulated + age s.elapsed t
  | _, _ => r.accumulated

/-- The tenths of the overlap limit. -/
def State.overlapLimit (s : State) : Nat := 10 * s.param 26

/-- The record has a hold cause. -/
def Record.caused (r : Record) : Bool := r.flood || r.outgoingLost

/-- Entry into OVERLAP with this much accumulated (R147, R152): no limit expiry when the limit is
already reached. -/
def State.enterOverlap (s : State) (r : Record) : Record :=
  { r with
    state := .overlap
    resume := some s.elapsed
    limitExpiry :=
      if s.overlapLimit ≤ r.accumulated then none
      else some (after s.elapsed (s.overlapLimit - r.accumulated)) }

/-- The state follows the causes (R157), with the overlap accounting of R152. -/
def State.followCauses (s : State) (r : Record) : Record :=
  match r.state with
  | .offered => r
  | .overlap =>
    if r.caused then
      { r with state := .held, accumulated := s.overlap r, resume := none, limitExpiry := none }
    else r
  | .held => if r.caused then r else s.enterOverlap r

/-- The HANDOVER STATE entry of a move between OVERLAP and HELD (R157). -/
def handoverStateEntry (s : State) (i : RecordIdx) (before : HandoverState) (r : Record) : State :=
  s.enter .handoverState
    { port := some (deskPort (consoleDesk r.outgoing.console))
      badge := some r.outgoing.badge
      detail := detail4 (byte i) (handoverCode (some before)) (handoverCode (some r.state))
        (causesByte r.flood r.outgoingLost) }

/-- A record's causes have become those of `r`: its state follows, one HANDOVER notice goes to the
parties and the supervisor, and a move is journaled (R157). No AREA notice goes out (log entry 42). -/
def changeCauses (s : State) (i : RecordIdx) (r : Record) : State :=
  let r' := s.followCauses r
  let s1 := handoverNotice (s.setRecord i (some r')) (r'.body i) r'.names
  if r'.state = r.state then s1 else handoverStateEntry s1 i r.state r'

/-- The load meter tells the handover unit that an area has entered FLOOD (R72, R157); the records act in
ascending index (log entry 30). -/
def floodEntered (s : State) (a : Area) : State :=
  allRecords.foldl (fun t i => match t.record i with
    | some r =>
      if r.accepted && inSet r.areas a && !r.flood then changeCauses t i { r with flood := true }
      else t
    | none => t) s

/-- No area of the set is FLOOD. -/
def State.floodFree (s : State) (set : Word16) : Bool :=
  (areasOf set).all (fun a => (s.load a).state != .flood)

/-- The load meter tells the handover unit that an area has left FLOOD (R72, R157); the records act in
ascending index (log entry 30). -/
def floodLeft (s : State) (a : Area) : State :=
  allRecords.foldl (fun t i => match t.record i with
    | some r =>
      if r.state == .held && r.flood && inSet r.areas a && t.floodFree r.areas then
        changeCauses t i { r with flood := false }
      else t
    | none => t) s

/-! ## The end of a record (R139, R163) -/

/-- The owner transfer at a commit: the incoming party becomes the owner of every area, the links go,
and attendance is re-derived (R139). -/
def ownerTransfer (s : State) (r : Record) : State :=
  changeOwner s r.areas (fun x => { x with owner := r.incoming, link := none })

/-- The outcome transfers the areas (R163). -/
def HandoverOutcome.transfers (o : HandoverOutcome) : Bool := o == .committed || o == .forced

/-- The lowest area of a set. -/
def lowestArea (set : Word16) : Option Area := (areasOf set).head?

/-- The HANDOVER END entry (R163). -/
def handoverEndEntry (s : State) (i : RecordIdx) (r : Record) (o : HandoverOutcome)
    (port : Option Port) (badge : Option Badge) : State :=
  s.enter .handoverEnd
    { port := port
      badge := badge
      area := lowestArea r.areas
      detail := detail4 (byte i) (outcomeCode (some o)) (handoverCode (some r.state))
        (if o.transfers then portByte (r.incoming.map (·.console.val)) else 0xFF#8) }

/-- An ending other than RESTARTED, handed on in the order of R163. `port` and `badge` are of the party
or supervisor whose action ended the record. -/
def endRecord (s : State) (i : RecordIdx) (r : Record) (o : HandoverOutcome)
    (port : Option Port) (badge : Option Badge) : State :=
  let s1 := if o.transfers then ownerTransfer s r
    else changeAreas s r.areas (fun x => { x with link := none })
  let s2 := s1.setRecord i none
  let s3 := handoverNotice s2 (r.endBody i o)
    (fun d => r.names d || (r.state == .offered && s2.receives r d))
  handoverEndEntry s3 i r o port badge

/-- The records that re-entered OVERLAP with their limit already reached end EXPIRED, as the next
event (R152; log entry 17). -/
def endOverruns (s : State) : State :=
  allRecords.foldl (fun t i => match t.record i with
    | some r =>
      if r.state == .overlap && r.limitExpiry.isNone then endRecord t i r .expired none none else t
    | none => t) s

/-! ## A change of a party's session (R157, R158) -/

/-- The handover unit is told that the session of a desk and badge has changed (R126 step 2): an
outgoing party that leaves ACTIVE and IDLE is lost; the end of an incoming party's session ends the
record REVOKED. Several records are told in ascending index, an order the spec leaves open (log entry
30). -/
def sessionTold (s : State) (d : Desk) (badge : Badge) (after : Option Presence) : State :=
  allRecords.foldl (fun t i => match t.record i with
    | some r =>
      if after.isNone && isParty d r.incoming && r.incoming.any (·.badge == badge) then
        endRecord t i r .revoked (some (deskPort d)) (some badge)
      else if (after.isNone || after == some .absent) && isParty d (some r.outgoing) &&
          r.outgoing.badge == badge && !r.outgoingLost then
        changeCauses t i { r with outgoingLost := true }
      else t
    | none => t) s

/-! ## Items (R143, R153) -/

/-- A new item of a point (R143). -/
def itemOf (i : Nat) (p : Point) : Item := { point := i, reason := p.reason, occ := p.occ, status := .isOpen }

/-- An item after a change of its point (R153); `fresh` says that a fresh raise has just begun a new
occurrence. A RESOLVED item whose point meets the listing test becomes OPEN by the third row of the table
also at a fold or a shelving, of which the text after the table and R155 say that the status stays (log
entry 39). -/
def Item.follow (t : Item) (p : Point) (fresh : Bool) : Item :=
  if fresh then { t with reason := p.reason, occ := p.occ, status := .isOpen }
  else if !p.listable then { t with status := .resolved }
  else if t.status = .resolved then { t with reason := p.reason, occ := p.occ, status := .isOpen }
  else { t with reason := p.reason }

/-- A record after a change of a point of its areas (R153). -/
def Record.follow (r : Record) (i : Nat) (p : Point) (fresh : Bool) : Record :=
  if r.items.any (·.point == i) then
    { r with items := r.items.map (fun t => if t.point = i then t.follow p fresh else t) }
  else if p.listable then
    if r.items.length < Config.itemCapacity then { r with items := r.items ++ [itemOf i p] }
    else { r with incomplete := true }
  else r

/-- Every live record in OVERLAP or HELD whose area set holds the point's area keeps its list current
(R153). -/
def handItems (s : State) (i : Nat) (p : Point) (fresh : Bool) : State :=
  { s with
    records := Vector.ofFn fun k =>
      (s.record k).map (fun r => if r.accepted && inSet r.areas p.cfg.area then r.follow i p fresh else r) }

/-- A point moved out of a record's areas has its item made RESOLVED (R153). -/
def resolveMoved (s : State) (i : Nat) (old new : Area) : State :=
  { s with
    records := Vector.ofFn fun k =>
      (s.record k).map (fun r =>
        if r.accepted && inSet r.areas old && !inSet r.areas new then
          { r with items := r.items.map (fun t => if t.point = i then { t with status := .resolved } else t) }
        else r) }

/-- The number of items OPEN. -/
def Record.openItems (r : Record) : Nat := (r.items.filter (·.status == .isOpen)).length

end Sys2Proof.Machine
end

