-- ==== Sys2Proof/Machine/LoadMeter.lean ====
section
/-! DEFINITION. The load meter's shared operations (spec/04): a change of load, its load state, muting,
decay and re-evaluation. -/

namespace Sys2Proof.Machine

/-- The tenths of the summary interval (R63). -/
def State.summaryInterval (s : State) : Nat := 10 * s.param 11

/-- An area leaves FLOOD: any pending count is reported at once, and the summary expiry is removed
(R74). -/
def leaveFlood (s : State) (a : Area) : State :=
  let s1 := if 0 < (s.load a).count then summaryNotice s a else s
  s1.setLoad a { s.load a with count := 0, summaryExpiry := none }

/-- A change of an area's load state is handed on (R72), `before` being the state before. -/
def loadStateChanged (s : State) (a : Area) (before : LoadState) : State :=
  let now := (s.load a).state
  let s1 := if now = .flood then floodEntered s a else if before = .flood then floodLeft s a else s
  let s2 :=
    if now = .flood then
      s1.setLoad a { s1.load a with summaryExpiry := some (after s1.elapsed s1.summaryInterval) }
    else if before = .flood then leaveFlood s1 a
    else s1
  (areaNotice s2 a (s2.owner a)).enter .loadState
    { area := some a
      detail := detail16 before.code now.code (BitVec.ofNat 16 (s2.load a).load) }

/-- An area's L becomes `load` and its state is evaluated, with the consequences of any change (R66,
R69, R71, R77). -/
def applyLoad (s : State) (a : Area) (load : Nat) : State :=
  let x := s.load a
  let st := s.evalLoad x.state load
  let s1 := s.setLoad a { x with load := load, state := st }
  if st = x.state then s1 else loadStateChanged s1 a x.state

/-- A weighted raise of a priority in an area: steps 1 and 2 of R66. -/
def weightedRaise (s : State) (a : Area) (priority : Nat) : State :=
  applyLoad s a (min Config.saturation ((s.load a).load + s.weight priority))

/-- A raise of this priority in the area is muted (R67). -/
def State.mutes (s : State) (a : Area) (priority : Nat) : Bool :=
  (s.load a).state == .flood && decide (s.param 10 ≤ priority)

/-- The count of a muted raise (R67). -/
def countMuted (s : State) (a : Area) : State :=
  s.setLoad a { s.load a with count := min Config.saturation ((s.load a).count + 1) }

/-- An area's decay at a load interval expiry is one event (R69). -/
def decayArea (s : State) (a : Area) : State :=
  if (s.area a).isSome && decide (0 < (s.load a).load) then
    endOverruns (applyLoad s a (decayed (s.load a).load (s.param 4)))
  else s

/-- The re-evaluation of a defined area after a threshold edit is one event (R77). -/
def reevaluateArea (s : State) (a : Area) : State :=
  if (s.area a).isSome then endOverruns (applyLoad s a (s.load a).load) else s

end Sys2Proof.Machine
end

