-- ==== Sys2Proof/Machine/Engine.lean ====
section
/-! DEFINITION. The alarm state engine (spec/02) and the group unit (spec/03, 3.4): how a change of a
point is handed on, raises, returns, acknowledgement and escalation, and the movement of a group. -/

namespace Sys2Proof.Machine

/-- What a change of a point hands on beside the point itself (R24, R25). -/
structure Change where
  /-- The change was a quiet raise. -/
  noted : Bool := false
  /-- The change set CHATTERING. -/
  chatter : Bool := false
  /-- A fresh raise has just begun a new occurrence. -/
  fresh : Bool := false
  /-- The load meter muted the raise: its point notice is withheld. -/
  withheld : Bool := false

/-- One POINT notice for the point as it stands (R25), routed by R94. -/
def pointNotice (s : State) (i : Nat) (noted chatter : Bool) : State :=
  match s.point i with
  | some p =>
    deliver s (pointNoticeOf (p.body i noted chatter)) (s.pointNames p.cfg.area p.escalated)
  | none => s

/-- Steps 2 and 4 of R24: the point notice, and the items of live records. -/
def announce (s : State) (i : Nat) (c : Change) : State :=
  match s.point i with
  | some p => handItems (if c.withheld then s else pointNotice s i c.noted c.chatter) i p c.fresh
  | none => s

/-! ## The group unit (R58, R59, R60) -/

/-- A member flagged SUPPRESSED at the release has the flag cleared, and its notice goes out (R60). -/
def releaseMember (s : State) (m : Nat) : State :=
  match s.point m with
  | some p =>
    if p.suppressed then announce (s.setPoint m { p with suppressed := false }) m {} else s
  | none => s

/-- The release of a group is one event (R60): it becomes OPEN, its SUPPRESSED members have the flag
cleared, and a further event is owed to each of them in list order. The point notices of the release go out in
list order too, an order R60 leaves open (log entry 41). -/
def releaseGroup (s : State) (g : GroupIdx) (x : Group) : State :=
  let held := x.members.filter (fun m => (s.point m).any (·.suppressed))
  let s1 := s.setGroup g { x with state := .isOpen, expiry := none, owed := x.owed ++ held }
  held.foldl releaseMember s1

/-- The group unit is told that its head has become active (R59). -/
def headBecameActive (s : State) (g : GroupIdx) : State :=
  match s.group g with
  | some x => s.setGroup g { x with state := .blocking, expiry := none }
  | none => s

/-- The group unit is told that its head has stopped being active (R59). A release delay of 0 releases
the group as the next event (log entry 17). -/
def headBecameInactive (s : State) (g : GroupIdx) : State :=
  match s.group g with
  | some x =>
    if x.state = .blocking then
      if x.delay = 0 then releaseGroup s g x
      else s.setGroup g { x with state := .releasing, expiry := some (after s.elapsed x.delay) }
    else s
  | none => s

/-- Step 5 of R24: if the point heads a group and its activity has changed, the group unit is told. -/
def groupTold (s : State) (i : Nat) (wasActive : Bool) : State :=
  match s.point i with
  | some p =>
    match p.cfg.headOf with
    | some g =>
      if p.active = wasActive then s
      else if p.active then headBecameActive s g
      else headBecameInactive s g
    | none => s
  | none => s

/-- The change of a point is handed on (R24 steps 2 to 5; the horn lines follow in `settle`). `old` is
the point before the change. -/
def handOn (s : State) (i : Nat) (old : Point) (c : Change) : State :=
  groupTold (announce s i c) i old.active

/-! ## Raises (R26 to R32) -/

/-- The point at the start of a new occurrence (R29). -/
def State.newOccurrence (s : State) (p : Point) (t : Time) : Point :=
  { p with
    occ := p.occ + 1, acked := false, ackRecord := none
    stamp := some { elapsed := t, mill := s.millOf t }
    escalated := false, escSerial := none, muted := false }

/-- An annunciated fresh raise (R30): `p` is the new occurrence. -/
def annunciate (s : State) (i : Nat) (old p : Point) : State :=
  let raised := { p with state := .unackActive, raiseSerial := s.serial + 1 }
  let s1 := { s with serial := s.serial + 1 }.setPoint i raised
  let s2 := weightedRaise s1 p.cfg.area p.cfg.priority
  if s2.mutes p.cfg.area p.cfg.priority then
    let s3 := (countMuted s2 p.cfg.area).setPoint i { raised with muted := true }
    handOn s3 i old { fresh := true, withheld := true }
  else handOn s2 i old { fresh := true }

/-- A quiet fresh raise (R31): `p` is the new occurrence. -/
def quietRaise (s : State) (i : Nat) (old p : Point) : State :=
  let raised := { p with state := .ackActive, suppressed := p.suppressed || s.blocks old }
  handOn (s.setPoint i raised) i old { fresh := true, noted := true }

/-- A fresh raise (R29, R30, R31). -/
def freshRaise (s : State) (i : Nat) (p : Point) (t : Time) : State :=
  let q := s.newOccurrence p t
  if s.wouldBeQuiet p then quietRaise s i p q else annunciate s i p q

/-- The point after a folded raise (R27, R28). An acknowledged occurrence folded while its group blocks
keeps acked-this-occurrence and its ack record, as R27 and R38 have it, though R61 says that a suppressed
occurrence has the first clear (log entry 35). -/
def State.folded (s : State) (p : Point) : Point :=
  let count := min 15 (p.chatterCount + 1)
  { p with
    state := if p.acked || s.wouldBeQuiet p then .ackActive else .unackActive
    suppressed := p.suppressed || s.blocks p
    chatterCount := count
    foldSince := true
    chattering := p.chattering || decide (s.param 23 ≤ count) }

/-- A folded raise (R27, R28). One that R61 calls quiet, taken while the point's group blocks, carries the
note indication (R25); one that would be quiet for another cause carries none (log entry 32). -/
def foldRaise (s : State) (i : Nat) (p : Point) : State :=
  let q := s.folded p
  handOn (s.setPoint i q) i p { noted := s.blocks p, chatter := q.chattering && !p.chattering }

/-- The engine takes a raise carrying time t (R26). -/
def engineRaise (s : State) (i : Nat) (t : Time) : State :=
  match s.point i with
  | some p => if p.folds t then foldRaise s i p else freshRaise s i p t
  | none => s

/-! ## Returns (R33) -/

/-- The state after a return: the first row of R33 that fits. At a return of which R49 is followed
(`unshelved`), a point in ACK_ACTIVE goes to NORMAL whatever its mode (log entry 34). -/
def Point.returnState (p : Point) (unshelved : Bool) : AlarmState :=
  match p.state with
  | .unackActive =>
    match p.cfg.mode with
    | .standard => .unackReturned
    | .latching => .unackReturned
    | .selfClearing => .normal
    | .noteOnly => .normal
  | .ackActive =>
    if unshelved || p.suppressed || p.shelved || !p.acked then .normal
    else if p.cfg.mode = .latching then .latched
    else .normal
  | .normal => .normal
  | .unackReturned => .unackReturned
  | .latched => .latched

/-- The point after a return carrying time t (R33, R49). -/
def Point.returned (p : Point) (t : Time) (unshelved : Bool) : Point :=
  { p with
    lastReturn := some t, escalated := false, escSerial := none
    state := p.returnState unshelved
    suppressed := p.suppressed && p.state != .ackActive }

/-- The engine takes a return carrying time t; `unshelved` says that R49 is followed. One that changes nothing the notice carries hands
nothing on (R24, R33). -/
def engineReturn (s : State) (i : Nat) (t : Time) (unshelved : Bool) : State :=
  match s.point i with
  | some p =>
    let q := p.returned t unshelved
    if q.body i false false = p.body i false false then s.setPoint i q
    else handOn (s.setPoint i q) i p {}
  | none => s

/-! ## Acknowledgement (R35, R38) and escalation (R39) -/

/-- The point after an acknowledgement (R35). -/
def Point.acknowledged (p : Point) (a : AckRecord) : Point :=
  { p with
    state := match p.state with
      | .unackActive => .ackActive
      | .unackReturned => if p.cfg.mode = .latching then .latched else .normal
      | .normal => .normal
      | .ackActive => .ackActive
      | .latched => .latched
    acked := true, ackRecord := some a, escalated := false, escSerial := none }

/-- The engine acknowledges the current occurrence of an unacknowledged point (R35). -/
def acknowledge (s : State) (i : Nat) (p : Point) (a : AckRecord) : State :=
  handOn (s.setPoint i (p.acknowledged a)) i p {}

/-- The engine escalates a point (R39). -/
def escalate (s : State) (i : Nat) (p : Point) : State :=
  let s1 := { s with serial := s.serial + 1 }.setPoint i
    { p with escalated := true, escSerial := some (s.serial + 1) }
  handOn s1 i p {}

/-! ## The events the evaluator delivers (R20) -/

/-- A raise or a return is delivered: the delivered condition takes its direction and the engine takes
the event (R13, R14, R20). `unshelved` says of a return that R49 is followed. -/
def deliverEvent (s : State) (i : Nat) (raise : Bool) (t : Time) (unshelved : Bool := false) : State :=
  match s.point i with
  | some p =>
    let s1 := s.setPoint i { p with delivered := raise }
    if raise then engineRaise s1 i t else engineReturn s1 i t unshelved
  | none => s

end Sys2Proof.Machine
end

