-- ==== Sys2Proof/Machine/SessionOps.lean ====
section
/-! DEFINITION. The session unit's and the credential table's shared operations (spec/07): the handing
on of a session change, the interaction, the end of a session, and the rows of the table. -/

namespace Sys2Proof.Machine

/-- The journal kind of a session change by its cause (R126 step 5). -/
def Cause.journalKind : Cause → JournalKind
  | .login => .login
  | .interaction => .sessionState
  | .idleLimit => .sessionState
  | .absentLimit => .sessionState
  | .logout => .logout
  | .endedBySupervisor => .sessionEnd
  | .revoked => .sessionEnd
  | .portLost => .sessionEnd
  | .ownerChange => .sessionEnd

/-- The SESSION notice of a change (R93, class 2), to the port whose session changed and to the supervisor
port (R95, R126). -/
def sessionNotice (s : State) (d : Desk) (badge : Badge) (after : Option Presence) (cause : Cause) :
    State :=
  deliver s { cls := 2, body := .session d badge after cause } (fun x => x == d || x == supervisor)

/-- A change of a desk's session is handed on (R126). -/
def sessionChanged (s : State) (d : Desk) (badge : Badge) (before after : Option Presence)
    (cause : Cause) : State :=
  let s1 := rederive s cause 0 s
  let s2 := sessionTold s1 d badge after
  (sessionNotice s2 d badge after cause).enter cause.journalKind
    { port := some (deskPort d), badge := some badge
      detail := detail4 (presenceCode before) (presenceCode after) cause.code 0 }

/-- The session's times at an interaction (R123), and its presence ACTIVE. -/
def State.touched (s : State) (d : Desk) (x : Session) : Session :=
  { x with
    presence := .active
    lastInteraction := s.elapsed
    idleExpiry := after s.elapsed (10 * s.portCfg[d].idleLimit)
    absentExpiry := after s.elapsed (10 * s.portCfg[d].absentLimit) }

/-- An interaction is recorded for the port's session (R123). -/
def interact (s : State) (d : Desk) : State :=
  match (s.desk d).session with
  | none => s
  | some x =>
    let s1 := s.setDesk d { s.desk d with session := some (s.touched d x) }
    if x.presence = .active then s1
    else sessionChanged s1 d x.badge (some x.presence) (some .active) .interaction

/-- The session becomes IDLE or ABSENT (R124). -/
def fadeSession (s : State) (d : Desk) (x : Session) (dest : Presence) (cause : Cause) : State :=
  sessionChanged (s.setDesk d { s.desk d with session := some { x with presence := dest } }) d x.badge
    (some x.presence) (some dest) cause

/-- The session of a port, if any, ends (R127). -/
def endSession (s : State) (d : Desk) (cause : Cause) : State :=
  match (s.desk d).session with
  | none => s
  | some x =>
    sessionChanged (s.setDesk d { s.desk d with session := none }) d x.badge (some x.presence) none
      cause

/-- The port at which a badge holds a session (R113). -/
def State.sessionOf (s : State) (b : Badge) : Option Desk :=
  allDesks.find? (fun d => (s.desk d).session.any (·.badge == b))

/-! ## The credential table (R112, R113) -/

abbrev CredRow := Vector (Option Credential) 4

/-- The row of a badge: the exclusive-or of its four bytes, modulo 64 (R113). -/
def rowOf (b : Badge) : Fin 64 :=
  let x : Byte := b.extractLsb' 24 8 ^^^ b.extractLsb' 16 8 ^^^ b.extractLsb' 8 8 ^^^ b.extractLsb' 0 8
  ⟨x.toNat % 64, Nat.mod_lt _ (by decide)⟩

def allWays : List (Fin 4) := [0, 1, 2, 3]

/-- The way of a row that holds a badge. -/
def wayOf (row : CredRow) (b : Badge) : Option (Fin 4) :=
  allWays.find? (fun w => row[w].any (·.badge == b))

/-- The lowest free way of a row (R112). -/
def freeWay (row : CredRow) : Option (Fin 4) := allWays.find? (fun w => row[w].isNone)

/-- The entry of a badge; lookup reads only the badge's row (R113). -/
def State.credential (s : State) (b : Badge) : Option Credential :=
  (wayOf s.creds[rowOf b] b).bind (fun w => s.creds[rowOf b][w])

/-- Writes one way of a table. -/
def setWay (creds : Vector CredRow 64) (row : Fin 64) (way : Fin 4) (x : Option Credential) :
    Vector CredRow 64 :=
  creds.set row (creds[row].set way x)

/-- The entry of a badge is removed and its way freed (R112). -/
def removeCredential (s : State) (b : Badge) : State :=
  match wayOf s.creds[rowOf b] b with
  | some w => { s with creds := setWay s.creds (rowOf b) w none }
  | none => s

end Sys2Proof.Machine
end

