-- ==== Sys2Proof/Machine/Links.lean ====
section
/-! DEFINITION. The port interface's shared operations (spec/11, 11.3 and 11.4): liveness, link state,
gateway health and roles. -/

namespace Sys2Proof.Machine

/-- A gateway is lost: SILENT or FAILED (R171). -/
def State.gatewayLost (s : State) (g : Gateway) : Bool :=
  !s.linkGood (gatewayPort g) || (s.gateway g).health == .failed

/-- A gateway is eligible: its link GOOD and its health GOOD or DOUBT (R171). -/
def State.eligible (s : State) (g : Gateway) : Bool :=
  s.linkGood (gatewayPort g) && ((s.gateway g).health == .good || (s.gateway g).health == .doubt)

/-- The PRIMARY, if roles are held. -/
def State.primary (s : State) : Option Gateway :=
  if (s.gateway 0).role = .primary then some 0
  else if (s.gateway 1).role = .primary then some 1
  else none

/-- The gateways exchange roles, `g` being the PRIMARY before (R171): REFRESH moves to the new PRIMARY,
and the journal receives GATEWAY ROLE with the cause code. -/
def exchangeRoles (s : State) (g : Gateway) (cause : Byte) : State :=
  let h := otherGateway g
  let s1 := s.setGateway g { s.gateway g with role := .secondary, refresh := false }
  let s2 := s1.setGateway h { s1.gateway h with role := .primary, refresh := true }
  s2.enter .gatewayRole { detail := detail4 (byte (gatewayPort h)) cause 0 0 }

/-- The roles are judged (R171). -/
def judgeRoles (s : State) : State :=
  match s.primary with
  | some g =>
    if s.gatewayLost g && s.eligible (otherGateway g) then exchangeRoles s g 0#8 else s
  | none => s

/-- The silence limit of a port, in seconds (R169). -/
def State.silenceLimit (s : State) (p : Port) : Nat := if p.val < 7 then s.param 27 else s.param 28

/-- A port is heard (R169): last heard and the liveness expiry move on; a SILENT port becomes GOOD
before its transaction is taken, and the change is handed on. -/
def hear (s : State) (p : Port) : State :=
  let x := s.port p
  let s1 := s.setPort p
    { x with
      link := .good, lastHeard := some s.elapsed
      liveness := some (after s.elapsed (10 * s.silenceLimit p + 1)) }
  if x.link = .good then s1
  else match splitPort p with
    | .inl _ => rederive s .portLost 0 s1
    | .inr _ => judgeRoles s1

/-- What a transaction is to a gateway's health (R170). -/
inductive FrameEvent where
  | sound | bad | fetch | linkReset
deriving DecidableEq, Repr

/-- A bad frame at time `now` (R170). -/
def GatewayState.badFrame (x : GatewayState) (now : Time) : GatewayState :=
  let fresh := { x with health := .doubt, history := [now], doubtExpiry := some (after now 100) }
  match x.health with
  | .absent => fresh
  | .good => fresh
  | .doubt =>
    let history := x.history.filter (fun t => age now t ≤ 99) ++ [now]
    if 3 ≤ history.length then { x with health := .failed, history := history, doubtExpiry := none }
    else { x with history := history, doubtExpiry := some (after now 100) }
  | .failed => x

/-- A gateway's fields after a transaction (R168, R170). -/
def GatewayState.next (x : GatewayState) (now : Time) : FrameEvent → GatewayState
  | .sound => if x.health = .absent then { x with health := .good } else x
  | .bad => x.badFrame now
  | .fetch => x
  | .linkReset => if x.health = .failed then { x with health := .absent, history := [] } else x

/-- A gateway's health takes its new value, and a change is handed on: the slot of a FAILED port is
emptied, the roles are judged, the journal receives GATEWAY HEALTH (R170). -/
def changeHealth (s : State) (g : Gateway) (y : GatewayState) : State :=
  let x := s.gateway g
  let s1 := s.setGateway g y
  if y.health = x.health then s1
  else
    let p := gatewayPort g
    let s2 := if y.health = .failed then s1.setPort p { s1.port p with slot := none } else s1
    (judgeRoles s2).enter .gatewayHealth
      { port := some p, detail := detail4 x.health.code y.health.code 0 0 }

/-- A transaction of one of the two kinds of port begins: liveness, then a gateway's health; one SYSTEM
notice covers a change of link and of health (R169, R170; log entry 15). -/
def beginTransaction (s : State) (p : Port) (ev : FrameEvent) : State :=
  match splitPort p with
  | .inl _ => hear s p
  | .inr g =>
    let s1 := hear s p
    let s2 := changeHealth s1 g ((s1.gateway g).next s.elapsed ev)
    if (s.port p).link = .good ∧ (s2.gateway g).health = (s.gateway g).health then s2
    else gatewayNotice s2

/-- A port becomes SILENT, with its consequences (R169, R141). -/
def becomeSilent (s : State) (p : Port) : State :=
  let s1 := s.setPort p { s.port p with link := .silent, liveness := none }
  match splitPort p with
  | .inl d =>
    let s2 := endSession s1 d .portLost
    rederive s2 .portLost 0 s2
  | .inr _ => gatewayNotice (judgeRoles s1)

end Sys2Proof.Machine
end

