-- ==== Sys2Proof/Machine/Operands.lean ====
section
/-! DEFINITION. How a request is taken (spec/11, 11.2): dispatch, the session check with its
interaction, permissions, the operands every rule reads from its body, and the answer. -/

namespace Sys2Proof.Machine

/-! ## Replies -/

/-- A refusal that names nothing. -/
def refuse (st : Status) : Reply := { status := st, inds := [], reason := none, detail := [] }

/-- A refusal that names an entry, area, item or check code (11.6, reason index). -/
def refuseAt (st : Status) (index : Nat) : Reply :=
  { status := st, inds := [], reason := some index, detail := [] }

/-- DONE with its indications and detail. -/
def done (inds : List Bool) (detail : List Byte) : Reply :=
  { status := .done, inds := inds, reason := none, detail := detail }

/-! ## Requests and their dispatch (R166) -/

abbrev DeskRule := Desk → Body → State → State × Reply
abbrev GatewayRule := Gateway → Body → State → State × Reply

/-- A request of the catalogue: admitted at ports 0 to 6, a configuration request or not, or admitted
at ports 7 and 8 (11.7). -/
inductive Request where
  | desk (configuration : Bool) (rule : DeskRule)
  | gateway (rule : GatewayRule)

/-- Dispatch (R166). A kind that is not in the catalogue has no request. -/
def dispatch (req : Option Request) (p : Port) (body : Body) (s : State) : State × Reply :=
  match req, splitPort p with
  | none, _ => (s, refuse .malformed)
  | some (.desk _ _), .inr _ => (s, refuse .noPermission)
  | some (.gateway _), .inl _ => (s, refuse .noPermission)
  | some (.desk configuration rule), .inl d =>
    if !s.enabled d then (s, refuse .noPermission)
    else if s.dev ≠ .running ∧ configuration = false then (s, refuse .notRunning)
    else rule d body s
  | some (.gateway rule), .inr g => rule g body s

/-- A gateway port in FAILED takes no frame (R170). -/
def State.deaf (s : State) (p : Port) : Bool :=
  match splitPort p with
  | .inl _ => false
  | .inr g => (s.gateway g).health == .failed

/-- A bad transaction: discarded, but for its liveness and a gateway's health (R165, R170). -/
def badTransaction (p : Port) (s : State) : State := beginTransaction s p .bad

/-- A sound frame: discarded at a FAILED gateway (R170); at a full slot discarded with the overrun flag
set; else its request is taken and its answer placed in the slot (R165). -/
def soundFrame (p : Port) (code tag : Byte) (body : Body) (req : Option Request) (s : State) : State :=
  let s1 := beginTransaction s p .sound
  if s1.deaf p then s1
  else if (s1.port p).slot.isSome then s1.setPort p { s1.port p with overrun := true }
  else
    let r := dispatch req p body s1
    r.1.setPort p { r.1.port p with slot := some { kind := code, tag := tag, reply := r.2 } }

/-- A SEND of a frame with this kind, tag and body: a body longer than 250 bytes makes no sound frame
(R165; log entry 4). -/
def send (p : Port) (code tag : Byte) (body : Body) (req : Option Request) (s : State) : State :=
  if body.length ≤ maxBody then soundFrame p code tag body req s else badTransaction p s

/-- A request of the catalogue, as a command: it is sent, and the lines settle. -/
def runRequest (p : Port) (k : Kind) (tag : Byte) (body : Body) (req : Request) (s : State) :
    Host.Outcome State Fault Refusal :=
  .next (settle (send p k.code tag body (some req) s))

/-! ## Checks -/

/-- The session check of a rule: refused NO_SESSION, or the interaction is recorded and the rule goes
on with the session as it then stands (R119, R123, R134). -/
def withSession (s : State) (d : Desk) (k : State → Session → State × Reply) : State × Reply :=
  let s1 := interact s d
  match (s1.desk d).session with
  | some x => k s1 x
  | none => (s1, refuse .noSession)

/-- The port is the supervisor port and the session's role holds the right. -/
def State.supervises (s : State) (d : Desk) (x : Session) (r : Right) : Bool :=
  d == supervisor && (s.roleOf x).holds r

/-- The first area of a set, ascending, that fails a test. -/
def firstFailing (set : Word16) (ok : Area → Bool) : Option Area :=
  (areasOf set).find? (fun a => !ok a)

/-- Every area of a set is defined. -/
def State.allDefined (s : State) (set : Word16) : Bool :=
  (areasOf set).all (fun a => (s.area a).isSome)

/-- An area index from a byte: 0..15. -/
def areaOf (b : Byte) : Option Area := if h : b.toNat < 16 then some ⟨b.toNat, h⟩ else none

/-- A console index from a byte: 0..5. -/
def consoleOf (b : Byte) : Option Console := if h : b.toNat < 6 then some ⟨b.toNat, h⟩ else none

/-- A record index from a byte: 0..7. -/
def recordOf (b : Byte) : Option RecordIdx := if h : b.toNat < 8 then some ⟨b.toNat, h⟩ else none

/-- A role index from a byte: 0..7. -/
def roleIdx (b : Byte) : Option (Fin 8) := if h : b.toNat < 8 then some ⟨b.toNat, h⟩ else none

/-- A defined area named by a byte (NO_SUCH otherwise). -/
def State.definedArea (s : State) (b : Byte) : Option Area :=
  (areaOf b).bind (fun a => if (s.area a).isSome then some a else none)

/-- The live record a record reference names (R142): its number equals the carried one. -/
def State.referred (s : State) (i : RecordIdx) (number : Word16) : Option Record :=
  (s.record i).bind (fun r => if r.number = number then some r else none)

/-- The parts of an operator request that touches one point: its session, the permission for the
point's area and the entitlement (R34, R42, R46, R50, R54, R55, steps 2 to 5 or 6). `limit` is the
further test of R46 step 5, made between the permission and the entitlement. -/
def onPoint (s : State) (d : Desk) (point : Word16) (perm : Permission) (limit : State → Point → Bool)
    (k : State → Session → Nat → Point → State × Reply) : State × Reply :=
  match s.point point.toNat with
  | none => (s, refuse .noSuch)
  | some _ =>
    withSession s d fun s1 x =>
      match s1.point point.toNat with
      | none => (s1, refuse .noSuch)
      | some p =>
        if !(s1.roleOf x).permits perm p.cfg.area then (s1, refuse .noPermission)
        else if !limit s1 p then (s1, refuse .noPermission)
        else if !s1.entitled d p.cfg.area then (s1, refuse .notResponsible)
        else k s1 x point.toNat p

/-- No further test. -/
def noLimit (_ : State) (_ : Point) : Bool := true

/-- The state of a point after a request, for its answer. -/
def State.pointState (s : State) (i : Nat) : AlarmState :=
  match s.point i with
  | some p => p.state
  | none => .normal

/-- The occurrence number of a point, for an answer. -/
def State.pointOcc (s : State) (i : Nat) : Word16 :=
  match s.point i with
  | some p => p.occ
  | none => 0

/-- The answer detail of a point: its index, its occurrence number and its state. -/
def pointDetail (s : State) (i : Nat) : List Byte :=
  num16 i ++ be16 (s.pointOcc i) ++ [(s.pointState i).code]

end Sys2Proof.Machine
end

