-- ==== Sys2Proof/Machine/Alarms.lean ====
section
/-! DEFINITION. The requests of alarms, the horn and the journal (spec/02, 2.5 to 2.7; spec/06): ACK
POINT, ACK AREA, RESET POINT, SILENCE, QUERY LIST and READ JOURNAL. -/

namespace Sys2Proof.Machine

/-! ## ACK POINT (R34, R35) -/

/-- The ack record a session writes at this moment (R35). -/
def State.ackNow (s : State) (d : Desk) (x : Session) : AckRecord :=
  { badge := x.badge, desk := d, mill := s.mill }

/-- ACK POINT (R34, R35). The detail word of its entry holds the new state (R35), so it differs with the order
of ACK POINT and return although R37 calls the entry the same (log entry 37). After a fold that left an
unacknowledged occurrence quiet, step 7 of R34 answers WRONG_STATE, where R36 names only that the request is
taken or answered ALREADY (log entry 38). -/
def ackPointRule : DeskRule := fun d body s =>
  match body with
  | [p1, p0, o1, o0] =>
    onPoint s d (read16 p1 p0) .ack noLimit fun s1 x i p =>
      if p.occ ≠ read16 o1 o0 then (s1, refuse .staleView)
      else if !p.state.unacked then
        (s1, refuse (if p.acked then .already else .wrongState))
      else
        let s2 := acknowledge s1 i p (s1.ackNow d x)
        (s2.enter .ack
            { port := some (deskPort d), badge := some x.badge, area := some p.cfg.area
              point := some i, occ := p.occ, detail := detail4 (s2.pointState i).code 0 0 0 },
          done [] (pointDetail s2 i))
  | _ => (s, refuse .malformed)

def execAckPoint (port : Port) (tag : Byte) (body : Body) (s : State) : Host.Outcome State Fault Refusal :=
  runRequest port .ackPoint tag body (.desk false ackPointRule) s

/-! ## ACK AREA (R40) -/

/-- ACK AREA acknowledges this point at its visit (R40): it is unacknowledged, raised at or before the
seen-up-to time, and routed to the port. -/
def State.ackable (s : State) (d : Desk) (a : Area) (seen : MillTime) (p : Point) : Bool :=
  p.cfg.area == a && p.state.unacked && p.stamp.any (fun t => atOrBefore t.mill seen) &&
  s.routed a p.escalated d

/-- One visit of ACK AREA, with the count so far (R40). -/
def ackVisit (d : Desk) (a : Area) (seen : MillTime) (x : Session) (acc : State × Nat) (i : Nat) :
    State × Nat :=
  match acc.1.point i with
  | some p =>
    if acc.1.ackable d a seen p then
      (acknowledge acc.1 i p (acc.1.ackNow d x), acc.2 + 1)
    else acc
  | none => acc

/-- The part of a rule on one area: NO_SUCH, the session, the permission, the entitlement (R40). -/
def onArea (s : State) (d : Desk) (b : Byte) (perm : Permission)
    (k : State → Session → Area → State × Reply) : State × Reply :=
  match s.definedArea b with
  | none => (s, refuse .noSuch)
  | some a =>
    withSession s d fun s1 x =>
      if !(s1.roleOf x).permits perm a then (s1, refuse .noPermission)
      else if !s1.entitled d a then (s1, refuse .notResponsible)
      else k s1 x a

/-- ACK AREA (R40): the configured points are visited in ascending index; one journal entry. -/
def ackAreaRule : DeskRule := fun d body s =>
  match body with
  | [b, t3, t2, t1, t0] =>
    let seen := read32 t3 t2 t1 t0
    onArea s d b .ack fun s1 x a =>
      let r := (s1.points.map (·.1)).foldl (ackVisit d a seen x) (s1, 0)
      (r.1.enter .ackArea
          { port := some (deskPort d), badge := some x.badge, area := some a
            occ := BitVec.ofNat 16 r.2, detail := seen },
        done [] (num16 r.2))
  | _ => (s, refuse .malformed)

def execAckArea (port : Port) (tag : Byte) (body : Body) (s : State) : Host.Outcome State Fault Refusal :=
  runRequest port .ackArea tag body (.desk false ackAreaRule) s

/-! ## RESET POINT (R42) -/

/-- RESET POINT (R42). -/
def resetPointRule : DeskRule := fun d body s =>
  match body with
  | [p1, p0] =>
    onPoint s d (read16 p1 p0) .ack noLimit fun s1 x i p =>
      if p.state ≠ .latched then (s1, refuse .wrongState)
      else
        let s2 := handOn (s1.setPoint i { p with state := .normal }) i p {}
        (s2.enter .reset
            { port := some (deskPort d), badge := some x.badge, area := some p.cfg.area
              point := some i, occ := p.occ },
          done [] (num16 i ++ be16 p.occ))
  | _ => (s, refuse .malformed)

def execResetPoint (port : Port) (tag : Byte) (body : Body) (s : State) : Host.Outcome State Fault Refusal :=
  runRequest port .resetPoint tag body (.desk false resetPointRule) s

/-! ## SILENCE (R105) -/

/-- SILENCE (R105). -/
def silenceRule : DeskRule := fun d body s =>
  match body with
  | [] =>
    withSession s d fun s1 x =>
      ((s1.setMark d s1.serial).enter .silence
          { port := some (deskPort d), badge := some x.badge, detail := s1.serial },
        done [] (be32 s1.serial))
  | _ => (s, refuse .malformed)

def execSilence (port : Port) (tag : Byte) (body : Body) (s : State) : Host.Outcome State Fault Refusal :=
  runRequest port .silence tag body (.desk false silenceRule) s

/-! ## QUERY LIST (R103) -/

/-- The most points a QUERY LIST answer holds (R103). -/
def queryListMax : Nat := 8

/-- QUERY LIST (R103): up to 8 bodies of the listable points from the first index on, and the index
after the last point listed, or none when no listable point lies beyond it. -/
def queryListRule : DeskRule := fun d body s =>
  match body with
  | [b, f1, f0] =>
    let first := (read16 f1 f0).toNat
    match s.definedArea b with
    | none => (s, refuse .noSuch)
    | some a =>
      if 2048 ≤ first then (s, refuse .noSuch)
      else withSession s d fun s1 x =>
        if !(s1.roleOf x).permits .view a then (s1, refuse .noPermission)
        else if !(s1.reaches d a || isParty d (s1.owner a)) then (s1, refuse .noPermission)
        else
          let found := (s1.listablePoints a).filter (fun e => first ≤ e.1)
          let listed := found.take queryListMax
          let next := if found.length ≤ queryListMax then none
            else listed.getLast?.map (fun e => e.1 + 1)
          (s1, done [] (byte listed.length ::
            (listed.flatMap (fun e => (e.2.listedBody e.1).bytes) ++ pointField next)))
  | _ => (s, refuse .malformed)

def execQueryList (port : Port) (tag : Byte) (body : Body) (s : State) : Host.Outcome State Fault Refusal :=
  runRequest port .queryList tag body (.desk false queryListRule) s

/-! ## READ JOURNAL (R111) -/

/-- READ JOURNAL (R111). -/
def readJournalRule : DeskRule := fun d body s =>
  match body with
  | [n] =>
    if n.toNat = 0 ∨ 8 < n.toNat then (s, refuse .malformed)
    else withSession s d fun s1 x =>
      if !s1.supervises d x .supervise then (s1, refuse .noPermission)
      else
        let taken := s1.journal.entries.take n.toNat
        let left := s1.journal.entries.drop n.toNat
        ({ s1 with journal := { entries := left, gap := 0 } },
          done [] (byte taken.length :: (taken.flatMap JournalEntry.bytes ++ num16 taken.length ++
            num16 left.length ++ num16 s1.journal.gap)))
  | _ => (s, refuse .malformed)

def execReadJournal (port : Port) (tag : Byte) (body : Body) (s : State) : Host.Outcome State Fault Refusal :=
  runRequest port .readJournal tag body (.desk false readJournalRule) s

end Sys2Proof.Machine
end

