-- ==== Sys2Proof/Machine/Areas.lean ====
section
/-! DEFINITION. The ownership requests (spec/08, 8.4 and 8.5): CLAIM AREA, RELEASE AREA and RELOCATE. -/

namespace Sys2Proof.Machine

/-- The area set that holds one area. -/
def onlyArea (a : Area) : Word16 := 1#16 <<< a.val

/-- The handover link of an area is present. -/
def State.linked (s : State) (a : Area) : Bool := (s.area a).any (·.link.isSome)

/-! ## CLAIM AREA (R135) -/

/-- CLAIM AREA (R135). -/
def claimAreaRule : DeskRule := fun d body s =>
  match body with
  | [b] =>
    match s.definedArea b with
    | none => (s, refuse .noSuch)
    | some a =>
      withSession s d fun s1 x =>
        match deskConsole d with
        | none => (s1, refuse .noPermission)
        | some c =>
          let role := s1.roleOf x
          if !(role.permits .take a && role.permits .view a) then (s1, refuse .noPermission)
          else if !s1.reaches d a then (s1, refuse .noPermission)
          else if s1.linked a then (s1, refuse .areaBusy)
          else if (s1.owner a).isSome then (s1, refuse .wrongState)
          else
            let owner : Party := { console := c, badge := x.badge }
            let s2 := changeOwner s1 (onlyArea a) (fun r => { r with owner := some owner })
            (s2.enter .claim
                { port := some (deskPort d), badge := some x.badge, area := some a },
              done [] ([b, ((s2.attendance a).getD .unattended).code] ++
                num16 (s2.listablePoints a).length))
  | _ => (s, refuse .malformed)

def execClaimArea (port : Port) (tag : Byte) (body : Body) (s : State) : Host.Outcome State Fault Refusal :=
  runRequest port .claimArea tag body (.desk false claimAreaRule) s

/-! ## RELEASE AREA (R136) -/

/-- RELEASE AREA (R136). -/
def releaseAreaRule : DeskRule := fun d body s =>
  match body with
  | [b] =>
    match s.definedArea b with
    | none => (s, refuse .noSuch)
    | some a =>
      withSession s d fun s1 x =>
        if !s1.supervises d x .supervise then (s1, refuse .noPermission)
        else if s1.linked a then (s1, refuse .areaBusy)
        else match s1.owner a with
          | none => (s1, refuse .wrongState)
          | some former =>
            let before := ((s1.attendance a).getD .unattended).code
            let s2 := changeOwner s1 (onlyArea a) (fun r => { r with owner := none })
            (s2.enter .release
                { port := some (deskPort d), badge := some x.badge, area := some a
                  detail := detail4 (byte former.console) before 0 0 },
              done [] (byte former.console :: be32 former.badge))
  | _ => (s, refuse .malformed)

def execReleaseArea (port : Port) (tag : Byte) (body : Body) (s : State) : Host.Outcome State Fault Refusal :=
  runRequest port .releaseArea tag body (.desk false releaseAreaRule) s

/-! ## RELOCATE (R137, R138) -/

/-- A raise stamp comes before another: an absent one first, then the oldest (R138, R147; ages by
R81). -/
def stampBefore (now : Time) (x y : Point) : Bool :=
  match x.stamp, y.stamp with
  | none, some _ => true
  | some a, some b => decide (age now b.elapsed < age now a.elapsed)
  | _, none => false

/-- The listable points of the areas of a set, in ascending index. -/
def State.listableOf (s : State) (set : Word16) : List (Nat × Point) :=
  s.points.filter (fun e => inSet set e.2.cfg.area && e.2.listable)

/-- The burst of a RELOCATE in order: oldest raise stamp first, ties by ascending index (R138). -/
def State.burst (s : State) (set : Word16) : List (Nat × Point) :=
  sortBy (fun x y => stampBefore s.elapsed x.2 y.2) (s.listableOf set)

/-- A burst as it fills a queue: the queue, the areas of the notices placed, and whether one
overflowed. -/
structure BurstState where
  queue : Queue
  placed : List Area
  overflowed : Bool

/-- One POINT notice of a burst reaches the queue (R138). -/
def burstStep (capacity : Nat) (b : BurstState) (e : Nat × Point) : BurstState :=
  let n := pointNoticeOf (e.2.listedBody e.1)
  { queue := b.queue.push capacity n
    placed := if b.queue.places capacity n then e.2.cfg.area :: b.placed else b.placed
    overflowed := b.overflowed || b.queue.overflows capacity n }

/-- The RELOCATE entry of one area (R138 step 4). -/
def relocateEntry (old : State) (d : Desk) (x : Session) (owner : Party) (placed : List Area)
    (s : State) (a : Area) : State :=
  s.enter .relocate
    { port := some (deskPort d), badge := some x.badge, area := some a
      detail := detail16 (portByte ((old.owner a).map (·.console.val))) (byte owner.console)
        (BitVec.ofNat 16 (placed.count a)) }

/-- A RELOCATE that is taken, whole, in the order of R138. -/
def relocateTaken (s : State) (d : Desk) (x : Session) (set : Word16) (owner : Party) :
    State × Reply :=
  let dest := consoleDesk owner.console
  let points := s.burst set
  let b := points.foldl (burstStep (queueCapacity dest))
    { queue := s.queue dest, placed := [], overflowed := false }
  let s1 := changeOwner (s.setQueue dest b.queue) set (fun r => { r with owner := some owner })
  ((areasOf set).foldl (relocateEntry s d x owner b.placed) s1,
    done [b.overflowed] (num16 (areasOf set).length ++ num16 points.length))

/-- RELOCATE (R137). -/
def relocateRule : DeskRule := fun d body s =>
  match body with
  | [a1, a0, cb] =>
    let set := read16 a1 a0
    if set = 0#16 then (s, refuse .malformed)
    else match consoleOf cb with
      | none => (s, refuse .noSuch)
      | some c =>
        if !s.allDefined set then (s, refuse .noSuch)
        else withSession s d fun s1 x =>
          if !s1.supervises d x .supervise then (s1, refuse .noPermission)
          else if !s1.enabled (consoleDesk c) then (s1, refuse .noSuch)
          else match firstFailing set (fun a => !s1.linked a) with
            | some a => (s1, refuseAt .areaBusy a.val)
            | none =>
              match (s1.desk (consoleDesk c)).session with
              | none => (s1, refuse .wrongState)
              | some y =>
                if y.presence = .absent then (s1, refuse .wrongState)
                else match firstFailing set (fun a =>
                    (s1.roleOf y).permits .take a && (s1.roleOf y).permits .view a) with
                  | some a => (s1, refuseAt .noPermission a.val)
                  | none => relocateTaken s1 d x set { console := c, badge := y.badge }
  | _ => (s, refuse .malformed)

def execRelocate (port : Port) (tag : Byte) (body : Body) (s : State) : Host.Outcome State Fault Refusal :=
  runRequest port .relocate tag body (.desk false relocateRule) s

end Sys2Proof.Machine
end

