-- ==== Sys2Proof/Machine/Evaluator.lean ====
section
/-! DEFINITION. The condition evaluator (spec/01, 1.4 to 1.8): a new condition against the delivered
one, loss and return of input, and the entries of a channel report. -/

namespace Sys2Proof.Machine

/-- The indices of the configured points bound to a channel, ascending (R9). -/
def State.boundTo (s : State) (c : Nat) : List Nat :=
  (s.points.filter (fun e => e.2.cfg.channel == c)).map (·.1)

/-- The evaluator handles a known condition of a point (R13, R18). A condition equal to the previous
one changes nothing; on an OUT_OF_SERVICE point a change sets the condition and the last known
condition alone. -/
def handleCondition (s : State) (i : Nat) (p : Point) (now : Bool) : State :=
  if p.cond = conditionOf now then s
  else
    let q := { p with cond := conditionOf now, lastKnown := some now }
    if !p.inService then s.setPoint i q
    else if now = p.delivered then s.setPoint i { q with pendingPart := none }
    else
      let delay := if now then p.cfg.onDelay else p.cfg.offDelay
      if delay = 0 then deliverEvent (s.setPoint i q) i now s.elapsed
      else s.setPoint i { q with pendingPart := some { raise := now, expiry := after s.elapsed delay } }

/-- The evaluator evaluates a point from its channel's stored value (R9). -/
def evaluatePoint (s : State) (value : Word16) (i : Nat) : State :=
  match s.point i with
  | some p => handleCondition s i p (evaluate p.cfg value p.cond p.lastKnown)
  | none => s

/-- The loss of input of a point (R16). -/
def loseInput (s : State) (i : Nat) : State :=
  match s.point i with
  | some p =>
    pointNotice (s.setPoint i { p with cond := .unknown, pendingPart := none, badInput := true })
      i false false
  | none => s

/-- The return of input of a point: BAD_INPUT clears, the condition is evaluated and handled, and a
point notice goes out (R17). -/
def regainInput (s : State) (value : Word16) (i : Nat) : State :=
  match s.point i with
  | some p =>
    pointNotice (evaluatePoint (s.setPoint i { p with badInput := false }) value i) i false false
  | none => s

/-- The channel's points lose their input, in ascending index (R16). -/
def losePoints (s : State) (c : Nat) : State := (s.boundTo c).foldl loseInput s

/-- The value a GOOD entry stores: any nonzero value of a DISCRETE channel is 1 (R3). -/
def storedValue (k : ChannelKind) (v : Word16) : Word16 :=
  match k with
  | .analog => v
  | .discrete => if v = 0#16 then 0#16 else 1#16

/-- A GOOD entry for a configured channel (R3, R17). -/
def applyGood (s : State) (c : Nat) (x : Channel) (v : Word16) : State :=
  let value := storedValue x.kind v
  let s1 := s.setChannel c { x with value := value, quality := .good, lastReport := some s.elapsed }
  match x.quality with
  | .bad => (s1.boundTo c).foldl (fun t i => regainInput t value i) s1
  | .stale => (s1.boundTo c).foldl (fun t i => regainInput t value i) s1
  | .good => (s1.boundTo c).foldl (fun t i => evaluatePoint t value i) s1
  | .never => (s1.boundTo c).foldl (fun t i => evaluatePoint t value i) s1

/-- A BAD entry for a configured channel (R4). -/
def applyBad (s : State) (c : Nat) (x : Channel) : State :=
  let s1 := s.setChannel c { x with quality := .bad, lastReport := some s.elapsed }
  match x.quality with
  | .good => losePoints s1 c
  | .never => losePoints s1 c
  | .bad => s1
  | .stale => s1

/-- The review sweep marks a channel STALE (R5). -/
def markStale (s : State) (c : Nat) (x : Channel) : State :=
  losePoints (s.setChannel c { x with quality := .stale }) c

/-! ## The checks of a sweep visit (R87) -/

/-- The escalation check finds the point due (R88). -/
def State.escalationDue (s : State) (p : Point) : Bool :=
  let limit := match p.cfg.priority with
    | 1 => s.param 17
    | 2 => s.param 18
    | 3 => s.param 19
    | _ => s.param 20
  p.state == .unackActive && !p.escalated && decide (0 < limit) &&
    p.stamp.any (fun t => decide (10 * limit ≤ age s.elapsed t.elapsed))

/-- The escalation check (R88, R39). -/
def escalationCheck (s : State) (i : Nat) : State :=
  match s.point i with
  | some p => if s.escalationDue p then escalate s i p else s
  | none => s

/-- The staleness check finds the channel due (R90). -/
def State.staleDue (s : State) (x : Channel) (firstPass : Bool) : Bool :=
  match x.quality with
  | .good => x.lastReport.any (fun r => decide (10 * s.param 22 ≤ age s.elapsed r))
  | .never => !firstPass
  | .bad => false
  | .stale => false

/-- The staleness check of the visited point's channel (R90). -/
def stalenessCheck (s : State) (i : Nat) (firstPass : Bool) : State :=
  match s.point i with
  | some p =>
    match s.channel p.cfg.channel with
    | some x => if s.staleDue x firstPass then markStale s p.cfg.channel x else s
    | none => s
  | none => s

/-- The chatter check (R91). -/
def chatterCheck (s : State) (i : Nat) : State :=
  match s.point i with
  | some p =>
    if p.foldSince then s.setPoint i { p with foldSince := false }
    else
      let s1 := s.setPoint i { p with chatterCount := 0, chattering := false }
      if p.chattering then handOn s1 i p {} else s1
  | none => s

end Sys2Proof.Machine
end

