-- ==== Sys2Proof/Machine/Parameters.lean ====
section
/-! DEFINITION. The numbered values of the configuration (spec/12, R176): their ranges, where each is
held, and the orders among them (R64, R115, R177, R179). -/

namespace Sys2Proof.Machine

/-- The range of parameters 0 to 28 (R63, R45, R88, R85, R90, R28, R145, R152, R159, R169). -/
def paramRange (n : Nat) : Nat × Nat :=
  match n with
  | 0 => (0, 1023) | 1 => (0, 1023) | 2 => (0, 1023) | 3 => (0, 1023)
  | 4 => (1, 255)
  | 5 => (1, 60)
  | 6 => (0, 65535) | 7 => (0, 65535) | 8 => (0, 65535) | 9 => (0, 65535)
  | 10 => (2, 4)
  | 11 => (5, 300)
  | 12 => (0, 65535)
  | 13 => (0, 86400) | 14 => (0, 86400) | 15 => (0, 86400) | 16 => (0, 86400)
  | 17 => (0, 7200) | 18 => (0, 7200) | 19 => (0, 7200) | 20 => (0, 7200)
  | 21 => (10, 600)
  | 22 => (5, 600)
  | 23 => (2, 15)
  | 24 => (30, 1800)
  | 25 => (0, 900)
  | 26 => (300, 14400)
  | 27 => (5, 120)
  | _ => (1, 60)

/-- The range of an idle limit, of an absent limit taken alone, and of a release delay (R115, R57; log
entry 20). -/
def idleRange : Nat × Nat := (30, 3600)
def absentRange : Nat × Nat := (1, 7200)
def releaseRange : Nat × Nat := (0, 6000)

/-- A value lies in a range, both ends included. -/
def inRange (r : Nat × Nat) (v : Nat) : Bool := decide (r.1 ≤ v) && decide (v ≤ r.2)

/-- Where a numbered value is held (R176). -/
inductive Slot where
  | param (n : Fin 29)
  | idle (d : Desk)
  | absent (d : Desk)
  | release (g : GroupIdx)
deriving DecidableEq, Repr

/-- The slot of a parameter number; none when it is not assigned (R176). -/
def slotOf (n : Nat) : Option Slot :=
  if h : n < 29 then some (.param ⟨n, h⟩)
  else if h : 32 ≤ n ∧ n < 46 then
    some (if n % 2 = 0 then .idle ⟨(n - 32) / 2, by omega⟩ else .absent ⟨(n - 32) / 2, by omega⟩)
  else if h : 48 ≤ n ∧ n < 80 then some (.release ⟨n - 48, by omega⟩)
  else none

/-- The range of a slot's value. -/
def Slot.range : Slot → Nat × Nat
  | .param n => paramRange n
  | .idle _ => idleRange
  | .absent _ => absentRange
  | .release _ => releaseRange

/-- Stores a value in its slot. -/
def setSlot (s : State) (slot : Slot) (v : Nat) : State :=
  match slot with
  | .param n => { s with params := s.params.set n v }
  | .idle d => { s with portCfg := s.portCfg.set d { s.portCfg[d] with idleLimit := v } }
  | .absent d => { s with portCfg := s.portCfg.set d { s.portCfg[d] with absentLimit := v } }
  | .release g =>
    match s.group g with
    | some x => s.setGroup g { x with delay := v }
    | none => s

/-- The threshold orders of R64 for a set of parameters. -/
def thresholdsOrdered (p : Vector Nat 29) : Bool :=
  decide (p[7] < p[6]) && decide (p[9] < p[8]) && decide (p[6] ≤ p[8]) && decide (p[7] ≤ p[9])

/-- An order a numbered value takes part in is broken (R64, R115, R179; log entry 21). -/
def orderBroken (s : State) : Slot → Bool
  | .param n =>
    let be := s.param 6
    let bx := s.param 7
    let fe := s.param 8
    let fx := s.param 9
    match n.val with
    | 6 => !(decide (bx < be) && decide (be ≤ fe))
    | 7 => !(decide (bx < be) && decide (bx ≤ fx))
    | 8 => !(decide (fx < fe) && decide (be ≤ fe))
    | 9 => !(decide (fx < fe) && decide (bx ≤ fx))
    | 25 => !decide (s.param 25 < s.param 26)
    | 26 => !decide (s.param 25 < s.param 26)
    | _ => false
  | .idle d => !decide (s.portCfg[d].idleLimit < s.portCfg[d].absentLimit)
  | .absent d => !decide (s.portCfg[d].idleLimit < s.portCfg[d].absentLimit)
  | .release _ => false

end Sys2Proof.Machine
end

