-- ==== Sys2Proof/Machine/Configuration.lean ====
section
/-! DEFINITION. The configuration load and the edits (spec/12): LOAD START, CONFIG BLOCK, LOAD END, LOAD
ABANDON, EDIT POINT and EDIT PARAMETERS. -/

namespace Sys2Proof.Machine

/-! ## The blocks (R176) -/

/-- The place of each block kind in the staged tables: its code less one (11.6). -/
def kindParameters : Fin 9 := 0
def kindAreas : Fin 9 := 1
def kindRoles : Fin 9 := 2
def kindReach : Fin 9 := 3
def kindPorts : Fin 9 := 4
def kindChannels : Fin 9 := 5
def kindPoints : Fin 9 := 6
def kindGroups : Fin 9 := 7
def kindCredentials : Fin 9 := 8

/-- The entry size of each block kind (R176). -/
def entrySizes : Vector Nat 9 := #v[4, 2, 17, 2, 6, 1, 17, 38, 7]

/-- The table size of each block kind (R176). -/
def tableSizes : Vector Nat 9 := #v[80, 16, 8, 6, 8, 1024, 2048, 32, 256]

/-- A block kind from its code. -/
def blockKind (b : Byte) : Option (Fin 9) :=
  if h : 1 ≤ b.toNat ∧ b.toNat ≤ 9 then some ⟨b.toNat - 1, by omega⟩ else none

/-- Splits bytes into entries of one size. -/
def chunks (size : Nat) : Nat → List Byte → List (List Byte)
  | 0, _ => []
  | n + 1, l => l.take size :: chunks size n (l.drop size)

/-- Writes entries at consecutive indices from the first (R176). -/
def putEntries (table : List (Nat × List Byte)) (first : Nat) : List (List Byte) → List (Nat × List Byte)
  | [] => table
  | e :: rest => putEntries (tablePut table first e) (first + 1) rest

/-- The tables after a block is taken (R176). -/
def Staged.write (st : Staged) (k : Fin 9) (first : Nat) (entries : List (List Byte)) : Staged :=
  { present := st.present.set k true
    tables := st.tables.set k (putEntries st.tables[k] first entries) }

/-- The entry of a table at an index. -/
def Staged.entry (st : Staged) (k : Fin 9) (i : Nat) : Option (List Byte) := tableGet st.tables[k] i

/-! ## The entries (R176) -/

/-- Parameter n as a load gives it: the value written, or the default. -/
def Staged.parameter (st : Staged) (n : Fin 29) : Nat :=
  match st.entry kindParameters n with
  | some [a, b, c, d] => (read32 a b c d).toNat
  | _ => defaultParams[n]

/-- The parameters of a load. -/
def Staged.parameters (st : Staged) : Vector Nat 29 := Vector.ofFn st.parameter

/-- The name index of an area that the AREAS table defines. -/
def Staged.areaName (st : Staged) (a : Area) : Option Byte :=
  match st.entry kindAreas a with
  | some [defined, name] => if defined = 1#8 then some name else none
  | _ => none

/-- The areas the AREAS table defines, as a set. -/
def Staged.definedSet (st : Staged) : Word16 :=
  BitVec.ofNat 16 (bits (allAreas.map (fun a => (st.areaName a).isSome)))

/-- A role of a load: bits without a meaning and bits of areas not defined are taken as clear. -/
def Staged.role (st : Staged) (r : Fin 8) : Role :=
  match st.entry kindRoles r with
  | some l =>
    { perms := Vector.ofFn fun a => if (st.areaName a).isSome then l.getD a 0#8 &&& 0x1F#8 else 0#8
      rights := l.getD 16 0#8 &&& 0x07#8 }
  | none => .empty

/-- The reach of a console in a load: areas not defined are taken as clear. -/
def Staged.reachOf (st : Staged) (c : Console) : Word16 :=
  match st.entry kindReach c with
  | some [a1, a0] => read16 a1 a0 &&& st.definedSet
  | _ => 0#16

/-- A PORTS entry as written. -/
structure RawPort where
  enabled : Byte
  hornFloor : Nat
  idleLimit : Nat
  absentLimit : Nat
deriving DecidableEq, Repr

/-- A desk's PORTS entry, or the defaults (R115, R176). -/
def Staged.rawPort (st : Staged) (d : Desk) : RawPort :=
  match st.entry kindPorts d with
  | some [e, f, i1, i0, a1, a0] =>
    { enabled := e, hornFloor := f.toNat, idleLimit := (read16 i1 i0).toNat
      absentLimit := (read16 a1 a0).toNat }
  | _ => { enabled := 1#8, hornFloor := 2, idleLimit := 300, absentLimit := 900 }

/-- The PORTS fields are in range (R115, check 4 of R177). -/
def RawPort.valid (d : Desk) (p : RawPort) : Bool :=
  (p.enabled == 1#8 || (p.enabled == 0#8 && d != supervisor)) &&
  (d == supervisor || inRange (1, 4) p.hornFloor) &&
  inRange idleRange p.idleLimit && inRange absentRange p.absentLimit &&
  decide (p.idleLimit < p.absentLimit)

/-- The PORTS entry taken into use. -/
def RawPort.cfg (p : RawPort) : PortCfg :=
  { enabled := p.enabled == 1#8, hornFloor := p.hornFloor, idleLimit := p.idleLimit
    absentLimit := p.absentLimit }

/-- The byte of the preferred gateway port, 7 by default (R176). -/
def Staged.preferredByte (st : Staged) : Byte :=
  match st.entry kindPorts 7 with
  | some (b :: _) => b
  | _ => 7#8

/-- The kind of a channel in a load; none when it is not configured. -/
def Staged.channelKind (st : Staged) (c : Nat) : Option ChannelKind :=
  match st.entry kindChannels c with
  | some [k] => if k = 1#8 then some .analog else if k = 2#8 then some .discrete else none
  | _ => none

/-- A POINTS entry as written (R176). -/
structure RawPoint where
  configured : Byte
  area : Byte
  channel : Nat
  kind : Byte
  limit : Word16
  deadband : Nat
  priority : Nat
  mode : Byte
  onDelay : Nat
  offDelay : Nat
  chatterGap : Nat
deriving DecidableEq, Repr

/-- A POINTS entry from its 17 bytes. -/
def rawPoint : List Byte → Option RawPoint
  | [cf, a, c1, c0, k, l1, l0, d1, d0, p, m, n1, n0, f1, f0, g1, g0] =>
    some
      { configured := cf, area := a, channel := (read16 c1 c0).toNat, kind := k
        limit := read16 l1 l0, deadband := (read16 d1 d0).toNat, priority := p.toNat, mode := m
        onDelay := (read16 n1 n0).toNat, offDelay := (read16 f1 f0).toNat
        chatterGap := (read16 g1 g0).toNat }
  | _ => none

/-- The condition kind of a code. -/
def conditionKindOf (b : Byte) : Option ConditionKind :=
  if b = 0#8 then some .high else if b = 1#8 then some .low
  else if b = 2#8 then some .on else if b = 3#8 then some .off else none

/-- The mode of a code. -/
def modeOf (b : Byte) : Option Mode :=
  if b = 0#8 then some .standard else if b = 1#8 then some .latching
  else if b = 2#8 then some .selfClearing else if b = 3#8 then some .noteOnly else none

/-- The ranges of R6. -/
def RawPoint.inRanges (r : RawPoint) : Bool :=
  (areaOf r.area).isSome && decide (r.channel < 1024) && (conditionKindOf r.kind).isSome &&
  decide (r.deadband ≤ 32767) && inRange (1, 4) r.priority && (modeOf r.mode).isSome &&
  decide (r.onDelay ≤ 6000) && decide (r.offDelay ≤ 6000) && decide (r.chatterGap ≤ 6000)

/-- The checks of R7 against the channels' kinds and the defined areas. -/
def RawPoint.fits (r : RawPoint) (channelKind : Nat → Option ChannelKind) (defined : Area → Bool) : Bool :=
  (match channelKind r.channel, conditionKindOf r.kind with
   | none, _ => false
   | some .analog, some .on => false
   | some .analog, some .off => false
   | some _, _ => true) &&
  (areaOf r.area).any defined

/-- The configuration part of a point from an entry within its ranges (R6). -/
def RawPoint.cfg (r : RawPoint) (group headOf : Option GroupIdx) : PointCfg :=
  { area := (areaOf r.area).getD 0, channel := r.channel, kind := (conditionKindOf r.kind).getD .high
    limit := r.limit, deadband := r.deadband, priority := r.priority
    mode := (modeOf r.mode).getD .standard, onDelay := r.onDelay, offDelay := r.offDelay
    chatterGap := r.chatterGap, group := group, headOf := headOf }

/-- The POINTS entries as written, by index. -/
def Staged.rawPoints (st : Staged) : List (Nat × RawPoint) :=
  st.tables[kindPoints].filterMap (fun e => (rawPoint e.2).map (fun r => (e.1, r)))

/-- The point is configured in a load. -/
def Staged.pointConfigured (st : Staged) (i : Nat) : Bool :=
  match (st.entry kindPoints i).bind rawPoint with
  | some r => r.configured == 1#8
  | none => false

/-- Two-byte fields from bytes. -/
def words : List Byte → List Nat
  | hi :: lo :: rest => (read16 hi lo).toNat :: words rest
  | _ => []

/-- A GROUPS entry as written (R176). -/
structure RawGroup where
  configured : Byte
  head : Nat
  count : Nat
  members : List Nat
  delay : Nat
deriving DecidableEq, Repr

/-- A GROUPS entry from its 38 bytes. Member fields beyond the member count are not read: a nonzero one
fails no check (log entry 25). -/
def rawGroup : List Byte → Option RawGroup
  | cf :: h1 :: h0 :: n :: rest =>
    some
      { configured := cf, head := (read16 h1 h0).toNat, count := n.toNat
        members := (words (rest.take 32)).take n.toNat
        delay := (words (rest.drop 32)).headD 0 }
  | _ => none

/-- The configured groups of a load, by index. -/
def Staged.rawGroups (st : Staged) : List (Nat × RawGroup) :=
  st.tables[kindGroups].filterMap (fun e => (rawGroup e.2).map (fun r => (e.1, r)))

/-- A list holds no element twice. -/
def noTwice : List Nat → Bool
  | [] => true
  | x :: rest => !rest.contains x && noTwice rest

/-- The constraints of a group by itself (R57). -/
def Staged.groupAlone (st : Staged) (r : RawGroup) : Bool :=
  inRange (1, 16) r.count && r.members.length == r.count && inRange releaseRange r.delay &&
  st.pointConfigured r.head && r.members.all st.pointConfigured && noTwice r.members &&
  !r.members.contains r.head

/-- Two groups do not share a head or a member, and neither's head is a member of the other (R57). -/
def groupsApart (r q : RawGroup) : Bool :=
  r.head != q.head && r.members.all (fun m => !q.members.contains m) &&
  !r.members.contains q.head && !q.members.contains r.head

/-- The index of the first group that fails check 7 (R57, R177): each is judged by itself and against
the groups before it. -/
def Staged.badGroup (st : Staged) (before : List RawGroup) : List (Nat × RawGroup) → Option Nat
  | [] => none
  | (g, r) :: rest =>
    if r.configured = 1#8 then
      if st.groupAlone r && before.all (groupsApart r) then st.badGroup (r :: before) rest
      else some g
    else if r.configured = 0#8 then st.badGroup before rest
    else some g

/-- The group of a load at an index. -/
def Staged.groupAt (st : Staged) (g : GroupIdx) : Option Group :=
  match (st.entry kindGroups g).bind rawGroup with
  | some r =>
    if r.configured = 1#8 then
      some { head := r.head, members := r.members, state := .isOpen, delay := r.delay, expiry := none
             owed := [] }
    else none
  | none => none

def allGroups : List GroupIdx :=
  [0, 1, 2, 3, 4, 5, 6, 7, 8, 9, 10, 11, 12, 13, 14, 15,
   16, 17, 18, 19, 20, 21, 22, 23, 24, 25, 26, 27, 28, 29, 30, 31]

/-- The group a point is a member of, derived from the GROUPS table (R176). -/
def Staged.membershipOf (st : Staged) (i : Nat) : Option GroupIdx :=
  allGroups.find? (fun g => (st.groupAt g).any (·.members.contains i))

/-- The group a point heads, derived from the GROUPS table (R176). -/
def Staged.headshipOf (st : Staged) (i : Nat) : Option GroupIdx :=
  allGroups.find? (fun g => (st.groupAt g).any (·.head == i))

/-- The STANDING credential of a CREDENTIALS entry. -/
def rawCredential : List Byte → Option Credential
  | [b3, b2, b1, b0, c1, c0, r] =>
    (roleIdx r).map (fun role =>
      { badge := read32 b3 b2 b1 b0, check := read16 c1 c0, role := role, temporary := none })
  | _ => none

/-- Places one credential in the lowest free way of its row (R113); none when the entry fails check 8:
badge 0, a badge placed before, a full row, a role beyond 7. -/
def placeCredential (creds : Vector CredRow 64) (entry : List Byte) : Option (Vector CredRow 64) :=
  match rawCredential entry with
  | none => none
  | some c =>
    let row := creds[rowOf c.badge]
    if c.badge = 0#32 then none
    else match wayOf row c.badge, freeWay row with
      | none, some w => some (setWay creds (rowOf c.badge) w (some c))
      | _, _ => none

/-- Places the list in order: the table, or the index of the first entry that fails (R113, R177). -/
def placeCredentials (creds : Vector CredRow 64) : List (Nat × List Byte) → Except Nat (Vector CredRow 64)
  | [] => .ok creds
  | (i, e) :: rest =>
    match placeCredential creds e with
    | some next => placeCredentials next rest
    | none => .error i

/-- An empty credential table (R112). -/
def noCredentials : Vector CredRow 64 := .replicate 64 (.replicate 4 none)

/-- The credential table of a load, as far as its list can be placed. -/
def Staged.credentials (st : Staged) : Vector CredRow 64 :=
  match placeCredentials noCredentials st.tables[kindCredentials] with
  | .ok creds => creds
  | .error _ => noCredentials

/-! ## The checks of LOAD END (R177) -/

/-- All parameter numbers 0 to 28. -/
def allParams : List (Fin 29) := List.ofFn id

/-- Check 1: the first required block kind that is not present, as its code. -/
def Staged.check1 (st : Staged) : Option Nat :=
  ([kindParameters, kindAreas, kindRoles, kindPorts].find? (fun k => !st.present[k])).map (·.val + 1)

/-- Check 2: the first parameter outside its range. -/
def Staged.check2 (st : Staged) : Option Nat :=
  (allParams.find? (fun n : Fin 29 => !inRange (paramRange n) (st.parameter n))).map (·.val)

/-- Check 3: the threshold orders (parameter 6), then the overlap order (parameter 25). -/
def Staged.check3 (st : Staged) : Option Nat :=
  if !thresholdsOrdered st.parameters then some 6
  else if st.parameter 26 ≤ st.parameter 25 then some 25
  else none

/-- Check 4: areas, then channels, then ports. -/
def Staged.check4 (st : Staged) : Option Nat :=
  ((st.tables[kindAreas].find? (fun e => 1 < (e.2.headD 0#8).toNat)).map (·.1)).or
  (((st.tables[kindChannels].find? (fun e => 2 < (e.2.headD 0#8).toNat)).map (·.1)).or
  (((allDesks.find? (fun d => !(st.rawPort d).valid d)).map (·.val)).or
  (if st.preferredByte = 7#8 ∨ st.preferredByte = 8#8 then none else some 7)))

/-- Check 5: a configured byte other than 00h and 01h, or a configured point outside its ranges. -/
def Staged.check5 (st : Staged) : Option Nat :=
  (st.rawPoints.find? (fun e =>
    !(e.2.configured == 0#8 || (e.2.configured == 1#8 && e.2.inRanges)))).map (·.1)

/-- Check 6: a configured point that R7 refuses. -/
def Staged.check6 (st : Staged) : Option Nat :=
  (st.rawPoints.find? (fun e => e.2.configured == 1#8 &&
    !e.2.fits st.channelKind (fun a => (st.areaName a).isSome))).map (·.1)

/-- Check 7: groups. -/
def Staged.check7 (st : Staged) : Option Nat := st.badGroup [] st.rawGroups

/-- Check 8: credentials. -/
def Staged.check8 (st : Staged) : Option Nat :=
  match placeCredentials noCredentials st.tables[kindCredentials] with
  | .ok _ => none
  | .error i => some i

/-- Check 9: a STANDING credential whose role holds SUPERVISE and ENGINEER; nothing to report. -/
def Staged.check9 (st : Staged) : Option Nat :=
  if st.tables[kindCredentials].any (fun e => (rawCredential e.2).any (fun c =>
      (st.role c.role).holds .supervise && (st.role c.role).holds .engineer)) then none
  else some 0xFFFF

/-- The first check that fails, with its code and the offending index (R177). -/
def Staged.fault (st : Staged) : Option (Nat × Nat) :=
  [(1, st.check1), (2, st.check2), (3, st.check3), (4, st.check4), (5, st.check5), (6, st.check6),
   (7, st.check7), (8, st.check8), (9, st.check9)].findSome? (fun c => c.2.map (fun i => (c.1, i)))

/-! ## Entry into RUNNING (R177) -/

/-- A configured point at entry into RUNNING (R8, R23, R53). -/
def Point.fresh (cfg : PointCfg) : Point :=
  { cfg := cfg, cond := .unknown, lastKnown := none, delivered := false, pendingPart := none
    badInput := false, state := .normal, occ := 0, acked := false, ackRecord := none, stamp := none
    raiseSerial := 0, escSerial := none, muted := false, lastReturn := none, chatterCount := 0
    foldSince := false, escalated := false, shelved := false, suppressed := false
    chattering := false, inService := true }

/-- A configured channel at entry into RUNNING (R1). -/
def Channel.fresh (k : ChannelKind) : Channel :=
  { kind := k, value := 0, quality := .never, lastReport := none }

/-- The points of a load. -/
def Staged.points (st : Staged) : List (Nat × Point) :=
  st.rawPoints.filterMap (fun e =>
    if e.2.configured = 1#8 then
      some (e.1, Point.fresh (e.2.cfg (st.membershipOf e.1) (st.headshipOf e.1)))
    else none)

/-- The channels of a load. -/
def Staged.channels (st : Staged) : List (Nat × Channel) :=
  st.tables[kindChannels].filterMap (fun e => (st.channelKind e.1).map (fun k => (e.1, Channel.fresh k)))

/-- A defined area's record at entry into RUNNING (R129). -/
def AreaRecord.fresh (name : Byte) : AreaRecord :=
  { nameIndex := name, owner := none, attendance := .unattended, link := none }

/-- A pass that begins now, with this many configured points (R86). -/
def State.newPass (s : State) (points : Nat) (first : Bool) : Sweep :=
  { running := true, passStart := s.elapsed, period := 10 * s.param 21, size := points, position := 0
    firstPass := first }

/-- The load interval expiry counted from now (R65). -/
def State.nextLoadExpiry (s : State) : Time := after s.elapsed (10 * s.param 5)

/-- The preferred gateway of a load. -/
def Staged.preferredGateway (st : Staged) : Gateway := if st.preferredByte = 8#8 then 1 else 0

/-- The roles the gateways take at LOAD END (R171). -/
def initialRoles (preferred : Gateway) (g : Gateway) (x : GatewayState) : GatewayState :=
  if g = preferred then { x with role := .primary, refresh := true }
  else { x with role := .secondary, refresh := false }

/-- The tables are taken into use and each block takes its starting state (R177). -/
def takeIntoUse (s : State) : State :=
  let st := s.staged
  let s1 : State :=
    { s with
      dev := .running
      staged := .empty
      params := st.parameters
      roles := Vector.ofFn st.role
      reach := Vector.ofFn st.reachOf
      portCfg := Vector.ofFn fun d => (st.rawPort d).cfg
      preferred := st.preferredGateway
      channels := st.channels
      points := st.points
      shelf := []
      groups := Vector.ofFn st.groupAt
      loads := .replicate 16 .quiet
      queues := .replicate 7 .empty
      creds := st.credentials
      desks := .replicate 7 .fresh
      map := Vector.ofFn fun a => (st.areaName a).map AreaRecord.fresh
      records := .replicate 8 none
      gateways := Vector.ofFn fun g => initialRoles st.preferredGateway g (s.gateway g) }
  { s1 with loadExpiry := some s1.nextLoadExpiry, sweep := s1.newPass s1.points.length true }

/-- The port byte of the PRIMARY for a detail word. -/
def State.primaryByte (s : State) : Byte :=
  match s.primary with
  | some g => byte (gatewayPort g)
  | none => 0#8

/-- A LOAD END that passes every check (R177; log entry 25). -/
def loadEndTaken (s : State) : State :=
  let s1 := judgeRoles (takeIntoUse s)
  s1.enter .restart
    { port := some (deskPort supervisor), detail := detail4 0#8 s1.primaryByte 0#8 0#8 }

/-! ## The load requests (R175, R176) -/

/-- Steps 2 and 3 of R175. -/
def onLoader (s : State) (d : Desk) (needed : DeviceState) (k : State × Reply) : State × Reply :=
  if d ≠ supervisor then (s, refuse .noPermission)
  else if s.dev ≠ needed then (s, refuse .wrongState)
  else k

/-- LOAD START (R175). -/
def loadStartRule : DeskRule := fun d body s =>
  match body with
  | [] => onLoader s d .unconfigured ({ s with dev := .loading, staged := .empty }, done [] [])
  | _ => (s, refuse .malformed)

def execLoadStart (port : Port) (tag : Byte) (body : Body) (s : State) : Host.Outcome State Fault Refusal :=
  runRequest port .loadStart tag body (.desk true loadStartRule) s

/-- CONFIG BLOCK (R176). -/
def configBlockRule : DeskRule := fun d body s =>
  match body with
  | kb :: f1 :: f0 :: n :: bytes =>
    onLoader s d .loading
      (match blockKind kb with
       | none => (s, refuse .malformed)
       | some k =>
         let first := (read16 f1 f0).toNat
         let size := entrySizes[k]
         if n.toNat = 0 ∨ bytes.length ≠ n.toNat * size then (s, refuse .malformed)
         else if tableSizes[k] < first + n.toNat then (s, refuse .noSuch)
         else ({ s with staged := s.staged.write k first (chunks size n.toNat bytes) },
           done [] (kb :: num16 n.toNat)))
  | _ => (s, refuse .malformed)

def execConfigBlock (port : Port) (tag : Byte) (body : Body) (s : State) : Host.Outcome State Fault Refusal :=
  runRequest port .configBlock tag body (.desk true configBlockRule) s

/-- LOAD END (R177). -/
def loadEndRule : DeskRule := fun d body s =>
  match body with
  | [] =>
    onLoader s d .loading
      (match s.staged.fault with
       | some (code, index) => (s, { refuseAt .configError code with detail := num16 index })
       | none => (loadEndTaken s, done [] []))
  | _ => (s, refuse .malformed)

def execLoadEnd (port : Port) (tag : Byte) (body : Body) (s : State) : Host.Outcome State Fault Refusal :=
  runRequest port .loadEnd tag body (.desk true loadEndRule) s

/-- The state after LOAD ABANDON: as after power-on, the raise serial counter with it (R104), but for what
R175, R80, R82, R109 and R164 keep. -/
def abandoned (s : State) : State :=
  { State.reset with
    pending := s.pending, elapsed := s.elapsed, refCycles := s.refCycles, offset := s.offset
    journal := s.journal, ports := s.ports
    gateways := Vector.ofFn fun g => { s.gateway g with role := .none, refresh := false }
    shiftedOut := s.shiftedOut, freeCount := s.freeCount }

/-- LOAD ABANDON (R175). -/
def loadAbandonRule : DeskRule := fun d body s =>
  match body with
  | [] => onLoader s d .loading (abandoned s, done [] [])
  | _ => (s, refuse .malformed)

def execLoadAbandon (port : Port) (tag : Byte) (body : Body) (s : State) : Host.Outcome State Fault Refusal :=
  runRequest port .loadAbandon tag body (.desk true loadAbandonRule) s

/-! ## EDIT POINT (R178) -/

/-- A group field of EDIT POINT: none for FFh, a group index, or out of range. -/
def groupField (b : Byte) : Option (Option GroupIdx) :=
  if b = 0xFF#8 then some none
  else if h : b.toNat < 32 then some (some ⟨b.toNat, h⟩)
  else none

/-- The evaluator's part of an edit (R19); `i` already holds its new configuration part. -/
def editEvaluator (s : State) (i : Nat) (old new : PointCfg) (was : Option Channel) : State :=
  match s.point i, s.channel new.channel with
  | some p, some x =>
    if new.channel ≠ old.channel then
      match x.quality with
      | .good => if p.badInput then regainInput s x.value i else evaluatePoint s x.value i
      | .never => s.setPoint i { p with cond := .unknown, pendingPart := none, badInput := false }
      | .bad => if was.any (fun y => y.quality == .bad || y.quality == .stale) then s else loseInput s i
      | .stale => if was.any (fun y => y.quality == .bad || y.quality == .stale) then s else loseInput s i
    else if (new.limit ≠ old.limit ∨ new.deadband ≠ old.deadband ∨ new.kind ≠ old.kind) ∧
        x.quality = .good then
      evaluatePoint s x.value i
    else s
  | _, _ => s

/-- The engine's part of an edit (R43): one point notice for a new priority or area, and the items of
both areas' records for a new area (log entry 24). -/
def editEngine (s : State) (i : Nat) (old new : PointCfg) : State :=
  if new.priority ≠ old.priority ∨ new.area ≠ old.area then
    let s1 := pointNotice s i false false
    if new.area ≠ old.area then
      match s1.point i with
      | some p => handItems (resolveMoved s1 i old.area new.area) i p false
      | none => s1
    else s1
  else s

/-- Bits 0 to 10 of an EDIT entry: the fields of the POINTS entry that changed (11.6). A configured
point stays configured, so bit 0 is never set. -/
def changedFields (old new : PointCfg) : List Bool :=
  [false, old.area != new.area, old.channel != new.channel, old.kind != new.kind,
   old.limit != new.limit, old.deadband != new.deadband, old.priority != new.priority,
   old.mode != new.mode, old.onDelay != new.onDelay, old.offDelay != new.offDelay,
   old.chatterGap != new.chatterGap]

/-- An EDIT POINT that is taken (R178). -/
def editPointTaken (s : State) (d : Desk) (x : Session) (i : Nat) (p : Point) (new : PointCfg) :
    State × Reply :=
  let was := s.channel p.cfg.channel
  let s1 := editEvaluator (s.setPoint i { p with cfg := new }) i p.cfg new was
  let s2 := editEngine s1 i p.cfg new
  (s2.enter .edit
      { port := some (deskPort d), badge := some x.badge, point := some i, occ := s2.pointOcc i
        detail := BitVec.ofNat 32 (bits (changedFields p.cfg new)) },
    done [] [(s2.pointState i).code])

/-- EDIT POINT (R178). -/
def editPointRule : DeskRule := fun d body s =>
  match body with
  | p1 :: p0 :: rest =>
    match rawPoint (rest.take 17), rest.drop 17 with
    | some r, [gb, hb] =>
      let i := (read16 p1 p0).toNat
      match s.point i with
      | none => (s, refuse .noSuch)
      | some _ =>
        withSession s d fun s1 x =>
          if !s1.supervises d x .engineer then (s1, refuse .noPermission)
          else match s1.point i, groupField gb, groupField hb with
            | some p, some group, some headOf =>
              if !(r.configured == 0#8 || r.configured == 1#8) || !r.inRanges then
                (s1, refuse .outOfRange)
              else if r.configured ≠ 1#8 then (s1, refuse .configError)
              else if !r.fits (fun c => (s1.channel c).map (·.kind)) (fun a => (s1.area a).isSome) then
                (s1, refuse .configError)
              else if group ≠ p.cfg.group ∨ headOf ≠ p.cfg.headOf then (s1, refuse .configError)
              else editPointTaken s1 d x i p (r.cfg group headOf)
            | _, _, _ => (s1, refuse .outOfRange)
    | _, _ => (s, refuse .malformed)
  | _ => (s, refuse .malformed)

def execEditPoint (port : Port) (tag : Byte) (body : Body) (s : State) : Host.Outcome State Fault Refusal :=
  runRequest port .editPoint tag body (.desk false editPointRule) s

/-! ## EDIT PARAMETERS (R179) -/

/-- Four-byte values from bytes; none when the bytes are no whole number of them. -/
def values : List Byte → Option (List Nat)
  | [] => some []
  | a :: b :: c :: d :: rest => (values rest).map ((read32 a b c d).toNat :: ·)
  | _ => none

/-- The carried numbers with their values. -/
def numbered : Nat → List Nat → List (Nat × Nat)
  | _, [] => []
  | n, v :: rest => (n, v) :: numbered (n + 1) rest

/-- The slot of a number that EDIT PARAMETERS may carry: assigned, and a release delay's group
configured (R179 step 2). -/
def State.editable (s : State) (n : Nat) : Option Slot :=
  match slotOf n with
  | some (.release g) => if (s.group g).isSome then some (.release g) else none
  | some slot => some slot
  | none => none

/-- The state with the carried values stored (R179). -/
def storeValues (s : State) (vs : List (Nat × Nat)) : State :=
  vs.foldl (fun t e => match slotOf e.1 with
    | some slot => setSlot t slot e.2
    | none => t) s

/-- A threshold of R64 has changed (R77). -/
def thresholdsChanged (s t : State) : Bool :=
  s.param 6 != t.param 6 || s.param 7 != t.param 7 || s.param 8 != t.param 8 || s.param 9 != t.param 9

/-- An EDIT PARAMETERS that is taken (R179): `t` holds the values stored. After a change of a threshold
the areas are re-evaluated in ascending index, an order R77 leaves open (log entry 30). -/
def editParametersTaken (s t : State) (d : Desk) (x : Session) (first count : Byte) : State × Reply :=
  let t1 := if thresholdsChanged s t then allAreas.foldl reevaluateArea t else t
  (t1.enter .edit
      { port := some (deskPort d), badge := some x.badge, detail := detail4 first count 0#8 0#8 },
    done [] [])

/-- EDIT PARAMETERS (R179). -/
def editParametersRule : DeskRule := fun d body s =>
  match body with
  | first :: count :: bytes =>
    match values bytes with
    | none => (s, refuse .malformed)
    | some vs =>
      if count.toNat = 0 ∨ 16 < count.toNat ∨ vs.length ≠ count.toNat then (s, refuse .malformed)
      else
        let carried := numbered first.toNat vs
        if carried.any (fun e => (s.editable e.1).isNone) then (s, refuse .noSuch)
        else withSession s d fun s1 x =>
          if !s1.supervises d x .engineer then (s1, refuse .noPermission)
          else match carried.find? (fun e => !(slotOf e.1).any (fun slot => inRange slot.range e.2)) with
            | some e => (s1, refuseAt .outOfRange e.1)
            | none =>
              let t := storeValues s1 carried
              match carried.find? (fun e => (slotOf e.1).any (orderBroken t)) with
              | some e => (s1, refuseAt .configError e.1)
              | none => editParametersTaken s1 t d x first count
  | _ => (s, refuse .malformed)

def execEditParameters (port : Port) (tag : Byte) (body : Body) (s : State) : Host.Outcome State Fault Refusal :=
  runRequest port .editParameters tag body (.desk false editParametersRule) s

end Sys2Proof.Machine
end

