-- ==== Sys2Proof/Machine/Gateways.lean ====
section
/-! DEFINITION. The mill clock and the gateways' requests: TIME SET (spec/05, R83), SWAP GATEWAYS
(spec/11, R173), CHANNEL REPORT (spec/01, R2 to R4) and HEARTBEAT (spec/11, R166). -/

namespace Sys2Proof.Machine

/-! ## TIME SET (R83) -/

/-- The signed difference of two mill times in whole seconds (R82, R83; log entry 19). -/
def wholeSeconds (new old : MillTime) : Word32 := BitVec.ofInt 32 ((new - old).toInt.tdiv 10)

/-- The SYSTEM notice of a TIME SET, to all seven ports (R83, class 1). -/
def timeSetNotice (s : State) (old new : MillTime) : State :=
  deliver s { cls := 1, body := .timeSet old new } (fun _ => true)

/-- TIME SET (R83). -/
def timeSetRule : DeskRule := fun d body s =>
  match body with
  | [t3, t2, t1, t0] =>
    let new := read32 t3 t2 t1 t0
    withSession s d fun s1 x =>
      if !s1.supervises d x .supervise then (s1, refuse .noPermission)
      else
        let old := s1.mill
        let s2 := { s1 with offset := new - s1.elapsed }
        ((timeSetNotice s2 old new).enter .timeSet
            { port := some (deskPort d), badge := some x.badge, detail := wholeSeconds new old },
          done [] (be32 old ++ be32 new))
  | _ => (s, refuse .malformed)

def execTimeSet (port : Port) (tag : Byte) (body : Body) (s : State) : Host.Outcome State Fault Refusal :=
  runRequest port .timeSet tag body (.desk false timeSetRule) s

/-! ## SWAP GATEWAYS (R173) -/

/-- SWAP GATEWAYS (R173). -/
def swapGatewaysRule : DeskRule := fun d body s =>
  match body with
  | [] =>
    withSession s d fun s1 x =>
      if !s1.supervises d x .supervise then (s1, refuse .noPermission)
      else match s1.primary with
        | none => (s1, refuse .wrongState)
        | some g =>
          let h := otherGateway g
          if s1.linkGood (gatewayPort h) && (s1.gateway h).health == .good then
            (gatewayNotice (exchangeRoles s1 g 1#8), done [] [byte (gatewayPort h)])
          else (s1, refuse .wrongState)
  | _ => (s, refuse .malformed)

def execSwapGateways (port : Port) (tag : Byte) (body : Body) (s : State) : Host.Outcome State Fault Refusal :=
  runRequest port .swapGateways tag body (.desk false swapGatewaysRule) s

/-! ## CHANNEL REPORT (R2, R3, R4) -/

/-- An entry of a channel report (11.6). -/
structure ReportEntry where
  channel : Nat
  value : Word16
  quality : Byte

/-- The entries of a report body; none when it is no whole number of five-byte entries. -/
def parseEntries : List Byte → Option (List ReportEntry)
  | [] => some []
  | c1 :: c0 :: v1 :: v0 :: q :: rest =>
    (parseEntries rest).map
      (fun l => { channel := (read16 c1 c0).toNat, value := read16 v1 v0, quality := q } :: l)
  | _ :: _ => none

/-- The largest number of entries of a report (R2). -/
def reportMax : Nat := 40

/-- One entry is applied, or ignored when its channel is unconfigured; the counts of both so far
(R2). -/
def applyEntry (acc : State × Nat × Nat) (e : ReportEntry) : State × Nat × Nat :=
  match acc.1.channel e.channel with
  | none => (acc.1, acc.2.1, acc.2.2 + 1)
  | some x =>
    (if e.quality = 1#8 then applyGood acc.1 e.channel x e.value else applyBad acc.1 e.channel x,
      acc.2.1 + 1, acc.2.2)

/-- CHANNEL REPORT (R2). The position of the first offending entry is counted from 0, a numbering R2 leaves
open (log entry 33). -/
def channelReportRule : GatewayRule := fun g body s =>
  match parseEntries body with
  | none => (s, refuse .malformed)
  | some entries =>
    if entries.length = 0 ∨ reportMax < entries.length then (s, refuse .malformed)
    else if s.dev ≠ .running then (s, refuse .notRunning)
    else if (s.gateway g).role ≠ .primary then (s, done [true] [])
    else match entries.findIdx? (fun e => decide (1024 ≤ e.channel)) with
      | some i => (s, refuseAt .noSuch i)
      | none =>
        match entries.findIdx? (fun e => e.quality != 1#8 && e.quality != 2#8) with
        | some i => (s, refuseAt .malformed i)
        | none =>
          let r := entries.foldl applyEntry (s, 0, 0)
          (r.1, done [false] (num16 r.2.1 ++ num16 r.2.2))

def execChannelReport (port : Port) (tag : Byte) (body : Body) (s : State) : Host.Outcome State Fault Refusal :=
  runRequest port .channelReport tag body (.gateway channelReportRule) s

/-! ## HEARTBEAT (R166) -/

/-- HEARTBEAT (R166): answered with the port's role, health and REFRESH marker, in every device state. The
marker is sent as an indication bit (log entry 11). -/
def heartbeatRule : GatewayRule := fun g body s =>
  match body with
  | [] => (s, done [(s.gateway g).refresh] [(s.gateway g).role.code, (s.gateway g).health.code])
  | _ => (s, refuse .malformed)

def execHeartbeat (port : Port) (tag : Byte) (body : Body) (s : State) : Host.Outcome State Fault Refusal :=
  runRequest port .heartbeat tag body (.gateway heartbeatRule) s

end Sys2Proof.Machine
end

