-- ==== Sys2Proof/Machine/Handover.lean ====
section
/-! DEFINITION. The requests of shift handover (spec/09). -/

namespace Sys2Proof.Machine

/-! ## The record a request names -/

/-- Steps 2 to 4 of R146: the record index, the session, and the live record with the carried
number. -/
def onRecord (s : State) (d : Desk) (i : Byte) (number : Word16)
    (k : State → Session → RecordIdx → Record → State × Reply) : State × Reply :=
  match recordOf i with
  | none => (s, refuse .noSuch)
  | some idx =>
    withSession s d fun s1 x =>
      match s1.referred idx number with
      | none => (s1, refuse .staleView)
      | some r => k s1 x idx r

/-- Steps 2 to 5 of R161: as above, with the supervisor's right before the record. -/
def onRecordSupervised (s : State) (d : Desk) (i : Byte) (number : Word16)
    (k : State → Session → RecordIdx → Record → State × Reply) : State × Reply :=
  match recordOf i with
  | none => (s, refuse .noSuch)
  | some idx =>
    withSession s d fun s1 x =>
      if !s1.supervises d x .supervise then (s1, refuse .noPermission)
      else match s1.referred idx number with
        | none => (s1, refuse .staleView)
        | some r => k s1 x idx r

/-- The desk and badge are the party. -/
def isPartyOf (d : Desk) (b : Badge) (p : Option Party) : Bool := isParty d p && p.any (·.badge == b)

/-! ## OFFER (R144, R145) -/

/-- The lowest free record (R145). -/
def State.freeRecord (s : State) : Option RecordIdx := allRecords.find? (fun i => (s.record i).isNone)

/-- An OFFER that is taken (R145). -/
def offerTaken (s : State) (d : Desk) (x : Session) (outgoing : Party) (set : Word16)
    (target : Option Console) (i : RecordIdx) : State × Reply :=
  let number := s.handoverCounter + 1
  let expiry := after s.elapsed (10 * s.param 24)
  let r : Record :=
    { number := number, state := .offered, flood := false, outgoingLost := false, areas := set
      outgoing := outgoing, target := target, incoming := none, offerExpiry := some expiry
      accumulated := 0, resume := none, limitExpiry := none, coSigned := none, incomplete := false
      items := [] }
  let s1 := changeAreas ({ s with handoverCounter := number }.setRecord i (some r)) set
    (fun a => { a with link := some i })
  let s2 := handoverNotice s1 (r.body i) (fun e => r.names e || s1.receives r e)
  (s2.enter .offer
      { port := some (deskPort d), badge := some x.badge, area := lowestArea set, occ := number
        detail := detail16 (byte i) (portByte (target.map (·.val))) set },
    done [] (byte i :: (be16 number ++ be32 (s.millOf expiry))))

/-- Step 8 of R144 for a target console. -/
def State.canReceive (s : State) (set : Word16) (target : Option Console) : Bool :=
  match target with
  | none => true
  | some c =>
    s.enabled (consoleDesk c) &&
    (match (s.desk (consoleDesk c)).session with
     | some y => y.presence != .absent && (areasOf set).all ((s.roleOf y).permits .take)
     | none => false)

/-- The target of an OFFER: ANY for FFh, or a console other than the requesting port (R144 step 1). -/
def targetOf (d : Desk) (b : Byte) : Option (Option Console) :=
  if b = 0xFF#8 then some none
  else match consoleOf b with
    | some c => if consoleDesk c = d then none else some (some c)
    | none => none

/-- OFFER (R144). -/
def offerRule : DeskRule := fun d body s =>
  match body with
  | [a1, a0, tb] =>
    let set := read16 a1 a0
    match targetOf d tb with
    | none => (s, refuse .malformed)
    | some target =>
      if set = 0#16 then (s, refuse .malformed)
      else if !s.allDefined set then (s, refuse .noSuch)
      else withSession s d fun s1 x =>
        match deskConsole d with
        | none => (s1, refuse .noPermission)
        | some c =>
          match firstFailing set ((s1.roleOf x).permits .take) with
          | some a => (s1, refuseAt .noPermission a.val)
          | none =>
            match firstFailing set (fun a =>
                s1.owner a == some ⟨c, x.badge⟩ && s1.attendance a == some .attended) with
            | some a => (s1, refuseAt .notResponsible a.val)
            | none =>
              match firstFailing set (fun a => !s1.linked a) with
              | some a => (s1, refuseAt .areaBusy a.val)
              | none =>
                if !s1.canReceive set target then (s1, refuse .noPermission)
                else match s1.freeRecord with
                  | none => (s1, refuse .noRecord)
                  | some i => offerTaken s1 d x ⟨c, x.badge⟩ set target i
  | _ => (s, refuse .malformed)

def execOffer (port : Port) (tag : Byte) (body : Body) (s : State) : Host.Outcome State Fault Refusal :=
  runRequest port .offer tag body (.desk false offerRule) s

/-! ## ACCEPT (R146, R147) -/

/-- The order of a new item list: priority, highest first; then the raise stamp (R147). -/
def itemBefore (now : Time) (x y : Point) : Bool :=
  decide (x.cfg.priority < y.cfg.priority) ||
    (x.cfg.priority == y.cfg.priority && stampBefore now x y)

/-- The points gathered for a new item list, in its order (R147 step 2). -/
def State.gathered (s : State) (set : Word16) : List (Nat × Point) :=
  sortBy (fun x y => itemBefore s.elapsed x.2 y.2) (s.listableOf set)

/-- The record as an ACCEPT makes it (R147). -/
def State.accepted (s : State) (r : Record) (incoming : Party) : Record :=
  let points := s.gathered r.areas
  let r1 : Record :=
    { r with
      incoming := some incoming, offerExpiry := none, accumulated := 0
      items := (points.take Config.itemCapacity).map (fun e => itemOf e.1 e.2)
      incomplete := decide (Config.itemCapacity < points.length)
      flood := !s.floodFree r.areas }
  if r1.caused then { r1 with state := .held, resume := none, limitExpiry := none }
  else s.enterOverlap r1

/-- An ACCEPT that is taken (R147). It sends its HANDOVER notice and no AREA notice, although R96 speaks of an
AREA notice that a change of handover state produces (log entry 42). -/
def acceptTaken (s : State) (d : Desk) (x : Session) (c : Console) (i : RecordIdx) (r : Record) :
    State × Reply :=
  let r' := s.accepted r { console := c, badge := x.badge }
  let s1 := s.setRecord i (some r')
  let s2 := handoverNotice s1 (r'.body i)
    (fun e => r'.names e || (r'.target.isNone && s1.receives r' e))
  let s3 := s2.enter .accept
    { port := some (deskPort d), badge := some x.badge
      detail := detail4 (byte i) (byte r'.items.length)
        (bitByte [false, false, false, false, false, false, false, r'.incomplete])
        (handoverCode (some r'.state)) }
  let s4 := if r'.state = .held then handoverStateEntry s3 i .offered r' else s3
  (s4, done [r'.incomplete] ([byte i, handoverCode (some r'.state)] ++ num16 r'.items.length))

/-- The port may accept: a console other than the outgoing one that is the target, or ANY (R146 step
5). -/
def Record.offeredTo (r : Record) (d : Desk) : Option Console :=
  match deskConsole d with
  | none => none
  | some c =>
    if c = r.outgoing.console then none
    else match r.target with
      | none => some c
      | some t => if t = c then some c else none

/-- ACCEPT (R146). -/
def acceptRule : DeskRule := fun d body s =>
  match body with
  | [i, n1, n0] =>
    onRecord s d i (read16 n1 n0) fun s1 x idx r =>
      match r.offeredTo d with
      | none => (s1, refuse .notResponsible)
      | some c =>
        match firstFailing r.areas (fun a =>
            (s1.roleOf x).permits .take a && (s1.roleOf x).permits .view a) with
        | some a => (s1, refuseAt .noPermission a.val)
        | none =>
          match firstFailing r.areas (s1.reaches d) with
          | some a => (s1, refuseAt .noPermission a.val)
          | none =>
            if r.state ≠ .offered then (s1, refuse .wrongState)
            else acceptTaken s1 d x c idx r
  | _ => (s, refuse .malformed)

def execAccept (port : Port) (tag : Byte) (body : Body) (s : State) : Host.Outcome State Fault Refusal :=
  runRequest port .accept tag body (.desk false acceptRule) s

/-! ## DECLINE (R149) and WITHDRAW (R150) -/

/-- DECLINE (R149). -/
def declineRule : DeskRule := fun d body s =>
  match body with
  | [i, n1, n0] =>
    onRecord s d i (read16 n1 n0) fun s1 x idx r =>
      match r.target with
      | none => (s1, refuse .wrongState)
      | some c =>
        if consoleDesk c ≠ d then (s1, refuse .notResponsible)
        else if r.state ≠ .offered then (s1, refuse .wrongState)
        else (endRecord s1 idx r .declined (some (deskPort d)) (some x.badge), done [] [i])
  | _ => (s, refuse .malformed)

def execDecline (port : Port) (tag : Byte) (body : Body) (s : State) : Host.Outcome State Fault Refusal :=
  runRequest port .decline tag body (.desk false declineRule) s

/-- WITHDRAW (R150). -/
def withdrawRule : DeskRule := fun d body s =>
  match body with
  | [i, n1, n0] =>
    onRecord s d i (read16 n1 n0) fun s1 x idx r =>
      if !isPartyOf d x.badge (some r.outgoing) then (s1, refuse .notResponsible)
      else if r.state = .held then (s1, refuse .held)
      else (endRecord s1 idx r .withdrawn (some (deskPort d)) (some x.badge), done [] [i])
  | _ => (s, refuse .malformed)

def execWithdraw (port : Port) (tag : Byte) (body : Body) (s : State) : Host.Outcome State Fault Refusal :=
  runRequest port .withdraw tag body (.desk false withdrawRule) s

/-! ## CONFIRM ITEM (R154) and CONFIRM PAGE (R155) -/

/-- A record with one item CONFIRMED. -/
def Record.confirm (r : Record) (k : Nat) : Record :=
  { r with items := r.items.modify k (fun t => { t with status := .confirmed }) }

/-- The area of an item's point, as it stands (R154 step 8). -/
def State.itemArea (s : State) (t : Item) : Option Area := (s.point t.point).map (·.cfg.area)

/-- CONFIRM ITEM (R154). -/
def confirmItemRule : DeskRule := fun d body s =>
  match body with
  | [i, n1, n0, k, o1, o0] =>
    onRecord s d i (read16 n1 n0) fun s1 x idx r =>
      if !r.accepted then (s1, refuse .wrongState)
      else match r.items[k.toNat]? with
        | none => (s1, refuse .noSuch)
        | some t =>
          if !isPartyOf d x.badge r.incoming then (s1, refuse .notResponsible)
          else if !(s1.itemArea t).any ((s1.roleOf x).permits .view) then (s1, refuse .noPermission)
          else if t.occ ≠ read16 o1 o0 then (s1, refuse .staleView)
          else match t.status with
            | .confirmed => (s1, refuse .already)
            | .resolved => (s1, refuse .wrongState)
            | .isOpen =>
              let r' := r.confirm k.toNat
              ((s1.setRecord idx (some r')).enter .confirm
                  { port := some (deskPort d), badge := some x.badge, area := s1.itemArea t
                    point := some t.point, occ := t.occ, detail := detail4 i k 0 0 },
                done [] (k :: num16 r'.openItems))
  | _ => (s, refuse .malformed)

def execConfirmItem (port : Port) (tag : Byte) (body : Body) (s : State) : Host.Outcome State Fault Refusal :=
  runRequest port .confirmItem tag body (.desk false confirmItemRule) s

/-- The item's point counts as seen: raised at or before the time, or without a raise stamp (R155). -/
def State.itemSeen (s : State) (seen : MillTime) (t : Item) : Bool :=
  match (s.point t.point).bind (·.stamp) with
  | some st => atOrBefore st.mill seen
  | none => true

/-- CONFIRM PAGE confirms this item at its visit (R155). -/
def State.pageConfirms (s : State) (seen : MillTime) (t : Item) : Bool :=
  t.status == .isOpen && s.itemSeen seen t

/-- The items after a page of `count` items from `first` on (R155). -/
def State.confirmPage (s : State) (seen : MillTime) (first count : Nat) (items : List Item) : List Item :=
  items.take first ++
    ((items.drop first).take count).map (fun t =>
      if s.pageConfirms seen t then { t with status := .confirmed } else t) ++
    (items.drop first).drop count

/-- CONFIRM PAGE (R155). -/
def confirmPageRule : DeskRule := fun d body s =>
  match body with
  | [i, n1, n0, f, c, t3, t2, t1, t0] =>
    let seen := read32 t3 t2 t1 t0
    if c.toNat = 0 ∨ 16 < c.toNat then (s, refuse .malformed)
    else onRecord s d i (read16 n1 n0) fun s1 x idx r =>
      if !r.accepted then (s1, refuse .wrongState)
      else if r.items.length ≤ f.toNat then (s1, refuse .noSuch)
      else if !isPartyOf d x.badge r.incoming then (s1, refuse .notResponsible)
      else if (firstFailing r.areas ((s1.roleOf x).permits .view)).isSome then
        (s1, refuse .noPermission)
      else
        let confirmed := (((r.items.drop f.toNat).take c.toNat).filter (s1.pageConfirms seen)).length
        let r' := { r with items := s1.confirmPage seen f.toNat c.toNat r.items }
        ((s1.setRecord idx (some r')).enter .confirm
            { port := some (deskPort d), badge := some x.badge
              detail := detail4 i f 0x80#8 (byte confirmed) },
          done [] (num16 confirmed ++ num16 r'.openItems))
  | _ => (s, refuse .malformed)

def execConfirmPage (port : Port) (tag : Byte) (body : Body) (s : State) : Host.Outcome State Fault Refusal :=
  runRequest port .confirmPage tag body (.desk false confirmPageRule) s

/-! ## QUERY ITEMS (R156) -/

/-- The most items a QUERY ITEMS answer holds (R156). -/
def queryItemsMax : Nat := 8

/-- The bytes of items numbered from an index on. -/
def itemsBytes : Nat → List Item → List Byte
  | _, [] => []
  | k, t :: rest => Item.bytes k t ++ itemsBytes (k + 1) rest

/-- QUERY ITEMS (R156). -/
def queryItemsRule : DeskRule := fun d body s =>
  match body with
  | [i, n1, n0, f] =>
    onRecord s d i (read16 n1 n0) fun s1 _ _ r =>
      if !(r.names d || d == supervisor) then (s1, refuse .notResponsible)
      else
        let shown := (r.items.drop f.toNat).take queryItemsMax
        (s1, done [r.coSigned.isSome, r.incomplete]
          ([handoverCode (some r.state), causesByte r.flood r.outgoingLost] ++
            num16 r.items.length ++ num16 r.openItems ++ num32 (s1.overlap r / 10) ++
            [byte shown.length] ++ itemsBytes f.toNat shown ++ [byte (f.toNat + shown.length)]))
  | _ => (s, refuse .malformed)

def execQueryItems (port : Port) (tag : Byte) (body : Body) (s : State) : Host.Outcome State Fault Refusal :=
  runRequest port .queryItems tag body (.desk false queryItemsRule) s

/-! ## TAKE (R159) -/

/-- Step 9 of R159: the items condition. -/
def Record.itemsDone (r : Record) : Bool := r.items.all (·.status != .isOpen) && !r.incomplete

/-- Step 10 of R159: no area of the set is BUSY. -/
def State.noneBusy (s : State) (r : Record) : Bool :=
  (areasOf r.areas).all (fun a => (s.load a).state != .busy)

/-- Step 11 of R159: the load after transfer is at or below the ceiling. -/
def State.loadFits (s : State) (r : Record) (c : Console) : Bool :=
  decide (s.loadAfter c r.areas ≤ s.param 12)

/-- The refusal NEEDS_COSIGN with what R159 has it carry. -/
def State.needsCosign (s : State) (r : Record) (c : Console) : Reply :=
  { status := .needsCosign
    inds := [!r.itemsDone, !s.noneBusy r, !s.loadFits r c, r.incomplete]
    reason := r.items.findIdx? (·.status == .isOpen)
    detail := num16 r.openItems ++
      (byte (areasOf r.areas).length :: (areasOf r.areas).map (fun a => (s.load a).state.code)) ++
      num16 (s.loadAfter c r.areas) }

/-- The tenths of the minimum overlap. -/
def State.minOverlap (s : State) : Nat := 10 * s.param 25

/-- TAKE (R159). -/
def takeRule : DeskRule := fun d body s =>
  match body with
  | [i, n1, n0] =>
    onRecord s d i (read16 n1 n0) fun s1 x idx r =>
      match r.incoming with
      | none => (s1, refuse .notResponsible)
      | some inc =>
        if !isPartyOf d x.badge r.incoming then (s1, refuse .notResponsible)
        else if (firstFailing r.areas ((s1.roleOf x).permits .take)).isSome then
          (s1, refuse .noPermission)
        else match r.state with
          | .held => (s1, refuse .held)
          | .offered => (s1, refuse .wrongState)
          | .overlap =>
            if s1.overlap r < s1.minOverlap then
              (s1, { refuse .notYet with detail := num32 ((s1.minOverlap - s1.overlap r + 9) / 10) })
            else if r.coSigned.isNone &&
                !(r.itemsDone && s1.noneBusy r && s1.loadFits r inc.console) then
              (s1, s1.needsCosign r inc.console)
            else
              (endRecord s1 idx r .committed (some (deskPort d)) (some x.badge), done [] [])
  | _ => (s, refuse .malformed)

def execTake (port : Port) (tag : Byte) (body : Body) (s : State) : Host.Outcome State Fault Refusal :=
  runRequest port .take tag body (.desk false takeRule) s

/-! ## The supervisor's actions (R161, R162) -/

/-- A CO-SIGN that is taken (R161): one HANDOVER notice, the CO-SIGN entry, and the HANDOVER STATE
entry of a move (log entry 18). -/
def coSignTaken (s : State) (d : Desk) (x : Session) (i : RecordIdx) (r : Record) : State × Reply :=
  let r' := s.followCauses { r with coSigned := some x.badge, outgoingLost := false }
  let s1 := handoverNotice (s.setRecord i (some r')) (r'.body i) r'.names
  let s2 := s1.enter .coSign
    { port := some (deskPort d), badge := some x.badge
      detail := detailFlag (byte i) r.outgoingLost 0 }
  let s3 := if r'.state = r.state then s2 else handoverStateEntry s2 i r.state r'
  (endOverruns s3, done [] [handoverCode (some r'.state)])

/-- CO-SIGN (R161). -/
def coSignRule : DeskRule := fun d body s =>
  match body with
  | [i, n1, n0] =>
    onRecordSupervised s d i (read16 n1 n0) fun s1 x idx r =>
      if !r.accepted then (s1, refuse .wrongState)
      else if r.coSigned.isSome && !r.outgoingLost then (s1, refuse .already)
      else coSignTaken s1 d x idx r
  | _ => (s, refuse .malformed)

def execCoSign (port : Port) (tag : Byte) (body : Body) (s : State) : Host.Outcome State Fault Refusal :=
  runRequest port .coSign tag body (.desk false coSignRule) s

/-- The incoming party's session is ACTIVE or IDLE (R162). -/
def State.incomingPresent (s : State) (r : Record) : Bool :=
  r.incoming.any (fun p =>
    (s.desk (consoleDesk p.console)).session.any (fun y => y.presence != .absent && y.badge == p.badge))

/-- FORCE COMMIT (R162). -/
def forceCommitRule : DeskRule := fun d body s =>
  match body with
  | [i, n1, n0] =>
    onRecordSupervised s d i (read16 n1 n0) fun s1 x idx r =>
      if !r.accepted then (s1, refuse .wrongState)
      else if !s1.incomingPresent r then (s1, refuse .wrongState)
      else
        (endRecord s1 idx r .forced (some (deskPort d)) (some x.badge), done [] (i :: be16 r.areas))
  | _ => (s, refuse .malformed)

def execForceCommit (port : Port) (tag : Byte) (body : Body) (s : State) : Host.Outcome State Fault Refusal :=
  runRequest port .forceCommit tag body (.desk false forceCommitRule) s

/-- FORCE WITHDRAW (R162). -/
def forceWithdrawRule : DeskRule := fun d body s =>
  match body with
  | [i, n1, n0] =>
    onRecordSupervised s d i (read16 n1 n0) fun s1 x idx r =>
      (endRecord s1 idx r .withdrawn (some (deskPort d)) (some x.badge), done [] [i])
  | _ => (s, refuse .malformed)

def execForceWithdraw (port : Port) (tag : Byte) (body : Body) (s : State) : Host.Outcome State Fault Refusal :=
  runRequest port .forceWithdraw tag body (.desk false forceWithdrawRule) s

end Sys2Proof.Machine
end

