-- ==== Sys2Proof/Machine/Power.lean ====
section
/-! DEFINITION. Power, the reset pin, the time reference (spec/05, R80; spec/12, R181) and the requests
RESTART (R180) and RESTART TO LOAD (R181). -/

namespace Sys2Proof.Machine

/-! ## Power, pins and the reference -/

/-- The block after power-on or the reset pin, its queue of commands apart. The counter of free values
is not of the block and runs on (log entry 8). -/
def resetKeepingQueue (s : State) : State :=
  { State.reset with pending := s.pending, freeCount := s.freeCount }

/-- POWER_ON (R181). -/
def execPowerOn (s : State) : Host.Outcome State Fault Refusal := .next (resetKeepingQueue s)

/-- RESET_PIN (R181): the pin is asserted and released. -/
def execResetPin (s : State) : Host.Outcome State Fault Refusal := .next (resetKeepingQueue s)

/-- Cycles of the reference pass: elapsed time advances by one for every 100 of them (R80). -/
def passCycles (s : State) (cycles : Nat) : State :=
  { s with
    elapsed := after s.elapsed ((s.refCycles.val + cycles) / 100)
    refCycles := ⟨(s.refCycles.val + cycles) % 100, Nat.mod_lt _ (by decide)⟩ }

/-- TIME_REFERENCE_TICK (R80): no expiry is taken by it (log entry 2). -/
def execTimeReferenceTick (cycles : Nat) (s : State) : Host.Outcome State Fault Refusal :=
  .next (settle (passCycles s cycles))

/-! ## RESTART (R180) -/

/-- A point after RESTART: its configuration part, occurrence number and in-service setting are kept
(R8, R23). -/
def Point.restarted (serial : Word32) (p : Point) : Point :=
  { Point.fresh p.cfg with occ := p.occ, raiseSerial := serial, inService := p.inService }

/-- A group after RESTART (R57). -/
def Group.restarted (g : Group) : Group := { g with state := .isOpen, expiry := none, owed := [] }

/-- An area's record after RESTART (R129). -/
def AreaRecord.restarted (r : AreaRecord) : AreaRecord :=
  { r with attendance := .unattended, link := none }

/-- The clearing of RESTART (the table of R180). -/
def cleared (s : State) : State :=
  { s with
    channels := s.channels.map (fun e => (e.1, Channel.fresh e.2.kind))
    points := s.points.map (fun e => (e.1, e.2.restarted s.serial))
    shelf := []
    groups := Vector.ofFn fun g => (s.group g).map Group.restarted
    loads := .replicate 16 .quiet
    loadExpiry := some s.nextLoadExpiry
    sweep := s.newPass s.points.length true
    queues := .replicate 7 .empty
    marks := .replicate 7 s.serial
    journal :=
      { entries := [], gap := min Config.saturation (s.journal.gap + s.journal.entries.length) }
    desks := .replicate 7 .fresh
    map := Vector.ofFn fun a => (s.area a).map AreaRecord.restarted
    records := .replicate 8 none
    ports := Vector.ofFn fun p => { s.port p with slot := none, overrun := false } }

/-- The HANDOVER END entry of a record freed by RESTART (R163). -/
def restartedEntry (old : State) (port : Port) (badge : Badge) (s : State) (i : RecordIdx) : State :=
  match old.record i with
  | some r => handoverEndEntry s i r .restarted (some port) (some badge)
  | none => s

/-- The HANDOVER notice of a record freed by RESTART (R163). -/
def restartedNotice (old : State) (s : State) (i : RecordIdx) : State :=
  match old.record i with
  | some r => handoverNotice s (r.endBody i .restarted) r.names
  | none => s

/-- The REFRESH marker of the PRIMARY is set (R180 step 3). -/
def refreshPrimary (s : State) : State :=
  match s.primary with
  | some g => s.setGateway g { s.gateway g with refresh := true }
  | none => s

/-- A RESTART that is taken (R180). -/
def restartTaken (s : State) (d : Desk) (x : Session) : State × Reply :=
  let discarded := s.journal.entries.length
  let s1 := (cleared s).enter .restart
    { port := some (deskPort d), badge := some x.badge
      detail := detail16 1#8 0#8 (BitVec.ofNat 16 discarded) }
  let s2 := allRecords.foldl (restartedEntry s (deskPort d) x.badge) s1
  let s3 := allRecords.foldl (restartedNotice s) s2
  (refreshPrimary s3, done [] (num16 discarded ++ num16 s.liveRecords.length))

/-- The checks of RESTART (R180): the body, and steps 3 and 4 of R179. -/
def onEngineer (s : State) (d : Desk) (body : Body) (k : State → Session → State × Reply) : State × Reply :=
  match body with
  | [] =>
    withSession s d fun s1 x =>
      if !s1.supervises d x .engineer then (s1, refuse .noPermission) else k s1 x
  | _ => (s, refuse .malformed)

/-- RESTART (R180). -/
def restartRule : DeskRule := fun d body s => onEngineer s d body (fun s1 x => restartTaken s1 d x)

def execRestart (port : Port) (tag : Byte) (body : Body) (s : State) : Host.Outcome State Fault Refusal :=
  runRequest port .restart tag body (.desk false restartRule) s

/-- The state after RESTART TO LOAD (R181): as after power-on, but LOADING and with the time base kept
(log entry 28). -/
def restartedToLoad (s : State) : State :=
  { resetKeepingQueue s with
    elapsed := s.elapsed, refCycles := s.refCycles, offset := s.offset, dev := .loading }

/-- RESTART TO LOAD (R181). -/
def restartToLoadRule : DeskRule := fun d body s =>
  onEngineer s d body (fun s1 _ => (restartedToLoad s1, done [] []))

def execRestartToLoad (port : Port) (tag : Byte) (body : Body) (s : State) : Host.Outcome State Fault Refusal :=
  runRequest port .restartToLoad tag body (.desk false restartToLoadRule) s

end Sys2Proof.Machine
end

