-- ==== Sys2Proof/Machine/Sessions.lean ====
section
/-! DEFINITION. The requests of sessions and credentials (spec/07): LOGIN, LOGOUT, PRESENT, END SESSION,
GRANT and REVOKE. -/

namespace Sys2Proof.Machine

/-! ## LOGIN (R120, R121) -/

/-- The areas whose owner record names this port and this badge (R120). -/
def State.ownedBy (s : State) (d : Desk) (b : Badge) : Word16 :=
  BitVec.ofNat 16 (bits (allAreas.map (fun a =>
    isParty d (s.owner a) && (s.owner a).any (·.badge == b))))

/-- The SYSTEM notice of a lockout, to the supervisor port (R121, class 1). -/
def lockoutNotice (s : State) (d : Desk) (expiry : MillTime) : State :=
  deliver s { cls := 1, body := .lockout d expiry } (· == supervisor)

/-- A LOGIN refused BAD_CREDENTIAL records a failure, and the third within 300 s sets a lockout of 120 s
(R121). -/
def loginFailure (s : State) (d : Desk) (badge : Badge) : State × Reply :=
  let x := s.desk d
  let failures := x.failures.filter (fun t => age s.elapsed t < 3000) ++ [s.elapsed]
  let locks := decide (3 ≤ failures.length)
  let expiry := after s.elapsed 1200
  let s1 := s.setDesk d { x with failures := failures, lockout := if locks then some expiry else none }
  let s2 := s1.enter .loginFailed
    { port := some (deskPort d), badge := some badge, detail := detail4 (byte failures.length) 0 0 0 }
  let s3 := if locks then
      lockoutNotice (s2.enter .lockout { port := some (deskPort d) }) d (s.millOf expiry)
    else s2
  (s3, { status := .badCredential, inds := [locks], reason := none, detail := num16 failures.length })

/-- The session a LOGIN opens (R120). -/
def State.newSession (s : State) (d : Desk) (c : Credential) : Session :=
  s.touched d
    { presence := .active, badge := c.badge, role := c.role, loginMill := s.mill
      lastInteraction := s.elapsed, idleExpiry := s.elapsed, absentExpiry := s.elapsed }

/-- A LOGIN that is taken (R120). The areas owned go out as a two-byte area set, the form of an area set in
11.6, since R120 fixes no other (log entry 36). -/
def loginTaken (s : State) (d : Desk) (c : Credential) : State × Reply :=
  let s1 := s.setDesk d { s.desk d with session := some (s.newSession d c), failures := [] }
  let s2 := sessionChanged s1 d c.badge none (some .active) .login
  let role := s.roles[c.role]
  (s2, done [] ([byte c.role, role.rights] ++ role.perms.toList ++ be16 (s.ownedBy d c.badge)))

/-- LOGIN (R120). -/
def loginRule : DeskRule := fun d body s =>
  match body with
  | [b3, b2, b1, b0, c1, c0] =>
    let badge := read32 b3 b2 b1 b0
    match (s.desk d).session, (s.desk d).lockout with
    | some _, _ => (interact s d, refuse .wrongState)
    | none, some e =>
      (s, { refuse .lockedOut with detail := num32 ((remaining s.elapsed e + 9) / 10) })
    | none, none =>
      match s.credential badge with
      | none => loginFailure s d badge
      | some c =>
        if c.check ≠ read16 c1 c0 then loginFailure s d badge
        else if (s.sessionOf badge).isSome then (s, refuse .inUse)
        else if d = supervisor ∧ s.roles[c.role].holds .supervise = false then
          (s, refuse .noPermission)
        else loginTaken s d c
  | _ => (s, refuse .malformed)

def execLogin (port : Port) (tag : Byte) (body : Body) (s : State) : Host.Outcome State Fault Refusal :=
  runRequest port .login tag body (.desk false loginRule) s

/-! ## LOGOUT (R125) -/

/-- A live record names the port and badge as a party (R125 step 4). -/
def State.inHandover (s : State) (d : Desk) (b : Badge) : Bool :=
  s.liveRecords.any (fun r =>
    (isParty d (some r.outgoing) && r.outgoing.badge == b) ||
    (isParty d r.incoming && r.incoming.any (·.badge == b)))

/-- LOGOUT (R125). -/
def logoutRule : DeskRule := fun d body s =>
  match body with
  | [] =>
    withSession s d fun s1 x =>
      if s1.ownedBy d x.badge ≠ 0#16 then (s1, refuse .ownsAreas)
      else if s1.inHandover d x.badge then (s1, refuse .inHandover)
      else (endSession s1 d .logout, done [] [])
  | _ => (s, refuse .malformed)

def execLogout (port : Port) (tag : Byte) (body : Body) (s : State) : Host.Outcome State Fault Refusal :=
  runRequest port .logout tag body (.desk false logoutRule) s

/-! ## PRESENT (R123) -/

/-- PRESENT (R123): no effect beyond its interaction. -/
def presentRule : DeskRule := fun d body s =>
  match body with
  | [] =>
    withSession s d fun s1 x =>
      (s1, done [] (presenceCode (some x.presence) :: be32 x.loginMill))
  | _ => (s, refuse .malformed)

def execPresent (port : Port) (tag : Byte) (body : Body) (s : State) : Host.Outcome State Fault Refusal :=
  runRequest port .present tag body (.desk false presentRule) s

/-! ## END SESSION (R128) -/

/-- END SESSION (R128). -/
def endSessionRule : DeskRule := fun d body s =>
  match body with
  | [b] =>
    withSession s d fun s1 x =>
      if !s1.supervises d x .supervise then (s1, refuse .noPermission)
      else match consoleOf b with
        | none => (s1, refuse .noSuch)
        | some c =>
          match (s1.desk (consoleDesk c)).session with
          | none => (s1, refuse .wrongState)
          | some y => (endSession s1 (consoleDesk c) .endedBySupervisor, done [] (b :: be32 y.badge))
  | _ => (s, refuse .malformed)

def execEndSession (port : Port) (tag : Byte) (body : Body) (s : State) : Host.Outcome State Fault Refusal :=
  runRequest port .endSession tag body (.desk false endSessionRule) s

/-! ## GRANT (R116) and REVOKE (R117) -/

/-- A GRANT that is taken: the entry is written in way `way` of its badge's row (R116). -/
def grantTaken (s : State) (d : Desk) (issuer : Badge) (badge : Badge) (check : Word16)
    (role : Fin 8) (lifetime : Nat) (way : Fin 4) (replaced : Bool) : State × Reply :=
  let life := max 60 (min 86400 lifetime)
  let expiry := after s.elapsed (10 * life)
  let row := rowOf badge
  let entry : Credential :=
    { badge := badge, check := check, role := role, temporary := some (expiry, issuer) }
  let s1 := { s with creds := setWay s.creds row way (some entry) }
  (s1.enter .grant
      { port := some (deskPort d), badge := some badge
        detail := detailFlag (byte role) replaced ((life + 59) / 60) },
    done [life != lifetime, replaced]
      (be32 badge ++ [byte row] ++ num32 life ++ be32 (s.millOf expiry)))

/-- GRANT (R116). -/
def grantRule : DeskRule := fun d body s =>
  match body with
  | [b3, b2, b1, b0, c1, c0, r, l3, l2, l1, l0] =>
    let badge := read32 b3 b2 b1 b0
    match roleIdx r with
    | none => (s, refuse .malformed)
    | some role =>
      if badge = 0#32 then (s, refuse .malformed)
      else withSession s d fun s1 x =>
        if !(s1.roleOf x).holds .grant then (s1, refuse .noPermission)
        else if s1.roles[role].rights &&& ~~~(s1.roleOf x).rights ≠ 0#8 then
          (s1, refuse .noPermission)
        else
          let entry := s1.credential badge
          if entry.any (·.temporary.isNone) || (s1.sessionOf badge).isSome then (s1, refuse .inUse)
          else
            let row := s1.creds[rowOf badge]
            match wayOf row badge, freeWay row with
            | some w, _ =>
              grantTaken s1 d x.badge badge (read16 c1 c0) role (read32 l3 l2 l1 l0).toNat w true
            | none, some w =>
              grantTaken s1 d x.badge badge (read16 c1 c0) role (read32 l3 l2 l1 l0).toNat w false
            | none, none => (s1, refuse .rowFull)
  | _ => (s, refuse .malformed)

def execGrant (port : Port) (tag : Byte) (body : Body) (s : State) : Host.Outcome State Fault Refusal :=
  runRequest port .grant tag body (.desk false grantRule) s

/-- The session a badge holds, if any, ends REVOKED (R117, R118). -/
def endRevoked (s : State) (badge : Badge) : State :=
  match s.sessionOf badge with
  | some e => endSession s e .revoked
  | none => s

/-- REVOKE (R117). -/
def revokeRule : DeskRule := fun d body s =>
  match body with
  | [b3, b2, b1, b0] =>
    let badge := read32 b3 b2 b1 b0
    withSession s d fun s1 x =>
      if !(s1.roleOf x).holds .grant then (s1, refuse .noPermission)
      else match s1.credential badge with
        | none => (s1, refuse .noSuch)
        | some c =>
          match c.temporary with
          | none => (s1, refuse .wrongState)
          | some (_, issuer) =>
            let s2 := (removeCredential s1 badge).enter .revoke
              { port := some (deskPort d), badge := some badge, detail := issuer }
            let held := s2.sessionOf badge
            (endRevoked s2 badge,
              done [held.isSome] (be32 badge ++ [portByte (held.map (·.val))]))
  | _ => (s, refuse .malformed)

def execRevoke (port : Port) (tag : Byte) (body : Body) (s : State) : Host.Outcome State Fault Refusal :=
  runRequest port .revoke tag body (.desk false revokeRule) s

end Sys2Proof.Machine
end

