-- ==== Sys2Proof/Machine/Shelving.lean ====
section
/-! DEFINITION. Shelving and service (spec/03, 3.1 to 3.3): SHELVE, UNSHELVE, SET OUT OF SERVICE and
RETURN TO SERVICE, and the end of shelving that the timer shares. -/

namespace Sys2Proof.Machine

/-! ## The shelve list (R44, R47) -/

/-- The point's entry. -/
def State.shelveEntry (s : State) (i : Nat) : Option ShelveEntry := s.shelf.find? (·.point == i)

/-- The list without the point's entry. -/
def withoutEntry (shelf : List ShelveEntry) (i : Nat) : List ShelveEntry :=
  shelf.filter (fun e => e.point != i)

/-- Inserts after every entry whose expiry is at or before the new one (R44, R47). -/
def insertShelve (e : ShelveEntry) (shelf : List ShelveEntry) : List ShelveEntry :=
  insertBy (fun x y => !atOrBefore y.expiry x.expiry) e shelf

/-- The maximum shelve duration of a priority, in seconds (R45). -/
def State.maxShelve (s : State) (priority : Nat) : Nat :=
  match priority with
  | 1 => s.param 13
  | 2 => s.param 14
  | 3 => s.param 15
  | _ => s.param 16

/-- The point when it is shelved for the first time (R47). -/
def Point.whenShelved (p : Point) (a : AckRecord) : Point :=
  match p.state with
  | .unackActive =>
    { p with
      state := .ackActive, acked := true, ackRecord := some a, escalated := false, escSerial := none
      shelved := true }
  | .unackReturned => { p with state := .normal, shelved := true }
  | .latched => { p with state := .normal, shelved := true }
  | .ackActive => { p with shelved := true }
  | .normal => { p with shelved := true }

/-- A SHELVE that is taken (R47, R48). -/
def shelveTaken (s : State) (d : Desk) (x : Session) (i : Nat) (p : Point) (seconds : Nat)
    (reason : Byte) : State × Reply :=
  let clamped := min seconds (s.maxShelve p.cfg.priority)
  let expiry := after s.elapsed (10 * clamped)
  let entry : ShelveEntry :=
    { point := i, badge := x.badge, desk := d, expiry := expiry, reason := reason }
  let s1 := { s with shelf := insertShelve entry (withoutEntry s.shelf i) }
  let s2 := if p.shelved then s1
    else handOn (s1.setPoint i (p.whenShelved { badge := x.badge, desk := d, mill := s.mill })) i p {}
  (s2.enter .shelve
      { port := some (deskPort d), badge := some x.badge, area := some p.cfg.area, point := some i
        occ := p.occ, detail := detailFlag reason p.shelved clamped },
    done [clamped != seconds]
      (pointDetail s2 i ++ num32 clamped ++ be32 (s.millOf expiry) ++ num16 s2.shelf.length))

/-- SHELVE (R46). -/
def shelveRule : DeskRule := fun d body s =>
  match body with
  | [p1, p0, t3, t2, t1, t0, reason] =>
    let seconds := (read32 t3 t2 t1 t0).toNat
    if seconds = 0 then (s, refuse .malformed)
    else onPoint s d (read16 p1 p0) .shelve (fun s1 p => 0 < s1.maxShelve p.cfg.priority)
      fun s1 x i p =>
        if !p.inService then (s1, refuse .wrongState)
        else if !p.shelved && decide (Config.shelveCapacity ≤ s1.shelf.length) then
          (s1, refuse .listFull)
        else shelveTaken s1 d x i p seconds reason
  | _ => (s, refuse .malformed)

def execShelve (port : Port) (tag : Byte) (body : Body) (s : State) : Host.Outcome State Fault Refusal :=
  runRequest port .shelve tag body (.desk false shelveRule) s

/-! ## The end of shelving (R49) -/

/-- The point when its shelving ends (R49): SHELVED clears, and with the condition FALSE the pending RETURN of
a point in ACK_ACTIVE is marked as the one of which R49 speaks (log entry 34). -/
def Point.unshelved (p : Point) : Point :=
  { p with
    shelved := false
    pendingPart :=
      if p.cond = .isFalse ∧ p.state = .ackActive then
        p.pendingPart.map (fun x => { x with afterShelving := true })
      else p.pendingPart }

/-- The first event of the end of shelving (R49): the entry goes, SHELVED clears, and the change is
handed on. -/
def unshelvePoint (s : State) (i : Nat) : State :=
  match s.point i with
  | some p =>
    handOn ({ s with shelf := withoutEntry s.shelf i }.setPoint i p.unshelved) i p {}
  | none => { s with shelf := withoutEntry s.shelf i }

/-- The second event (R49): a fresh raise when the condition and the delivered condition are TRUE and
SUPPRESSED is clear. -/
def raiseAfterShelving (s : State) (i : Nat) : State :=
  match s.point i with
  | some p =>
    if p.cond = .isTrue ∧ p.delivered = true ∧ p.suppressed = false then engineRaise s i s.elapsed
    else s
  | none => s

/-- UNSHELVE (R50). The journal entry closes the first event (log entry 14). -/
def unshelveRule : DeskRule := fun d body s =>
  match body with
  | [p1, p0] =>
    onPoint s d (read16 p1 p0) .shelve noLimit fun s1 x i p =>
      match s1.shelveEntry i with
      | none => (s1, refuse .wrongState)
      | some e =>
        let s2 := (unshelvePoint s1 i).enter .unshelve
          { port := some (deskPort d), badge := some x.badge, area := some p.cfg.area
            point := some i, occ := p.occ
            detail := detail24 e.reason (remaining s1.elapsed e.expiry / 10) }
        let s3 := raiseAfterShelving s2 i
        (s3, done [] (pointDetail s3 i))
  | _ => (s, refuse .malformed)

def execUnshelve (port : Port) (tag : Byte) (body : Body) (s : State) : Host.Outcome State Fault Refusal :=
  runRequest port .unshelve tag body (.desk false unshelveRule) s

/-! ## Service (R54, R55) -/

/-- The point taken out of service (R54, R18). -/
def Point.outOfService (p : Point) : Point :=
  { p with
    inService := false, pendingPart := none, delivered := false, state := .normal
    escalated := false, shelved := false, suppressed := false, chattering := false
    escSerial := none, chatterCount := 0, foldSince := false, muted := false }

/-- SET OUT OF SERVICE (R54). -/
def setOutOfServiceRule : DeskRule := fun d body s =>
  match body with
  | [p1, p0, reason] =>
    onPoint s d (read16 p1 p0) .service noLimit fun s1 x i p =>
      if !p.inService then (s1, refuse .already)
      else
        let s2 := handOn ({ s1 with shelf := withoutEntry s1.shelf i }.setPoint i p.outOfService) i p {}
        (s2.enter .outOfService
            { port := some (deskPort d), badge := some x.badge, area := some p.cfg.area
              point := some i, occ := p.occ
              detail := detail4 reason p.state.code (bitByte [false, false, false, false, false,
                false, false, p.shelved]) 0 },
          done [] (pointDetail s2 i))
  | _ => (s, refuse .malformed)

def execSetOutOfService (port : Port) (tag : Byte) (body : Body) (s : State) : Host.Outcome State Fault Refusal :=
  runRequest port .setOutOfService tag body (.desk false setOutOfServiceRule) s

/-- The evaluator's part of a return to service (R18): a TRUE condition delivers a raise at once. -/
def raiseOnReturn (s : State) (i : Nat) : State :=
  match s.point i with
  | some p => if p.cond = .isTrue then deliverEvent s i true s.elapsed else s
  | none => s

/-- RETURN TO SERVICE (R55). The journal entry closes the change of the setting, before the raise (log
entry 14). -/
def returnToServiceRule : DeskRule := fun d body s =>
  match body with
  | [p1, p0] =>
    onPoint s d (read16 p1 p0) .service noLimit fun s1 x i p =>
      if p.inService then (s1, refuse .wrongState)
      else
        let s2 := (handOn (s1.setPoint i { p with inService := true }) i p {}).enter .inService
          { port := some (deskPort d), badge := some x.badge, area := some p.cfg.area
            point := some i, occ := p.occ }
        let s3 := raiseOnReturn s2 i
        (s3, done [] (pointDetail s3 i))
  | _ => (s, refuse .malformed)

def execReturnToService (port : Port) (tag : Byte) (body : Body) (s : State) : Host.Outcome State Fault Refusal :=
  runRequest port .returnToService tag body (.desk false returnToServiceRule) s

end Sys2Proof.Machine
end

