-- ==== Sys2Proof/Machine/Timers.lean ====
section
/-! DEFINITION. The events of the block's own timers (R81). Each has its effect once elapsed time has
reached the expiry, and none before, or when the expiry is absent (log entry 3). -/

namespace Sys2Proof.Machine

/-! ## Points -/

/-- A pending part expires (R14): its event carries the expiry time, and at a RETURN
that stood when shelving ended the part follows R49 or R33 by a free value (log entry 34). -/
def pendingExpired (s : State) (i : Nat) : State :=
  match s.point i with
  | some p =>
    match p.pendingPart with
    | some q =>
      if reached s.elapsed q.expiry then
        deliverEvent (s.setPoint i { p with pendingPart := none }) i q.raise q.expiry
          (q.afterShelving && Config.normalAfterShelving)
      else s
    | none => s
  | none => s

/-- PENDING_EXPIRY (R14). -/
def execPendingExpiry (point : Nat) (s : State) : Host.Outcome State Fault Refusal :=
  .next (settle (pendingExpired s point))

/-- The first entry of the shelve list expires (R51). The journal entry closes the first event (log
entry 14). -/
def shelveExpired (s : State) : State :=
  match s.shelf with
  | [] => s
  | e :: _ =>
    if reached s.elapsed e.expiry then
      let s1 := (unshelvePoint s e.point).enter .shelveExpired
        { port := some (deskPort e.desk), badge := some e.badge, point := some e.point
          occ := s.pointOcc e.point, detail := detail4 e.reason 0#8 0#8 0#8 }
      raiseAfterShelving s1 e.point
    else s

/-- SHELVE_EXPIRY (R51). -/
def execShelveExpiry (s : State) : Host.Outcome State Fault Refusal := .next (settle (shelveExpired s))

/-! ## Groups -/

/-- A group's release expiry (R59, R60). -/
def releaseExpired (s : State) (g : GroupIdx) : State :=
  match s.group g with
  | some x =>
    if x.state = .releasing ∧ reachedOpt s.elapsed x.expiry = true then releaseGroup s g x else s
  | none => s

/-- RELEASE_EXPIRY (R59). -/
def execReleaseExpiry (group : GroupIdx) (s : State) : Host.Outcome State Fault Refusal :=
  .next (settle (releaseExpired s group))

/-- A released member is given its fresh raise when R60's test holds. -/
def raiseReleased (s : State) (m : Nat) : State :=
  match s.point m with
  | some p =>
    if p.cond = .isTrue ∧ p.delivered = true ∧ p.shelved = false ∧ p.inService = true then
      engineRaise s m s.elapsed
    else s
  | none => s

/-- The further event of the first member to which one is owed (R60; log entry 16). -/
def memberReleased (s : State) (g : GroupIdx) : State :=
  match s.group g with
  | some x =>
    match x.owed with
    | m :: rest => raiseReleased (s.setGroup g { x with owed := rest }) m
    | [] => s
  | none => s

/-- GROUP_MEMBER_RELEASE_EVENT (R60). -/
def execGroupMemberReleaseEvent (group : GroupIdx) (s : State) : Host.Outcome State Fault Refusal :=
  .next (settle (memberReleased s group))

/-! ## Loads -/

/-- The load interval expiry (R68, R69). The areas decay in ascending index, an order R69 leaves open (log
entry 30). -/
def loadIntervalExpired (s : State) : State :=
  match s.loadExpiry with
  | some e =>
    if reached s.elapsed e then
      allAreas.foldl decayArea { s with loadExpiry := some (after e (10 * s.param 5)) }
    else s
  | none => s

/-- LOAD_INTERVAL_EXPIRY (R68). -/
def execLoadIntervalExpiry (s : State) : Host.Outcome State Fault Refusal :=
  .next (settle (loadIntervalExpired s))

/-- A FLOOD area's summary expiry (R73). -/
def summaryExpired (s : State) (a : Area) : State :=
  let x := s.load a
  match x.summaryExpiry with
  | some e =>
    if x.state = .flood ∧ reached s.elapsed e = true then
      let s1 := if 0 < x.count then summaryNotice s a else s
      s1.setLoad a { x with count := 0, summaryExpiry := some (after e s.summaryInterval) }
    else s
  | none => s

/-- SUMMARY_EXPIRY (R73). -/
def execSummaryExpiry (area : Area) (s : State) : Host.Outcome State Fault Refusal :=
  .next (settle (summaryExpired s area))

/-! ## The review sweep -/

/-- When visit k of a pass falls due (R86). -/
def Sweep.due (w : Sweep) (k : Nat) : Time := after w.passStart (k * w.period / w.size)

/-- A visit of one point: the three checks in order (R87). -/
def visitPoint (s : State) (i : Nat) (firstPass : Bool) : State :=
  chatterCheck (stalenessCheck (escalationCheck s i) i firstPass) i

/-- The next visit of the pass, when it is due (R86, R87). -/
def sweepVisited (s : State) : State :=
  let w := s.sweep
  if w.running = true ∧ w.position < w.size ∧ reached s.elapsed (w.due w.position) = true then
    let s1 := { s with sweep := { w with position := w.position + 1 } }
    match s.points[w.position]? with
    | some e => visitPoint s1 e.1 w.firstPass
    | none => s1
  else s

/-- SWEEP_VISIT (R87). -/
def execSweepVisit (s : State) : Host.Outcome State Fault Refusal := .next (settle (sweepVisited s))

/-- The pass ends when its visits are taken and its period is over, and the next begins (R86; log entry
27). -/
def passEnded (s : State) : State :=
  let w := s.sweep
  if w.running = true ∧ w.size ≤ w.position ∧
      reached s.elapsed (after w.passStart w.period) = true then
    { s with sweep := s.newPass s.points.length false }
  else s

/-- PASS_END (R86). -/
def execPassEnd (s : State) : Host.Outcome State Fault Refusal := .next (settle (passEnded s))

/-! ## Sessions and credentials -/

/-- A session's idle expiry (R124). -/
def idleExpired (s : State) (d : Desk) : State :=
  match (s.desk d).session with
  | some x =>
    if x.presence = .active ∧ reached s.elapsed x.idleExpiry = true then
      fadeSession s d x .idle .idleLimit
    else s
  | none => s

/-- IDLE_EXPIRY (R124). -/
def execIdleExpiry (desk : Desk) (s : State) : Host.Outcome State Fault Refusal :=
  .next (settle (idleExpired s desk))

/-- A session's absent expiry (R124). -/
def absentExpired (s : State) (d : Desk) : State :=
  match (s.desk d).session with
  | some x =>
    if x.presence = .idle ∧ reached s.elapsed x.absentExpiry = true then
      fadeSession s d x .absent .absentLimit
    else s
  | none => s

/-- ABSENT_EXPIRY (R124). -/
def execAbsentExpiry (desk : Desk) (s : State) : Host.Outcome State Fault Refusal :=
  .next (settle (absentExpired s desk))

/-- A port's lockout expiry (R122). -/
def lockoutExpired (s : State) (d : Desk) : State :=
  if reachedOpt s.elapsed (s.desk d).lockout then
    s.setDesk d { s.desk d with failures := [], lockout := none }
  else s

/-- LOCKOUT_EXPIRY (R122). -/
def execLockoutExpiry (desk : Desk) (s : State) : Host.Outcome State Fault Refusal :=
  .next (settle (lockoutExpired s desk))

/-- The expiry of a TEMPORARY entry, and the end of the session its badge holds (R118). -/
def credentialExpired (s : State) (badge : Badge) : State :=
  match (s.credential badge).bind (·.temporary) with
  | some (e, issuer) =>
    if reached s.elapsed e then
      endRevoked ((removeCredential s badge).enter .credentialExpired
        { badge := some badge, detail := issuer }) badge
    else s
  | none => s

/-- CREDENTIAL_EXPIRED (R118). -/
def execCredentialExpired (badge : Badge) (s : State) : Host.Outcome State Fault Refusal :=
  .next (settle (credentialExpired s badge))

/-! ## Handover records -/

/-- An offer expires (R151). -/
def offerExpired (s : State) (i : RecordIdx) : State :=
  match s.record i with
  | some r =>
    if r.state = .offered ∧ reachedOpt s.elapsed r.offerExpiry = true then
      endRecord s i r .expired none none
    else s
  | none => s

/-- OFFER_EXPIRY (R151). -/
def execOfferExpiry (record : RecordIdx) (s : State) : Host.Outcome State Fault Refusal :=
  .next (settle (offerExpired s record))

/-- A record in OVERLAP reaches its limit (R152). -/
def overlapLimitExpired (s : State) (i : RecordIdx) : State :=
  match s.record i with
  | some r =>
    if r.state = .overlap ∧ reachedOpt s.elapsed r.limitExpiry = true then
      endRecord s i r .expired none none
    else s
  | none => s

/-- OVERLAP_LIMIT_EXPIRY (R152). -/
def execOverlapLimitExpiry (record : RecordIdx) (s : State) : Host.Outcome State Fault Refusal :=
  .next (settle (overlapLimitExpired s record))

/-! ## Ports -/

/-- A port's liveness expiry (R169). -/
def livenessExpired (s : State) (p : Port) : State :=
  if reachedOpt s.elapsed (s.port p).liveness then becomeSilent s p else s

/-- LIVENESS_EXPIRY (R169). -/
def execLivenessExpiry (port : Port) (s : State) : Host.Outcome State Fault Refusal :=
  .next (settle (livenessExpired s port))

/-- A gateway's DOUBT expiry (R170). -/
def doubtExpired (s : State) (g : Gateway) : State :=
  let x := s.gateway g
  if x.health = .doubt ∧ reachedOpt s.elapsed x.doubtExpiry = true then
    gatewayNotice (changeHealth s g { x with health := .good, history := [], doubtExpiry := none })
  else s

/-- DOUBT_EXPIRY (R170). -/
def execDoubtExpiry (gateway : Gateway) (s : State) : Host.Outcome State Fault Refusal :=
  .next (settle (doubtExpired s gateway))

end Sys2Proof.Machine
end

