-- ==== Sys2Proof/Machine/Transactions.lean ====
section
/-! DEFINITION. The transactions themselves (spec/11, 11.2): BAD_FRAME, OVERRUN, UNKNOWN_REQUEST_KIND,
FETCH and LINK_RESET, and the request catalogue (11.7). -/

namespace Sys2Proof.Machine

/-! ## The request catalogue (11.7) -/

/-- The request of each kind: where it is admitted, whether it is a configuration request, and its
rule. -/
def requestOf : Kind → Request
  | .login => .desk false loginRule
  | .logout => .desk false logoutRule
  | .present => .desk false presentRule
  | .endSession => .desk false endSessionRule
  | .grant => .desk false grantRule
  | .revoke => .desk false revokeRule
  | .ackPoint => .desk false ackPointRule
  | .ackArea => .desk false ackAreaRule
  | .resetPoint => .desk false resetPointRule
  | .silence => .desk false silenceRule
  | .queryList => .desk false queryListRule
  | .readJournal => .desk false readJournalRule
  | .shelve => .desk false shelveRule
  | .unshelve => .desk false unshelveRule
  | .setOutOfService => .desk false setOutOfServiceRule
  | .returnToService => .desk false returnToServiceRule
  | .claimArea => .desk false claimAreaRule
  | .releaseArea => .desk false releaseAreaRule
  | .relocate => .desk false relocateRule
  | .offer => .desk false offerRule
  | .accept => .desk false acceptRule
  | .decline => .desk false declineRule
  | .withdraw => .desk false withdrawRule
  | .confirmItem => .desk false confirmItemRule
  | .confirmPage => .desk false confirmPageRule
  | .queryItems => .desk false queryItemsRule
  | .take => .desk false takeRule
  | .coSign => .desk false coSignRule
  | .forceCommit => .desk false forceCommitRule
  | .forceWithdraw => .desk false forceWithdrawRule
  | .timeSet => .desk false timeSetRule
  | .swapGateways => .desk false swapGatewaysRule
  | .channelReport => .gateway channelReportRule
  | .heartbeat => .gateway heartbeatRule
  | .loadStart => .desk true loadStartRule
  | .configBlock => .desk true configBlockRule
  | .loadEnd => .desk true loadEndRule
  | .loadAbandon => .desk true loadAbandonRule
  | .editPoint => .desk false editPointRule
  | .editParameters => .desk false editParametersRule
  | .restart => .desk false restartRule
  | .restartToLoad => .desk false restartToLoadRule

/-- The request a code names, if the catalogue holds it. -/
def requestFor (code : Byte) : Option Request := (kindOf code).map requestOf

/-! ## FETCH (R167) -/

/-- A desk's FETCH: the answer, the RESYNC frame, the first queue entry, or EMPTY. -/
def fetchDesk (s : State) (d : Desk) : State × List Byte :=
  let p := deskPort d
  let q := s.queue d
  match (s.port p).slot with
  | some a => (s.setPort p { s.port p with slot := none, overrun := false }, answerFrame a (s.port p).overrun)
  | none =>
    if q.resync then (s.setQueue d { q with resync := false }, resyncFrame)
    else match q.entries with
      | n :: rest => (s.setQueue d { q with entries := rest }, noticeFrame n)
      | [] => (s, emptyFrame)

/-- A gateway's FETCH: EMPTY when FAILED, else the answer, a REFRESH notice, or EMPTY. The class byte of
REFRESH is a free value (log entry 8). -/
def fetchGateway (s : State) (g : Gateway) : State × List Byte :=
  let p := gatewayPort g
  if (s.gateway g).health = .failed then (s, emptyFrame)
  else match (s.port p).slot with
    | some a => (s.setPort p { s.port p with slot := none, overrun := false }, answerFrame a (s.port p).overrun)
    | none =>
      if (s.gateway g).refresh then
        ({ s with freeCount := s.freeCount + 1 }.setGateway g { s.gateway g with refresh := false },
          refreshFrame (Config.refreshClass s.freeCount + 1))
      else (s, emptyFrame)

/-- The frame a FETCH shifts out, and the state it leaves. -/
def fetchItem (s : State) (p : Port) : State × List Byte :=
  match splitPort p with
  | .inl d => fetchDesk s d
  | .inr g => fetchGateway s g

/-- The bytes that leave the device while this many are clocked: of the frame as many as are clocked, and
00h after its last CRC byte (R167). -/
def clockedOut (frame : List Byte) (clocked : Nat) : List Byte :=
  frame.take clocked ++ List.replicate (clocked - frame.length) 0#8

/-- A FETCH transaction with this many bytes clocked after its code (R167). The chosen item leaves the device
as its first byte is clocked, so a FETCH that clocks none takes none (log entry 9). -/
def fetchTransaction (p : Port) (clocked : Nat) (s : State) : State :=
  let s1 := beginTransaction s p .fetch
  if clocked = 0 then s1.setShiftedOut p []
  else
    let r := fetchItem s1 p
    r.1.setShiftedOut p (clockedOut r.2 clocked)

/-- FETCH (R167), on a port and with a number of bytes clocked. -/
def execFetch (clocking : Port × Nat) (s : State) : Host.Outcome State Fault Refusal :=
  .next (settle (fetchTransaction clocking.1 clocking.2 s))

/-! ## LINK RESET (R168) -/

/-- What a LINK RESET does to the port's side of the link (R168); a gateway's health has already moved
with its transaction. -/
def resetLink (s : State) (p : Port) : State :=
  let s1 := s.setPort p { s.port p with slot := none, overrun := false }
  let s2 := match splitPort p with
    | .inl d => s1.setQueue d { entries := [], resync := true }
    | .inr _ => s1
  s2.enter .linkReset { port := some p }

/-- A LINK RESET transaction (R168). -/
def linkResetTransaction (p : Port) (s : State) : State := resetLink (beginTransaction s p .linkReset) p

/-- LINK_RESET (R168). -/
def execLinkReset (port : Port) (s : State) : Host.Outcome State Fault Refusal :=
  .next (settle (linkResetTransaction port s))

/-! ## Raw transactions (R165) -/

/-- A transaction of these bytes is taken as what it is (R165, R167, R168). -/
def takeTransaction (p : Port) (t : Transaction) (s : State) : State :=
  match t with
  | .send code tag body => soundFrame p code tag body (requestFor code) s
  | .fetch clocked => fetchTransaction p clocked s
  | .linkReset => linkResetTransaction p s
  | .bad => badTransaction p s

/-- BAD_FRAME (R165): a well-formed one carries bytes that make no sound transaction; other bytes are
taken as the transaction they make (log entry 5). -/
def execBadFrame (port : Port) (bytes : List Byte) (s : State) : Host.Outcome State Fault Refusal :=
  .next (settle (takeTransaction port (parseTransaction bytes) s))

/-- OVERRUN (R165): a sound frame at a port whose answer slot is full is discarded with the overrun
flag set; at an empty slot it is the request it carries (log entry 5). -/
def execOverrun (port : Port) (kind tag : Byte) (body : Body) (s : State) : Host.Outcome State Fault Refusal :=
  .next (settle (send port kind tag body (requestFor kind) s))

/-- UNKNOWN_REQUEST_KIND (R166): a sound frame of a kind that is not in the catalogue is answered
MALFORMED (log entry 5). -/
def execUnknownRequestKind (port : Port) (kind tag : Byte) (body : Body) (s : State) :
    Host.Outcome State Fault Refusal :=
  .next (settle (send port kind tag body (requestFor kind) s))

end Sys2Proof.Machine
end

