-- ==== Sys2Proof/Machine/Dispatch.lean ====
section
/-! DEFINITION. One arm for each command, a call of its meaning. -/

namespace Sys2Proof.Machine

def exec (i : Instr) (s : State) : Host.Outcome State Fault Refusal :=
  match i with
  | .powerOn => Sys2Proof.Machine.execPowerOn s
  | .resetPin => Sys2Proof.Machine.execResetPin s
  | .timeReferenceTick cycles => Sys2Proof.Machine.execTimeReferenceTick cycles s
  | .badFrame port bytes => Sys2Proof.Machine.execBadFrame port bytes s
  | .overrun port kind tag body => Sys2Proof.Machine.execOverrun port kind tag body s
  | .unknownRequestKind port kind tag body => Sys2Proof.Machine.execUnknownRequestKind port kind tag body s
  | .fetch clocking => Sys2Proof.Machine.execFetch clocking s
  | .linkReset port => Sys2Proof.Machine.execLinkReset port s
  | .login port tag body => Sys2Proof.Machine.execLogin port tag body s
  | .logout port tag body => Sys2Proof.Machine.execLogout port tag body s
  | .present port tag body => Sys2Proof.Machine.execPresent port tag body s
  | .endSession port tag body => Sys2Proof.Machine.execEndSession port tag body s
  | .grant port tag body => Sys2Proof.Machine.execGrant port tag body s
  | .revoke port tag body => Sys2Proof.Machine.execRevoke port tag body s
  | .ackPoint port tag body => Sys2Proof.Machine.execAckPoint port tag body s
  | .ackArea port tag body => Sys2Proof.Machine.execAckArea port tag body s
  | .resetPoint port tag body => Sys2Proof.Machine.execResetPoint port tag body s
  | .silence port tag body => Sys2Proof.Machine.execSilence port tag body s
  | .queryList port tag body => Sys2Proof.Machine.execQueryList port tag body s
  | .readJournal port tag body => Sys2Proof.Machine.execReadJournal port tag body s
  | .shelve port tag body => Sys2Proof.Machine.execShelve port tag body s
  | .unshelve port tag body => Sys2Proof.Machine.execUnshelve port tag body s
  | .setOutOfService port tag body => Sys2Proof.Machine.execSetOutOfService port tag body s
  | .returnToService port tag body => Sys2Proof.Machine.execReturnToService port tag body s
  | .claimArea port tag body => Sys2Proof.Machine.execClaimArea port tag body s
  | .releaseArea port tag body => Sys2Proof.Machine.execReleaseArea port tag body s
  | .relocate port tag body => Sys2Proof.Machine.execRelocate port tag body s
  | .offer port tag body => Sys2Proof.Machine.execOffer port tag body s
  | .accept port tag body => Sys2Proof.Machine.execAccept port tag body s
  | .decline port tag body => Sys2Proof.Machine.execDecline port tag body s
  | .withdraw port tag body => Sys2Proof.Machine.execWithdraw port tag body s
  | .confirmItem port tag body => Sys2Proof.Machine.execConfirmItem port tag body s
  | .confirmPage port tag body => Sys2Proof.Machine.execConfirmPage port tag body s
  | .queryItems port tag body => Sys2Proof.Machine.execQueryItems port tag body s
  | .take port tag body => Sys2Proof.Machine.execTake port tag body s
  | .coSign port tag body => Sys2Proof.Machine.execCoSign port tag body s
  | .forceCommit port tag body => Sys2Proof.Machine.execForceCommit port tag body s
  | .forceWithdraw port tag body => Sys2Proof.Machine.execForceWithdraw port tag body s
  | .timeSet port tag body => Sys2Proof.Machine.execTimeSet port tag body s
  | .swapGateways port tag body => Sys2Proof.Machine.execSwapGateways port tag body s
  | .channelReport port tag body => Sys2Proof.Machine.execChannelReport port tag body s
  | .heartbeat port tag body => Sys2Proof.Machine.execHeartbeat port tag body s
  | .loadStart port tag body => Sys2Proof.Machine.execLoadStart port tag body s
  | .configBlock port tag body => Sys2Proof.Machine.execConfigBlock port tag body s
  | .loadEnd port tag body => Sys2Proof.Machine.execLoadEnd port tag body s
  | .loadAbandon port tag body => Sys2Proof.Machine.execLoadAbandon port tag body s
  | .editPoint port tag body => Sys2Proof.Machine.execEditPoint port tag body s
  | .editParameters port tag body => Sys2Proof.Machine.execEditParameters port tag body s
  | .restart port tag body => Sys2Proof.Machine.execRestart port tag body s
  | .restartToLoad port tag body => Sys2Proof.Machine.execRestartToLoad port tag body s
  | .pendingExpiry point => Sys2Proof.Machine.execPendingExpiry point s
  | .shelveExpiry => Sys2Proof.Machine.execShelveExpiry s
  | .releaseExpiry group => Sys2Proof.Machine.execReleaseExpiry group s
  | .groupMemberReleaseEvent group => Sys2Proof.Machine.execGroupMemberReleaseEvent group s
  | .loadIntervalExpiry => Sys2Proof.Machine.execLoadIntervalExpiry s
  | .summaryExpiry area => Sys2Proof.Machine.execSummaryExpiry area s
  | .sweepVisit => Sys2Proof.Machine.execSweepVisit s
  | .passEnd => Sys2Proof.Machine.execPassEnd s
  | .idleExpiry desk => Sys2Proof.Machine.execIdleExpiry desk s
  | .absentExpiry desk => Sys2Proof.Machine.execAbsentExpiry desk s
  | .lockoutExpiry desk => Sys2Proof.Machine.execLockoutExpiry desk s
  | .credentialExpired badge => Sys2Proof.Machine.execCredentialExpired badge s
  | .offerExpiry record => Sys2Proof.Machine.execOfferExpiry record s
  | .overlapLimitExpiry record => Sys2Proof.Machine.execOverlapLimitExpiry record s
  | .livenessExpiry port => Sys2Proof.Machine.execLivenessExpiry port s
  | .doubtExpiry gateway => Sys2Proof.Machine.execDoubtExpiry gateway s

end Sys2Proof.Machine
end

