-- ==== Sys2Proof/Safety.lean ====
section
/-! DEFINITION. The words the statements are written in: the fields of the state and what a command
leaves unchanged, a request as it is taken, and the invariants every step keeps. -/

namespace Sys2Proof.Machine

/-! ## What a command leaves unchanged -/

/-- The fields of the state. -/
inductive Field where
  | pending | elapsed | refCycles | offset | dev | staged | params | roles | reach | portCfg
  | preferred | channels | points | serial | shelf | groups | loads | loadExpiry | sweep | queues
  | marks | horns | attention | journal | creds | desks | map | records | handoverCounter | ports
  | gateways | shiftedOut | freeCount
deriving DecidableEq, Repr

/-- A field has the same value in two states. -/
def sameField (s t : State) : Field → Prop
  | .pending => t.pending = s.pending
  | .elapsed => t.elapsed = s.elapsed
  | .refCycles => t.refCycles = s.refCycles
  | .offset => t.offset = s.offset
  | .dev => t.dev = s.dev
  | .staged => t.staged = s.staged
  | .params => t.params = s.params
  | .roles => t.roles = s.roles
  | .reach => t.reach = s.reach
  | .portCfg => t.portCfg = s.portCfg
  | .preferred => t.preferred = s.preferred
  | .channels => t.channels = s.channels
  | .points => t.points = s.points
  | .serial => t.serial = s.serial
  | .shelf => t.shelf = s.shelf
  | .groups => t.groups = s.groups
  | .loads => t.loads = s.loads
  | .loadExpiry => t.loadExpiry = s.loadExpiry
  | .sweep => t.sweep = s.sweep
  | .queues => t.queues = s.queues
  | .marks => t.marks = s.marks
  | .horns => t.horns = s.horns
  | .attention => t.attention = s.attention
  | .journal => t.journal = s.journal
  | .creds => t.creds = s.creds
  | .desks => t.desks = s.desks
  | .map => t.map = s.map
  | .records => t.records = s.records
  | .handoverCounter => t.handoverCounter = s.handoverCounter
  | .ports => t.ports = s.ports
  | .gateways => t.gateways = s.gateways
  | .shiftedOut => t.shiftedOut = s.shiftedOut
  | .freeCount => t.freeCount = s.freeCount

/-- Every field but those listed has the same value in both states. -/
def OnlyChanges (fields : List Field) (s t : State) : Prop := ∀ f, f ∉ fields → sameField s t f

/-- The fields that every request may change: the answer slot of its port and the lines derived from
the state. -/
def answering : List Field := [.ports, .horns, .attention]

/-- The points other than one are as before, but that a release of a group may have cleared SUPPRESSED
on some (R60). -/
def OnlyReleases (s t : State) (i : Nat) : Prop :=
  ∀ j, j ≠ i → t.point j = s.point j ∨
    t.point j = (s.point j).map (fun p => { p with suppressed := false })

/-- The points other than one are as before. -/
def OtherPointsSame (s t : State) (i : Nat) : Prop := ∀ j, j ≠ i → t.point j = s.point j

/-- The sessions, failure histories and lockouts of the desks other than one are as before. -/
def OtherDesksSame (s t : State) (d : Desk) : Prop := ∀ e, e ≠ d → t.desk e = s.desk e

/-- The handover records other than one are as before. -/
def OtherRecordsSame (s t : State) (i : RecordIdx) : Prop := ∀ j, j ≠ i → t.record j = s.record j

/-- No area has another owner or another handover link. -/
def OwnersSame (s t : State) : Prop :=
  ∀ a, (t.area a).map (fun r => (r.nameIndex, r.owner, r.link)) =
    (s.area a).map (fun r => (r.nameIndex, r.owner, r.link))

/-- The latest journal entry is of this kind with these fields, stamped with the mill time. -/
def LastEntry (t : State) (kind : JournalKind) (f : EntryFields) : Prop :=
  t.journal.entries.getLast? =
    some { mill := t.mill, kind := kind, port := f.port, badge := f.badge, area := f.area
           point := f.point, occ := f.occ, detail := f.detail }

/-- The latest journal entries are those of a list, in its order, stamped with the mill time. -/
def LastEntries (t : State) (l : List (JournalKind × EntryFields)) : Prop :=
  ∃ earlier, t.journal.entries = earlier ++ l.map (fun e =>
    { mill := t.mill, kind := e.1, port := e.2.port, badge := e.2.badge, area := e.2.area
      point := e.2.point, occ := e.2.occ, detail := e.2.detail })

/-- The link, last heard and liveness of a port are those of a port heard at this moment: GOOD, and the
liveness expiry one tenth beyond the silence limit of its kind of port, parameter 27 for ports 0 to 6 and
28 for ports 7 and 8 (R169). -/
structure JustHeard (s t : State) (p : Port) : Prop where
  link : (t.port p).link = .good
  lastHeard : (t.port p).lastHeard = some s.elapsed
  desk : p.val < 7 → (t.port p).liveness = some (after s.elapsed (10 * s.param 27 + 1))
  gateway : 7 ≤ p.val → (t.port p).liveness = some (after s.elapsed (10 * s.param 28 + 1))
  others : ∀ q, q ≠ p → t.port q = s.port q

/-! ## A request as it is taken -/

/-- The state once a sound frame at a port has been heard (R165, R169). -/
def heardAt (s : State) (p : Port) : State := beginTransaction s p .sound

/-- The state once an operator request at a desk has been heard and its interaction recorded (R123). -/
def actingAt (s : State) (d : Desk) : State := interact (heardAt s (deskPort d)) d

/-- A console or supervisor port that takes requests: RUNNING, enabled, its answer slot empty (R165,
R166). -/
structure Taking (s : State) (d : Desk) : Prop where
  slot : (s.port (deskPort d)).slot = none
  running : s.dev = .running
  enabled : s.enabled d = true

/-- The port takes requests and holds a session. -/
structure Operator (s : State) (d : Desk) (x : Session) : Prop where
  taking : Taking s d
  session : (s.desk d).session = some x

/-- The supervisor port takes requests and holds a session whose role has a right. -/
structure Supervisor (s : State) (x : Session) (r : Right) : Prop where
  operator : Operator s supervisor x
  right : (s.roleOf x).holds r = true

/-- An operator request at a desk on a configured point passes its checks: the session's role holds the
permission for the point's area, and the port is entitled to act there (R34, R42, R46, R50, R54, R55). -/
structure MayActOn (s : State) (d : Desk) (x : Session) (perm : Permission) (i : Nat) (p : Point) :
    Prop where
  operator : Operator s d x
  point : s.point i = some p
  permitted : (s.roleOf x).permits perm p.cfg.area = true
  entitled : (actingAt s d).entitled d p.cfg.area = true

/-- The answer of a request of this kind and tag stands in the port's slot, and the ports are otherwise
as before. -/
def Replied (s t : State) (p : Port) (k : Kind) (tag : Byte) (r : Reply) : Prop :=
  t.ports = s.ports.set p
    { s.ports[p] with slot := some { kind := k.code, tag := tag, reply := r } }

/-- The command of a request of each kind. -/
def requestCommand : Kind → Port → Byte → Body → Instr
  | .login => .login
  | .logout => .logout
  | .present => .present
  | .endSession => .endSession
  | .grant => .grant
  | .revoke => .revoke
  | .ackPoint => .ackPoint
  | .ackArea => .ackArea
  | .resetPoint => .resetPoint
  | .silence => .silence
  | .queryList => .queryList
  | .readJournal => .readJournal
  | .shelve => .shelve
  | .unshelve => .unshelve
  | .setOutOfService => .setOutOfService
  | .returnToService => .returnToService
  | .claimArea => .claimArea
  | .releaseArea => .releaseArea
  | .relocate => .relocate
  | .offer => .offer
  | .accept => .accept
  | .decline => .decline
  | .withdraw => .withdraw
  | .confirmItem => .confirmItem
  | .confirmPage => .confirmPage
  | .queryItems => .queryItems
  | .take => .take
  | .coSign => .coSign
  | .forceCommit => .forceCommit
  | .forceWithdraw => .forceWithdraw
  | .timeSet => .timeSet
  | .swapGateways => .swapGateways
  | .channelReport => .channelReport
  | .heartbeat => .heartbeat
  | .loadStart => .loadStart
  | .configBlock => .configBlock
  | .loadEnd => .loadEnd
  | .loadAbandon => .loadAbandon
  | .editPoint => .editPoint
  | .editParameters => .editParameters
  | .restart => .restart
  | .restartToLoad => .restartToLoad

/-- The body of an operator request at a desk passes every check that its rule makes before the session check:
its length and its fields, and what it names exists. False for a kind whose rule has no session check.
(R34, R40, R42, R46, R50, R54, R55, R83, R103, R105, R111, R116, R117, R123, R125, R128, R135 to R137, R144,
R146, R149, R150, R154 to R156, R159, R161, R162, R173, R178 to R181.) -/
def reachesSession (s : State) (d : Desk) (k : Kind) (body : Body) : Bool :=
  let point := fun (p1 p0 : Byte) => (s.point (read16 p1 p0).toNat).isSome
  let area := fun (b : Byte) => (s.definedArea b).isSome
  match k with
  | .logout | .present | .silence | .swapGateways | .restart | .restartToLoad => body.isEmpty
  | .endSession => body.length == 1
  | .grant => match body with
    | [b3, b2, b1, b0, _, _, r, _, _, _, _] => (roleIdx r).isSome && read32 b3 b2 b1 b0 != 0#32
    | _ => false
  | .revoke | .timeSet => body.length == 4
  | .ackPoint => match body with
    | [p1, p0, _, _] => point p1 p0
    | _ => false
  | .resetPoint | .unshelve | .returnToService => match body with
    | [p1, p0] => point p1 p0
    | _ => false
  | .setOutOfService => match body with
    | [p1, p0, _] => point p1 p0
    | _ => false
  | .shelve => match body with
    | [p1, p0, t3, t2, t1, t0, _] => point p1 p0 && read32 t3 t2 t1 t0 != 0#32
    | _ => false
  | .ackArea => match body with
    | [b, _, _, _, _] => area b
    | _ => false
  | .queryList => match body with
    | [b, f1, f0] => area b && decide ((read16 f1 f0).toNat < 2048)
    | _ => false
  | .readJournal => match body with
    | [n] => decide (1 ≤ n.toNat) && decide (n.toNat ≤ 8)
    | _ => false
  | .claimArea | .releaseArea => match body with
    | [b] => area b
    | _ => false
  | .relocate => match body with
    | [a1, a0, cb] => read16 a1 a0 != 0#16 && (consoleOf cb).isSome && s.allDefined (read16 a1 a0)
    | _ => false
  | .offer => match body with
    | [a1, a0, tb] => (targetOf d tb).isSome && read16 a1 a0 != 0#16 && s.allDefined (read16 a1 a0)
    | _ => false
  | .accept | .decline | .withdraw | .take | .coSign | .forceCommit | .forceWithdraw => match body with
    | [i, _, _] => (recordOf i).isSome
    | _ => false
  | .confirmItem => match body with
    | [i, _, _, _, _, _] => (recordOf i).isSome
    | _ => false
  | .confirmPage => match body with
    | [i, _, _, _, c, _, _, _, _] =>
      (recordOf i).isSome && decide (1 ≤ c.toNat) && decide (c.toNat ≤ 16)
    | _ => false
  | .queryItems => match body with
    | [i, _, _, _] => (recordOf i).isSome
    | _ => false
  | .editPoint => match body with
    | p1 :: p0 :: rest => rest.length == 19 && point p1 p0
    | _ => false
  | .editParameters => match body with
    | first :: count :: bytes =>
      decide (1 ≤ count.toNat) && decide (count.toNat ≤ 16) && bytes.length == 4 * count.toNat &&
      (List.range count.toNat).all (fun j => (s.editable (first.toNat + j)).isSome)
    | _ => false
  | .login | .channelReport | .heartbeat | .loadStart | .configBlock | .loadEnd | .loadAbandon => false

/-! ## Raises and returns -/

/-- The groups after a point has become active or stayed as it was: a head that was not active and is
IN_SERVICE makes its group BLOCKING (R59); no other group changes. -/
def HeadHasRisen (s t : State) (p : Point) : Prop :=
  (∀ g, p.cfg.headOf = some g → p.inService = true → p.state.inAlarm = false →
    t.group g = (s.group g).map (fun x => { x with state := .blocking, expiry := none })) ∧
  ∀ g, (p.cfg.headOf ≠ some g ∨ p.inService = false ∨ p.state.inAlarm = true) →
    t.group g = s.group g

/-- A fresh raise was annunciated (R29, R30, R63, R66, R67): a new occurrence in UNACK_ACTIVE with the next
serial; the load of the area rises by the weight and its state is evaluated; the raise is muted, and
counted, when the area is then FLOOD and the priority is one the threshold mutes. -/
def AnnunciatedRaise (s t : State) (i : Nat) (p : Point) (time : Time) : Prop :=
  let a := p.cfg.area
  let load := min 65535 ((s.load a).load + s.weight p.cfg.priority)
  let muted := (t.load a).state == .flood && decide (s.param 10 ≤ p.cfg.priority)
  t.point i = some
    { p with
      state := .unackActive, occ := p.occ + 1, acked := false, ackRecord := none
      stamp := some { elapsed := time, mill := time + s.offset }
      raiseSerial := s.serial + 1, escSerial := none, escalated := false, muted := muted } ∧
  t.serial = s.serial + 1 ∧
  (t.load a).load = load ∧ (t.load a).state = s.evalLoad (s.load a).state load ∧
  (muted = true → (t.load a).count = min 65535 ((s.load a).count + 1)) ∧
  ∀ b, b ≠ a → t.load b = s.load b

/-- A fresh raise was quiet (R31): a new occurrence in ACK_ACTIVE, not acknowledged, SUPPRESSED when its
group blocks it; no serial and no load. -/
def QuietRaise (s t : State) (i : Nat) (p : Point) (time : Time) : Prop :=
  t.point i = some
    { p with
      state := .ackActive, occ := p.occ + 1, acked := false, ackRecord := none
      stamp := some { elapsed := time, mill := time + s.offset }
      escSerial := none, escalated := false, muted := false
      suppressed := p.suppressed || s.blocks p } ∧
  t.serial = s.serial ∧ t.loads = s.loads

/-- A raise was folded (R27, R28): the occurrence stays, the chatter count rises up to 15, and CHATTERING
is set when it reaches the chatter limit. -/
def FoldedRaise (s t : State) (i : Nat) (p : Point) : Prop :=
  let count := min 15 (p.chatterCount + 1)
  t.point i = some
    { p with
      state := if p.acked || s.wouldBeQuiet p then .ackActive else .unackActive
      suppressed := p.suppressed || s.blocks p
      chatterCount := count, foldSince := true
      chattering := p.chattering || decide (s.param 23 ≤ count) } ∧
  t.serial = s.serial ∧ t.loads = s.loads

/-- The engine has taken a raise of a point at a time: folded, quiet or annunciated (R26). -/
def RaiseTaken (s t : State) (i : Nat) (p : Point) (time : Time) : Prop :=
  (p.folds time = true → FoldedRaise s t i p) ∧
  (p.folds time = false → s.wouldBeQuiet p = true → QuietRaise s t i p time) ∧
  (p.folds time = false → s.wouldBeQuiet p = false → AnnunciatedRaise s t i p time) ∧
  HeadHasRisen s t p ∧ OtherPointsSame s t i

/-- The groups after a point has stopped being active or stayed as it was: a head that was active makes a
BLOCKING group RELEASING for its release delay, or OPEN at once when the delay is 0, with a further event
owed to each SUPPRESSED member in member order (R59, R60). `i` is the point's index, `p` the point before and
`q` after. -/
def HeadHasFallen (s t : State) (i : Nat) (p q : Point) : Prop :=
  (∀ g x, p.cfg.headOf = some g → p.active = true → q.active = false → s.group g = some x →
    x.state = .blocking →
    (x.delay ≠ 0 → t.group g =
      some { x with state := .releasing, expiry := some (after s.elapsed x.delay) }) ∧
    (x.delay = 0 → t.group g = some
      { x with
        state := .isOpen, expiry := none
        owed := x.owed ++ x.members.filter (fun m =>
          if m = i then q.suppressed else (s.point m).any (·.suppressed)) })) ∧
  ∀ g, (p.cfg.headOf ≠ some g ∨ p.active = q.active ∨ (s.group g).any (·.state == .blocking) = false) →
    t.group g = s.group g

/-- The engine has taken a return of a point at a time (R33): the state is the one of the table, the time
is its last return, ESCALATED clears, and SUPPRESSED clears on a point in ACK_ACTIVE. -/
def ReturnTaken (s t : State) (i : Nat) (p : Point) (time : Time) : Prop :=
  let state :=
    if p.state = .unackActive then
      if p.cfg.mode = .standard ∨ p.cfg.mode = .latching then .unackReturned else .normal
    else if p.state = .ackActive then
      if p.cfg.mode = .latching ∧ p.acked = true ∧ p.suppressed = false ∧ p.shelved = false then
        .latched
      else .normal
    else p.state
  let q : Point :=
    { p with
      state := state, lastReturn := some time, escalated := false, escSerial := none
      suppressed := p.suppressed && p.state != .ackActive }
  t.point i = some q ∧ OnlyReleases s t i ∧ HeadHasFallen s t i p q ∧ t.serial = s.serial ∧
  t.loads = s.loads ∧ t.journal = s.journal

/-! ## Orders of lists -/

/-- A point comes before another by its raise stamp: no stamp before any, then the older by its elapsed
part, and of two that are level the lower index (R138, R147). -/
def StampPrecedes (now : Time) (e f : Nat × Point) : Prop :=
  (e.2.stamp = none ∧ f.2.stamp.isSome = true) ∨
  (e.2.stamp = none ∧ f.2.stamp = none ∧ e.1 < f.1) ∨
  ∃ a b, e.2.stamp = some a ∧ f.2.stamp = some b ∧
    (age now b.elapsed < age now a.elapsed ∨ age now b.elapsed = age now a.elapsed ∧ e.1 < f.1)

/-- The order of a new item list: the lower priority number, then the raise stamp (R147). -/
def ItemPrecedes (now : Time) (e f : Nat × Point) : Prop :=
  e.2.cfg.priority < f.2.cfg.priority ∨
  (e.2.cfg.priority = f.2.cfg.priority ∧ StampPrecedes now e f)

/-! ## The invariants -/

/-- The horn and attention lines are what the rules derive (R102, R106, R107, R108, R167). -/
def LinesSettled (s : State) : Prop := settle s = s

/-- A queue is as R97 has it: within its capacity, in the order of classes, with at most one POINT notice
for each point. -/
structure QueueLegal (capacity : Nat) (q : Queue) : Prop where
  fits : q.entries.length ≤ capacity
  ordered : q.entries.Pairwise (fun e f => e.cls ≤ f.cls)
  once : q.entries.Pairwise (fun e f => sameSubject e f = false)

/-- No journal, counter or list exceeds what the part holds, and every queue is legal (R65, R97, R109,
R142). -/
structure WithinCapacity (s : State) : Prop where
  queues : ∀ d, QueueLegal (queueCapacity d) (s.queue d)
  journal : s.journal.entries.length ≤ Config.journalCapacity
  gap : s.journal.gap ≤ Config.saturation
  loads : ∀ a, (s.load a).load ≤ Config.saturation
  counts : ∀ a, (s.load a).count ≤ Config.saturation
  items : ∀ i r, s.record i = some r → r.items.length ≤ Config.itemCapacity

/-- A point is SHELVED exactly when the shelve list holds an entry for it, and the list is within its
capacity and holds no point twice (R44, R47, R49). -/
structure ShelfAgrees (s : State) : Prop where
  flagged : ∀ i p, s.point i = some p → (p.shelved = true ↔ ∃ e ∈ s.shelf, e.point = i)
  fits : s.shelf.length ≤ Config.shelveCapacity
  once : s.shelf.Pairwise (fun e f => e.point ≠ f.point)

/-- The tenths from now to an expiry, below 0 once it is past. -/
def State.tenthsTo (s : State) (e : Time) : Int := (e - s.elapsed).toInt

/-- The shelve list is in the order of its expiries (R44), none of them more than 2^30 tenths past. -/
structure ShelfInOrder (s : State) : Prop where
  ordered : s.shelf.Pairwise (fun e f => s.tenthsTo e.expiry ≤ s.tenthsTo f.expiry)
  recent : ∀ e ∈ s.shelf, -(2 ^ 30) ≤ s.tenthsTo e.expiry

/-- Every device parameter lies in its range (R176, R177, R179). -/
def ParamsInRange (s : State) : Prop := ∀ n : Fin 29, inRange (paramRange n) (s.param n) = true

/-- A point of a group is listed among its members, and one flagged SUPPRESSED is in ACK_ACTIVE and a
member of a group that is BLOCKING or RELEASING (R57, R61). -/
structure SuppressedBlocked (s : State) : Prop where
  member : ∀ i p g, s.point i = some p → p.cfg.group = some g →
    ∃ x, s.group g = some x ∧ i ∈ x.members
  blocked : ∀ i p, s.point i = some p → p.suppressed = true → p.state = .ackActive ∧
    ∃ g x, p.cfg.group = some g ∧ s.group g = some x ∧ (x.state = .blocking ∨ x.state = .releasing)

/-- A device that is not RUNNING holds no point and has the raise serial counter at 0 (R104, R175). -/
def UnloadedIsBare (s : State) : Prop := s.dev ≠ .running → s.points = [] ∧ s.serial = 0

/-- The attendance of every defined area is the one its owner, the sessions and the links give it
(R131). -/
def AttendanceDerived (s : State) : Prop :=
  ∀ a r, s.area a = some r → r.attendance = s.deriveAttendance r.owner

/-- A record in OVERLAP or HELD has the cause FLOOD exactly while an area of it is FLOOD, and is HELD
exactly while it has a cause (R157). -/
def HoldFollowsCauses (s : State) : Prop :=
  ∀ i r, s.record i = some r → r.accepted = true →
    r.flood = !s.floodFree r.areas ∧ (r.state = .held ↔ r.caused = true)

/-- Keys rise strictly. -/
def KeysRise {α : Type} (t : List (Nat × α)) : Prop := t.Pairwise (fun x y => x.1 < y.1)

/-- The points, the channels and every staged table are listed by strictly rising index. -/
structure TablesRise (s : State) : Prop where
  points : KeysRise s.points
  channels : KeysRise s.channels
  staged : ∀ k : Fin 9, KeysRise s.staged.tables[k]

/-- A badge holds at most one session (R113, R120). -/
def SessionsApart (s : State) : Prop :=
  ∀ d e x y, (s.desk d).session = some x → (s.desk e).session = some y → x.badge = y.badge → d = e

/-- Every credential stands in the row of its badge, its badge is not 0, and no other way of the row
holds the badge (R112, R113). -/
def CredentialsPlaced (s : State) : Prop :=
  ∀ (row : Fin 64) (w : Fin 4) c, s.creds[row][w] = some c →
    rowOf c.badge = row ∧ c.badge ≠ 0#32 ∧
    ∀ (v : Fin 4) c', s.creds[row][v] = some c' → c'.badge = c.badge → v = w

/-- The thresholds keep their orders, and the load state of every defined area agrees with its load: one
more evaluation would leave it as it is (R64, R71). -/
structure LoadsAgree (s : State) : Prop where
  ordered : thresholdsOrdered s.params = true
  agree : ∀ a, (s.area a).isSome = true → s.evalLoad (s.load a).state (s.load a).load = (s.load a).state

/-- What holds of a point between events: OUT_OF_SERVICE it is NORMAL with nothing delivered or pending
(R53, R54); ESCALATED it is UNACK_ACTIVE, and has an escalation serial exactly then (R22, R39); its
chatter count is at most 15 (R22, R28). -/
structure PointSound (p : Point) : Prop where
  idle : p.inService = false → p.state = .normal ∧ p.delivered = false ∧ p.pendingPart = none
  escalated : p.escalated = true → p.state = .unackActive
  serial : p.escSerial.isSome = p.escalated
  chatter : p.chatterCount ≤ 15

/-- Every point is sound. -/
def PointsSound (s : State) : Prop := ∀ i p, s.point i = some p → PointSound p

/-- The head of a group is no member of it (R57). -/
def HeadsApart (s : State) : Prop :=
  ∀ i p g x, s.point i = some p → p.cfg.headOf = some g → s.group g = some x → i ∉ x.members

/-- An invariant is kept: a step from a state that has it reaches a state that has it. -/
def KeptByStep (inv : State → Prop) : Prop := ∀ s t, inv s → step s = .next t → inv t

end Sys2Proof.Machine
end

