-- ==== Sys2Proof/Certificates/Slice0/Obligations.lean ====
section
/-! DEFINITION. The statements: what the rules of spec/ say the block does. -/

open Sys2Proof Sys2Proof.Machine

/-! ## The queue of commands, power and time -/

/-- A step takes the command at the front of the queue, with the rest of the queue left; on an empty
queue the block idles (log entry 1). -/
def Obligations.StepRunsFrontCommand : Prop :=
  (∀ (c : Instr) (rest : List Instr) (s : State),
    step { s with pending := c :: rest } = exec c { s with pending := rest }) ∧
  ∀ s : State, s.pending = [] → step s = .next s

/-- Every command answers a next state, and leaves the queue of waiting commands as it was. The model's
own here: log entries 1, 4 and 5. -/
def Obligations.EveryCommandGoesOn : Prop :=
  ∀ (c : Instr) (s : State), ∃ t, exec c s = .next t ∧ t.pending = s.pending

/-- POWER_ON and RESET_PIN set every register to its reset value (R181). The model's own here: the queue of
commands and the count of free values are kept, and the lines of the frames shifted out are empty (log
entries 1, 8 and 9); the parameters, the PORTS entries and the preferred gateway stand at their defaults
(log entry 7), and the sweep at rest holds a period of 60 s and zeros (log entry 29). -/
def Obligations.PowerOnAndResetPinClear : Prop :=
  ∀ s : State, ∃ t, exec .powerOn s = .next t ∧ exec .resetPin s = .next t ∧
    t = { State.reset with pending := s.pending, freeCount := s.freeCount } ∧
    t.dev = .unconfigured ∧ t.elapsed = 0 ∧ t.refCycles = 0 ∧ t.offset = 0 ∧ t.serial = 0 ∧
    t.channels = [] ∧ t.points = [] ∧ t.shelf = [] ∧ t.sweep = .atRest ∧ t.loadExpiry = none ∧
    t.handoverCounter = 0 ∧ t.journal = { entries := [], gap := 0 } ∧
    (∀ d : Desk, t.queue d = .empty ∧ t.mark d = 0 ∧ t.desk d = .fresh ∧ t.horns[d] = false) ∧
    (∀ p : Port, t.port p = .fresh ∧ t.attention[p] = false) ∧ (∀ g, t.gateway g = .fresh) ∧
    (∀ a, t.area a = none ∧ t.load a = .quiet) ∧ (∀ g, t.group g = none) ∧
    (∀ i, t.record i = none) ∧ (∀ (row : Fin 64) (w : Fin 4), t.creds[row][w] = none) ∧
    (∀ k : Fin 9, t.staged.present[k] = false ∧ t.staged.tables[k] = []) ∧
    (∀ p : Port, t.shiftedOut[p] = []) ∧ t.pending = s.pending ∧ t.freeCount = s.freeCount

/-- Elapsed time advances by one for every 100 cycles of the reference, whatever the device state, and
wraps; the cycles toward the next tenth are kept; nothing else changes but the lines derived from the
state (R80). The model's own here: log entry 2. -/
def Obligations.ElapsedTimeCountsTenths : Prop :=
  ∀ (n : Nat) (s : State), ∃ t, exec (.timeReferenceTick n) s = .next t ∧
    t.elapsed.toNat = (s.elapsed.toNat + (s.refCycles.val + n) / 100) % 2 ^ 32 ∧
    t.refCycles.val = (s.refCycles.val + n) % 100 ∧
    OnlyChanges [.elapsed, .refCycles, .horns, .attention] s t ∧
    ∀ m, exec (.timeReferenceTick m) t = exec (.timeReferenceTick (n + m)) s

/-! ## Transactions -/

/-- A BAD_FRAME, a transaction of bytes that are no sound transaction, is discarded (R165). At a console
or the supervisor port it does no more than be heard. At a gateway it also moves the health as R170
gives: ABSENT and GOOD become DOUBT with a history of this frame alone, DOUBT forgets the frames 100
tenths old and becomes FAILED with the third, FAILED stays. The slot of a port that is not made FAILED
stays as it was. The model's own here: log entry 5. -/
def Obligations.BadFrameDiscarded : Prop :=
  (∀ (d : Desk) (bytes : List Byte) (s : State), parseTransaction bytes = .bad →
    ∃ t, exec (.badFrame (deskPort d) bytes) s = .next t ∧
      OnlyChanges [.horns, .attention] (heardAt s (deskPort d)) t ∧
      ∀ p, (t.port p).slot = (s.port p).slot) ∧
  (∀ (g : Gateway) (bytes : List Byte) (s : State), parseTransaction bytes = .bad →
    ∃ t, exec (.badFrame (gatewayPort g) bytes) s = .next t ∧
      OnlyChanges [.ports, .gateways, .queues, .journal, .horns, .attention] s t ∧
      (∀ p, p ≠ gatewayPort g → t.port p = s.port p) ∧
      (t.port (gatewayPort g)).link = .good ∧
      (t.gateway (otherGateway g)).health = (s.gateway (otherGateway g)).health ∧
      (let x := s.gateway g
       let recent := x.history.filter (fun b => age s.elapsed b ≤ 99) ++ [s.elapsed]
       ((x.health = .absent ∨ x.health = .good) →
         (t.gateway g).health = .doubt ∧ (t.gateway g).history = [s.elapsed] ∧
         (t.gateway g).doubtExpiry = some (after s.elapsed 100)) ∧
       ((x.health = .doubt → recent.length < 3) →
         (t.port (gatewayPort g)).slot = (s.port (gatewayPort g)).slot) ∧
       (x.health = .doubt → recent.length < 3 →
         (t.gateway g).health = .doubt ∧ (t.gateway g).history = recent ∧
         (t.gateway g).doubtExpiry = some (after s.elapsed 100)) ∧
       (x.health = .doubt → 3 ≤ recent.length →
         (t.gateway g).health = .failed ∧ (t.gateway g).doubtExpiry = none ∧
         (t.port (gatewayPort g)).slot = none) ∧
       (x.health = .failed → (t.gateway g).health = .failed ∧
         (t.gateway g).history = x.history ∧ (t.gateway g).doubtExpiry = x.doubtExpiry)))

/-- A sound frame at a port whose answer slot is full is discarded: the answer stays and the overrun
flag is set (R165); at a gateway in FAILED it is discarded without the flag (R170). A sound frame of a
kind that is not in the catalogue is answered MALFORMED and has no other effect (R166). The model's own
here: log entry 5. -/
def Obligations.OverrunAndUnknownKind : Prop :=
  (∀ (p : Port) (kind tag : Byte) (body : Body) (s : State), body.length ≤ maxBody →
    (heardAt s p).deaf p = false → ((heardAt s p).port p).slot.isSome = true →
    ∃ t, exec (.overrun p kind tag body) s = .next t ∧
      OnlyChanges answering (heardAt s p) t ∧
      t.ports = (heardAt s p).ports.set p { (heardAt s p).ports[p] with overrun := true } ∧
      (t.port p).slot = (s.port p).slot) ∧
  (∀ (g : Gateway) (kind tag : Byte) (body : Body) (s : State), body.length ≤ maxBody →
    (s.gateway g).health = .failed →
    ∃ t, exec (.overrun (gatewayPort g) kind tag body) s = .next t ∧
      OnlyChanges [.horns, .attention] (heardAt s (gatewayPort g)) t) ∧
  ∀ (p : Port) (kind tag : Byte) (body : Body) (s : State), body.length ≤ maxBody →
    kindOf kind = none → (heardAt s p).deaf p = false → ((heardAt s p).port p).slot = none →
    ∃ t, exec (.unknownRequestKind p kind tag body) s = .next t ∧
      OnlyChanges answering (heardAt s p) t ∧
      t.ports = (heardAt s p).ports.set p
        { (heardAt s p).ports[p] with
          slot := some { kind := kind, tag := tag, reply := refuse .malformed } }

/-- FETCH at a console or the supervisor port shifts out the first that is there of the answer, the
RESYNC frame, the first queue entry and EMPTY, and removes what it shifted out; an answer takes the
overrun flag with it (R101, R102, R167). At a gateway it shifts out EMPTY when the health is FAILED,
else the first that is there of the answer, the REFRESH notice and EMPTY (R167, R170, R172). The bytes
clocked after the frame's last CRC byte are 00h (R167). The class in the body of a REFRESH notice is a
free value of 1 to 4 (log entry 8). The model's own here: a FETCH that clocks no byte takes no item, and
the line holds what was clocked (log entry 9); RESYNC and EMPTY frames have a body of length 0 (log entry
40). -/
def Obligations.FetchTakesFirstWaiting : Prop :=
  (∀ (d : Desk) (clocked : Nat) (s : State), ∃ t, exec (.fetch (deskPort d, clocked)) s = .next t ∧
    OnlyChanges [.ports, .queues, .shiftedOut, .horns, .attention] (heardAt s (deskPort d)) t ∧
    (∀ p : Port, p ≠ deskPort d → t.shiftedOut[p] = s.shiftedOut[p] ∧
      t.port p = (heardAt s (deskPort d)).port p) ∧
    (∀ e, e ≠ d → t.queue e = (heardAt s (deskPort d)).queue e) ∧
    (let p := deskPort d
     let h := heardAt s p
     let x := h.port p
     let q := h.queue d
     let shifts := fun frame => t.shiftedOut[p] = clockedOut frame clocked
     (clocked = 0 → t.shiftedOut[p] = [] ∧ t.port p = x ∧ t.queue d = q) ∧
     (0 < clocked →
       (∀ a, x.slot = some a → shifts (answerFrame a x.overrun) ∧
         t.port p = { x with slot := none, overrun := false } ∧ t.queue d = q) ∧
       (x.slot = none → t.port p = x) ∧
       (x.slot = none → q.resync = true → shifts resyncFrame ∧
         t.queue d = { q with resync := false }) ∧
       (∀ n rest, x.slot = none → q.resync = false → q.entries = n :: rest →
         shifts (noticeFrame n) ∧ t.queue d = { q with entries := rest }) ∧
       (x.slot = none → q.resync = false → q.entries = [] →
         shifts emptyFrame ∧ t.queue d = q)))) ∧
  (∀ (g : Gateway) (clocked : Nat) (s : State),
    ∃ t, exec (.fetch (gatewayPort g, clocked)) s = .next t ∧
    (let p := gatewayPort g
     let h := beginTransaction s p .fetch
     let x := h.port p
     let y := h.gateway g
     let shifts := fun frame => t.shiftedOut[p] = clockedOut frame clocked
     OnlyChanges [.ports, .gateways, .shiftedOut, .freeCount, .horns, .attention] h t ∧
     (∀ q : Port, q ≠ p → t.shiftedOut[q] = s.shiftedOut[q] ∧ t.port q = h.port q) ∧
     t.gateway (otherGateway g) = h.gateway (otherGateway g) ∧
     (clocked = 0 → t.shiftedOut[p] = [] ∧ t.port p = x ∧ t.gateway g = y ∧
       t.freeCount = s.freeCount) ∧
     (0 < clocked →
       (y.health = .failed → shifts emptyFrame ∧ t.port p = x ∧ t.gateway g = y) ∧
       (∀ a, y.health ≠ .failed → x.slot = some a → shifts (answerFrame a x.overrun) ∧
         t.port p = { x with slot := none, overrun := false } ∧ t.gateway g = y) ∧
       (y.health ≠ .failed → x.slot = none → y.refresh = true →
         (∃ cls, 1 ≤ cls ∧ cls ≤ 4 ∧ shifts (refreshFrame cls)) ∧ t.port p = x ∧
         t.gateway g = { y with refresh := false }) ∧
       (y.health ≠ .failed → x.slot = none → y.refresh = false →
         shifts emptyFrame ∧ t.port p = x ∧ t.gateway g = y)))) ∧
  ∀ (frame : List Byte) (clocked : Nat), (clockedOut frame clocked).length = clocked ∧
    ∀ k, k < clocked →
      (k < frame.length → (clockedOut frame clocked)[k]? = frame[k]?) ∧
      (frame.length ≤ k → (clockedOut frame clocked)[k]? = some 0#8)

/-- LINK RESET discards the answer and the overrun flag, at a console or the supervisor port empties the
queue and sets RESYNC, at a FAILED gateway makes the health ABSENT with an empty history, and while
RUNNING is journaled (R168). The model's own here: log entry 23. -/
def Obligations.LinkResetClearsThePort : Prop :=
  ∀ (p : Port) (s : State), ∃ t, exec (.linkReset p) s = .next t ∧
    (let h := beginTransaction s p .linkReset
     OnlyChanges [.ports, .queues, .journal, .horns, .attention] h t ∧
     t.ports = h.ports.set p { h.ports[p] with slot := none, overrun := false } ∧
     (s.dev = .running → LastEntry t .linkReset { port := some p }) ∧
     (∀ d, p = deskPort d → t.queue d = { entries := [], resync := true } ∧
       ∀ e, e ≠ d → t.queue e = h.queue e) ∧
     (∀ g, p = gatewayPort g → t.queues = h.queues ∧
       ((s.gateway g).health = .failed →
         (t.gateway g).health = .absent ∧ (t.gateway g).history = []) ∧
       ((s.gateway g).health ≠ .failed → (t.gateway g).health = (s.gateway g).health)))

/-- A frame is read back from its own bytes: whatever the kind, the tag and the body of at most 250
bytes, the SEND transaction of the frame is a sound one that carries them (R165, 11.6). -/
def Obligations.SentFrameIsReadBack : Prop :=
  ∀ (kind tag : Byte) (body : Body), body.length ≤ maxBody →
    parseTransaction (sendBytes kind tag body) = .send kind tag body

/-- A request command is the transaction of its frame's bytes, and each kind is the one its code names:
no request acts otherwise than its bytes on the wire (R165, R166, 11.7). The model's own here: log
entries 4 and 5, the second of which takes a BAD_FRAME command whose bytes are sound as the request they
carry. -/
def Obligations.RequestIsItsFrame : Prop :=
  (∀ k : Kind, kindOf k.code = some k) ∧
  ∀ (k : Kind) (p : Port) (tag : Byte) (body : Body) (s : State), body.length ≤ maxBody →
    exec (requestCommand k p tag body) s = exec (.badFrame p (sendBytes k.code tag body)) s

/-- What dispatch refuses, with no other effect (R166): at a gateway a request of the consoles and at a
console or the supervisor port one of the gateways, NO_PERMISSION; at a console port that is not
enabled, NO_PERMISSION; while the device is not RUNNING a request that is no configuration request,
NOT_RUNNING. With no session at its port an operator request of any kind, whose body passes the checks that
its rule makes before the session check, is refused NO_SESSION (R123). -/
def Obligations.DispatchRefuses : Prop :=
  (∀ (k : Kind) (p : Port) (tag : Byte) (body : Body) (s : State), body.length ≤ maxBody →
    (heardAt s p).deaf p = false → ((heardAt s p).port p).slot = none →
    let h := heardAt s p
    let gatewayKind := k = .channelReport ∨ k = .heartbeat
    let loadKind := k = .loadStart ∨ k = .configBlock ∨ k = .loadEnd ∨ k = .loadAbandon
    let refused := fun st => ∃ t, exec (requestCommand k p tag body) s = .next t ∧
      OnlyChanges answering h t ∧ Replied h t p k tag (refuse st)
    (∀ g, p = gatewayPort g → ¬gatewayKind → refused .noPermission) ∧
    (∀ d, p = deskPort d → gatewayKind → refused .noPermission) ∧
    (∀ d, p = deskPort d → ¬gatewayKind → h.enabled d = false → refused .noPermission) ∧
    (∀ d, p = deskPort d → ¬gatewayKind → h.enabled d = true → h.dev ≠ .running → ¬loadKind →
      refused .notRunning)) ∧
  (∀ (k : Kind) (d : Desk) (tag : Byte) (body : Body) (s : State), Taking s d →
    (s.desk d).session = none → body.length ≤ maxBody → reachesSession s d k body = true →
    ∃ t, exec (requestCommand k (deskPort d) tag body) s = .next t ∧
      OnlyChanges answering (heardAt s (deskPort d)) t ∧
      Replied (heardAt s (deskPort d)) t (deskPort d) k tag (refuse .noSession))

/-! ## The invariants -/

/-- Every command leaves the horn and attention lines at what the rules derive for them, and every step keeps
them so. Lines so settled are these. A console's horn is on while a point in UNACK_ACTIVE is routed to it, has
a priority at or below its floor, is not muted and was raised later than its silence mark (R106). The
supervisor's horn is on while its port is GOOD and a point is ESCALATED later than its mark, or is
UNACK_ACTIVE in an area that is COVERED or UNATTENDED, not muted and raised later than its mark (R107). Both
are off while the device is not RUNNING (R108). The attention line of ports 0 to 6 is asserted while the
answer slot is full, the RESYNC marker is set or the queue is not empty (R102); that of ports 7 and 8 while
the slot is full or REFRESH is set, and the health is not FAILED (R167). The model's own here: log entry
10. -/
def Obligations.EveryStepSettlesLines : Prop :=
  KeptByStep LinesSettled ∧
  (∀ (c : Instr) (s t : State), exec c s = .next t → LinesSettled t) ∧
  ∀ s : State, LinesSettled s →
    let laterThan := fun (serial mark : Word32) =>
      0 < (serial - mark).toNat ∧ (serial - mark).toNat < 2 ^ 31
    (∀ c : Console,
      let d := consoleDesk c
      (s.horns[d] = true ↔ s.dev = .running ∧ ∃ e ∈ s.points,
        let p := e.2
        p.state = .unackActive ∧ s.routed p.cfg.area p.escalated d = true ∧
        p.cfg.priority ≤ s.portCfg[d].hornFloor ∧ p.muted = false ∧
        laterThan p.raiseSerial (s.mark d))) ∧
    (s.horns[supervisor] = true ↔
      s.dev = .running ∧ (s.port (deskPort supervisor)).link = .good ∧ ∃ e ∈ s.points,
        let p := e.2
        let mark := s.mark supervisor
        (p.escalated = true ∧ ∃ serial, p.escSerial = some serial ∧ laterThan serial mark) ∨
        (p.state = .unackActive ∧
          (s.attendance p.cfg.area = some .covered ∨ s.attendance p.cfg.area = some .unattended) ∧
          p.muted = false ∧ laterThan p.raiseSerial mark)) ∧
    (∀ d : Desk, s.attention[deskPort d] = true ↔
      (s.port (deskPort d)).slot.isSome = true ∨ (s.queue d).resync = true ∨
      (s.queue d).entries ≠ []) ∧
    ∀ g : Gateway, s.attention[gatewayPort g] = true ↔
      ((s.port (gatewayPort g)).slot.isSome = true ∨ (s.gateway g).refresh = true) ∧
      (s.gateway g).health ≠ .failed

/-- Every step keeps queues, journal, counters and lists within what the part holds, and every queue in
class order with one POINT notice a point (R65, R97, R109, R110, R142). -/
def Obligations.EveryStepKeepsCapacity : Prop := KeptByStep WithinCapacity

/-- Every step keeps the attendance of every area as derived (R132). The derived attendance is ATTENDED when
the owner's console holds an ACTIVE or IDLE session under the owner's badge and its port is not SILENT;
else COVERED when the supervisor port holds an ACTIVE or IDLE session; else UNATTENDED (R131). -/
def Obligations.EveryStepDerivesAttendance : Prop :=
  KeptByStep AttendanceDerived ∧
  ∀ (owner : Option Party) (s : State),
    let holds := fun (d : Desk) (ofBadge : Badge → Prop) => ∃ x, (s.desk d).session = some x ∧
      (x.presence = .active ∨ x.presence = .idle) ∧ ofBadge x.badge
    let attended := ∃ p, owner = some p ∧ holds (consoleDesk p.console) (fun b => b = p.badge) ∧
      (s.port (deskPort (consoleDesk p.console))).link ≠ .silent
    let present := holds supervisor (fun _ => True)
    (attended → s.deriveAttendance owner = .attended) ∧
    (¬attended → present → s.deriveAttendance owner = .covered) ∧
    (¬attended → ¬present → s.deriveAttendance owner = .unattended)

/-- Every step keeps the FLOOD cause and the state of every record in agreement: no handover is in
OVERLAP while an area of it is FLOOD (R72, R157). -/
def Obligations.EveryStepHoldsFloodedRecords : Prop := KeptByStep HoldFollowsCauses

/-- Every step keeps every point sound: idle when OUT_OF_SERVICE, escalated only in UNACK_ACTIVE (R22,
R39, R53, R54); SHELVED and the shelve list in agreement, the list within 96 entries and no point twice
in it; and the list in the order of its expiries (R44), as time passes too while no entry comes to lie
more than 2^30 tenths past. -/
def Obligations.EveryStepKeepsPointsSound : Prop :=
  KeptByStep PointsSound ∧ KeptByStep ShelfAgrees ∧
  (∀ s t : State, ShelfInOrder s → ParamsInRange s → step s = .next t → t.elapsed = s.elapsed →
    ShelfInOrder t) ∧
  ∀ (n : Nat) (s t : State), ShelfInOrder s → exec (.timeReferenceTick n) s = .next t →
    (∀ e ∈ s.shelf, (((s.refCycles.val + n) / 100 : Nat) : Int) ≤ s.tenthsTo e.expiry + 2 ^ 30) →
    ShelfInOrder t

/-- Every step keeps the tables in strictly rising order of index, and the head of a group out of its
members (R57); a point SUPPRESSED only in ACK_ACTIVE and as a member of a group that is BLOCKING or
RELEASING (R61); and a device that is not RUNNING without points and with the raise serial counter at 0
(R104). -/
def Obligations.EveryStepKeepsTables : Prop :=
  KeptByStep TablesRise ∧ KeptByStep HeadsApart ∧ KeptByStep SuppressedBlocked ∧
  KeptByStep UnloadedIsBare

/-- Every step keeps a badge to at most one session, and every credential in the row of its badge, once
(R112, R113, R120). -/
def Obligations.EveryStepKeepsBadgesApart : Prop :=
  KeptByStep SessionsApart ∧ KeptByStep CredentialsPlaced

/-- Every step keeps the load thresholds in order and the load state of every defined area in agreement
with its load (R64, R71), and every parameter in its range (R176, R177, R179). The model's own here: log
entry 7, by which the parameters stand at their defaults after a reset. -/
def Obligations.EveryStepKeepsLoadsAgreeing : Prop :=
  KeptByStep LoadsAgree ∧ KeptByStep ParamsInRange

/-- The state after reset has every invariant. The model's own here: log entry 7, by which the thresholds
in order and the parameters in range at reset are the defaults. -/
def Obligations.ResetHasEveryInvariant : Prop :=
  LinesSettled State.reset ∧ WithinCapacity State.reset ∧ ShelfAgrees State.reset ∧
  AttendanceDerived State.reset ∧ HoldFollowsCauses State.reset ∧ TablesRise State.reset ∧
  SessionsApart State.reset ∧ CredentialsPlaced State.reset ∧ LoadsAgree State.reset ∧
  PointsSound State.reset ∧ HeadsApart State.reset ∧ ShelfInOrder State.reset ∧
  ParamsInRange State.reset ∧ SuppressedBlocked State.reset ∧ UnloadedIsBare State.reset

/-! ## Rules of one operation -/

/-- The condition of a point from a stored value (R10, R11, R12). -/
def Obligations.ConditionFollowsItsRule : Prop :=
  ∀ (c : PointCfg) (v : Word16) (previous : Condition) (lastKnown : Option Bool),
    let holds := fun b => (previous = .isTrue → b = true) ∧ (previous = .isFalse → b = false) ∧
      (∀ k, previous = .unknown → lastKnown = some k → b = k) ∧
      (previous = .unknown → lastKnown = none → b = false)
    let now := evaluate c v previous lastKnown
    let lower : Int := max (-32768) (c.limit.toInt - (c.deadband : Int))
    let upper : Int := min 32767 (c.limit.toInt + (c.deadband : Int))
    (c.kind = .high →
      (c.limit.toInt < v.toInt → now = true) ∧ (v.toInt ≤ lower → now = false) ∧
      (lower < v.toInt → v.toInt ≤ c.limit.toInt → holds now) ∧
      (c.deadband = 0 → v = c.limit → now = false) ∧
      (c.limit.toInt = 32767 → ¬c.limit.toInt < v.toInt)) ∧
    (c.kind = .low →
      (v.toInt < c.limit.toInt → now = true) ∧ (upper ≤ v.toInt → now = false) ∧
      (c.limit.toInt ≤ v.toInt → v.toInt < upper → holds now) ∧
      (c.deadband = 0 → v = c.limit → now = false) ∧
      (c.limit.toInt = -32768 → ¬v.toInt < c.limit.toInt)) ∧
    (c.kind = .on → (v = 1#16 → now = true) ∧ (v = 0#16 → now = false)) ∧
    (c.kind = .off → (v = 0#16 → now = true) ∧ (v = 1#16 → now = false))

/-- One evaluation of a load state takes it from the table of R71; under the orders of R64 the load and
the state then agree, and a second evaluation changes nothing. -/
def Obligations.LoadStateFollowsTable : Prop :=
  ∀ (s : State) (before : LoadState) (l : Nat),
    let be := s.param 6
    let bx := s.param 7
    let fe := s.param 8
    let fx := s.param 9
    let now := s.evalLoad before l
    (before = .calm → fe ≤ l → now = .flood) ∧
    (before = .calm → be ≤ l → l < fe → now = .busy) ∧
    (before = .calm → l < be → l < fe → now = .calm) ∧
    (before = .busy → fe ≤ l → now = .flood) ∧
    (before = .busy → l ≤ bx → l < fe → now = .calm) ∧
    (before = .busy → bx < l → l < fe → now = .busy) ∧
    (before = .flood → l ≤ fx → l ≤ bx → now = .calm) ∧
    (before = .flood → bx < l → l ≤ fx → now = .busy) ∧
    (before = .flood → fx < l → now = .flood) ∧
    (thresholdsOrdered s.params = true →
      s.evalLoad now l = now ∧ (now = .calm → l < be) ∧ (now = .busy → bx < l ∧ l < fe) ∧
      (now = .flood → fx < l))

/-- A notice reaches a queue: in place, at the end of its class, or at a full queue in the place of the
oldest entry of the least urgent class, or not at all; the queue stays legal (R98, R99, R100). -/
def Obligations.NoticeReachesQueue : Prop :=
  ∀ (capacity : Nat) (q : Queue) (n : Notice), 0 < capacity → QueueLegal capacity q →
    let t := q.push capacity n
    let placedIn := fun (l : List Notice) => ∃ pre post, l = pre ++ post ∧
      t.entries = pre ++ n :: post ∧ (∀ e ∈ pre, e.cls ≤ n.cls) ∧ (∀ e ∈ post, n.cls < e.cls)
    QueueLegal capacity t ∧
    (∀ pre e post, q.entries = pre ++ e :: post → sameSubject n e = true →
      t.resync = q.resync ∧ t.entries.length = q.entries.length ∧
      (e.cls = n.cls → t.entries = pre ++ n :: post) ∧
      (e.cls ≠ n.cls → placedIn (pre ++ post))) ∧
    ((∀ e ∈ q.entries, sameSubject n e = false) → q.entries.length < capacity →
      t.resync = q.resync ∧ placedIn q.entries) ∧
    ((∀ e ∈ q.entries, sameSubject n e = false) → q.entries.length = capacity →
      t.resync = true ∧
      ∃ pre e post, q.entries = pre ++ e :: post ∧ (∀ f ∈ q.entries, f.cls ≤ e.cls) ∧
        (∀ f ∈ pre, f.cls ≠ e.cls) ∧ (n.cls ≤ e.cls → placedIn (pre ++ post)) ∧
        (e.cls < n.cls → t.entries = q.entries))

/-- An entry arriving at the journal is appended, at a full journal in the place of the oldest, and the
gap count then rises by one up to 65535 (R110). -/
def Obligations.EntryReachesJournal : Prop :=
  ∀ (j : Journal) (e : JournalEntry),
    (j.entries.length < 256 → j.append e = { entries := j.entries ++ [e], gap := j.gap }) ∧
    (∀ oldest rest, j.entries = oldest :: rest → j.entries.length = 256 →
      (j.append e).entries = rest ++ [e] ∧
      (j.gap < 65535 → (j.append e).gap = j.gap + 1) ∧ (j.gap = 65535 → (j.append e).gap = 65535))

/-- A notice is one insertion into the queue of each port of its routing set; at a port that is enabled
but SILENT it sets the RESYNC marker instead, and at a disabled port it does nothing (R96). The routing
set of a POINT notice is the five items of R94. That of an AREA notice, of a SUMMARY notice, of a HANDOVER
notice beside the ports its rule names, and of a SESSION notice is R95's. A SYSTEM notice goes where its rule
has it: a TIME SET to every port (R83), a lockout and a change of a gateway to the supervisor port (R95,
R121, R169). Each has the class of R93. A change of a session that is handed on sends one SESSION notice
(R126). A change of a point that is handed on sends one POINT notice with the fields of R25, by that routing
set, in the class of its priority, unless the load meter withheld it, and tells the handover unit. -/
def Obligations.NoticeReachesItsPorts : Prop :=
  (∀ (s : State) (n : Notice) (names : Desk → Bool),
    OnlyChanges [.queues] s (deliver s n names) ∧
    (s.dev ≠ .running → (deliver s n names).queues = s.queues) ∧
    ∀ d, s.dev = .running →
      (names d = false ∨ s.enabled d = false → (deliver s n names).queue d = s.queue d) ∧
      (names d = true → s.enabled d = true → (s.port (deskPort d)).link = .good →
        (deliver s n names).queue d = (s.queue d).push (queueCapacity d) n) ∧
      (names d = true → s.enabled d = true → (s.port (deskPort d)).link = .silent →
        (deliver s n names).queue d = { s.queue d with resync := true })) ∧
  (∀ (a : Area) (escalated : Bool) (d : Desk) (s : State),
    let here := fun (p : Option Party) => ∃ x, p = some x ∧ consoleDesk x.console = d
    let present := ∃ x, (s.desk d).session = some x ∧ (x.presence = .active ∨ x.presence = .idle)
    (s.pointNames a escalated d = true ↔
      (s.attendance a = some .attended ∧ here (s.owner a)) ∨
      (∃ i r, s.record i = some r ∧ (r.state = .overlap ∨ r.state = .held) ∧
        inSet r.areas a = true ∧ here r.incoming) ∨
      (s.attendance a = some .covered ∧ d = supervisor) ∨
      (s.attendance a = some .unattended ∧
        (d = supervisor ∨ (s.reaches d a = true ∧ present))) ∨
      (escalated = true ∧ d = supervisor)) ∧
    (s.routed a escalated d = true ↔ s.pointNames a escalated d = true ∧ s.enabled d = true ∧
      (s.port (deskPort d)).link = .good) ∧
    (s.areaNames a d = s.pointNames a false d) ∧
    ∀ before, s.areaNoticeNames a before d = true ↔
      d = supervisor ∨ s.reaches d a = true ∨ here (s.owner a) ∨ here before ∨
      ∃ i r, s.record i = some r ∧ inSet r.areas a = true ∧ (here (some r.outgoing) ∨ here r.incoming)) ∧
  (∀ (a : Area) (before : Option Party) (r : AreaRecord) (s : State), s.area a = some r →
    let x := s.load a
    areaNotice s a before = deliver s
      { cls := 2, body := .area a r.nameIndex x.load x.state r.attendance r.owner }
      (s.areaNoticeNames a before) ∧
    summaryNotice s a = deliver s { cls := 3, body := .summary a x.count x.load x.state }
      (s.areaNames a)) ∧
  (∀ (b : HandoverBody) (names : Desk → Bool) (s : State), handoverNotice s b names =
    deliver s { cls := 2, body := .handover b } (fun d => names d || decide (d = supervisor))) ∧
  (∀ (d : Desk) (badge : Badge) (before now : Option Presence) (cause : Cause) (s : State),
    let names := fun (e : Desk) => e == d || e == supervisor
    let n : Notice := { cls := 2, body := .session d badge now cause }
    let told := sessionTold (rederive s cause 0#16 s) d badge now
    sessionNotice s d badge now cause = deliver s n names ∧
    (sessionChanged s d badge before now cause).queues = (deliver told n names).queues) ∧
  (∀ (old new : MillTime) (d : Desk) (s : State),
    timeSetNotice s old new = deliver s { cls := 1, body := .timeSet old new } (fun _ => true) ∧
    lockoutNotice s d new =
      deliver s { cls := 1, body := .lockout d new } (fun e => e == supervisor) ∧
    gatewayNotice s = deliver s
      { cls := 1, body := .gateways (s.gatewayView 0) (s.gatewayView 1) }
      (fun e => e == supervisor)) ∧
  ∀ (i : Nat) (p : Point) (c : Change) (s : State), s.point i = some p →
    let t := announce s i c
    let body : PointBody :=
      { point := i, area := p.cfg.area, priority := p.cfg.priority, state := p.state, occ := p.occ
        escalated := p.escalated, shelved := p.shelved, suppressed := p.suppressed
        badInput := p.badInput, chattering := p.chattering, muted := p.muted, noted := c.noted
        chatter := c.chatter, outOfService := !p.inService, raiseMill := p.stamp.map (·.mill)
        ack := p.ackRecord }
    (c.withheld = false → t.queues =
      (deliver s { cls := p.cfg.priority, body := .point body }
        (s.pointNames p.cfg.area p.escalated)).queues) ∧
    (c.withheld = true → t.queues = s.queues) ∧
    t.records = (handItems s i p c.fresh).records ∧ OnlyChanges [.queues, .records] s t

/-! ## Sessions and credentials -/

/-- A LOGIN with a right badge and check value, at a port without a session or lockout, opens the
session and empties the failure history (R120). The model's own here: log entries 23 and 36, the second of
which sends the areas owned as an area set. -/
def Obligations.LoginOpensSession : Prop :=
  ∀ (d : Desk) (tag : Byte) (b3 b2 b1 b0 c1 c0 : Byte) (c : Credential) (s : State),
    Taking s d → (s.desk d).session = none → (s.desk d).lockout = none →
    s.credential (read32 b3 b2 b1 b0) = some c → c.badge = read32 b3 b2 b1 b0 →
    c.check = read16 c1 c0 → s.sessionOf c.badge = none →
    (d = supervisor → s.roles[c.role].holds .supervise = true) →
    ∃ t, exec (.login (deskPort d) tag [b3, b2, b1, b0, c1, c0]) s = .next t ∧
      (let h := heardAt s (deskPort d)
       t.desk d =
         { session := some
             { presence := .active, badge := c.badge, role := c.role, loginMill := s.mill
               lastInteraction := s.elapsed
               idleExpiry := after s.elapsed (10 * s.portCfg[d].idleLimit)
               absentExpiry := after s.elapsed (10 * s.portCfg[d].absentLimit) }
           failures := [], lockout := none } ∧
       OtherDesksSame s t d ∧ OwnersSame s t ∧
       LastEntry t .login
         { port := some (deskPort d), badge := some c.badge
           detail := detail4 0#8 1#8 0#8 0#8 } ∧
       Replied h t (deskPort d) .login tag
         (done [] ([byte c.role, s.roles[c.role].rights] ++ s.roles[c.role].perms.toList ++
           be16 (s.ownedBy d c.badge))) ∧
       OnlyChanges (answering ++ [.desks, .map, .queues, .journal]) h t)

/-- A LOGIN with an unknown badge or a wrong check value is refused BAD_CREDENTIAL and recorded; the
third failure within 300 s locks the port for 120 s; while locked it is refused LOCKED_OUT (R120, R121).
The model's own here: log entry 23. -/
def Obligations.LoginFailuresLockPort : Prop :=
  (∀ (d : Desk) (tag : Byte) (b3 b2 b1 b0 c1 c0 : Byte) (s : State),
    Taking s d → (s.desk d).session = none → (s.desk d).lockout = none →
    (∀ c, s.credential (read32 b3 b2 b1 b0) = some c → c.check ≠ read16 c1 c0) →
    ∃ t, exec (.login (deskPort d) tag [b3, b2, b1, b0, c1, c0]) s = .next t ∧
      (let h := heardAt s (deskPort d)
       let failures := (s.desk d).failures.filter (fun f => age s.elapsed f < 3000) ++ [s.elapsed]
       let locks := decide (3 ≤ failures.length)
       t.desk d =
         { session := none, failures := failures
           lockout := if locks then some (after s.elapsed 1200) else none } ∧
       OtherDesksSame s t d ∧
       (locks = false →
         LastEntry t .loginFailed
           { port := some (deskPort d), badge := some (read32 b3 b2 b1 b0)
             detail := detail4 (byte failures.length) 0 0 0 } ∧ t.queues = h.queues) ∧
       (locks = true → LastEntry t .lockout { port := some (deskPort d) } ∧
         t.queues = (lockoutNotice h d (after s.elapsed 1200 + s.offset)).queues) ∧
       Replied h t (deskPort d) .login tag
         { status := .badCredential, inds := [locks], reason := none
           detail := num16 failures.length } ∧
       OnlyChanges (answering ++ [.desks, .queues, .journal]) h t)) ∧
  (∀ (d : Desk) (tag : Byte) (b3 b2 b1 b0 c1 c0 : Byte) (e : Time) (s : State),
    Taking s d → (s.desk d).session = none → (s.desk d).lockout = some e →
    ∃ t, exec (.login (deskPort d) tag [b3, b2, b1, b0, c1, c0]) s = .next t ∧
      (let h := heardAt s (deskPort d)
       Replied h t (deskPort d) .login tag
         { refuse .lockedOut with detail := num32 ((remaining s.elapsed e + 9) / 10) } ∧
       OnlyChanges answering h t))

/-- LOGOUT ends the session of its port, which owns no area and is no party of a handover (R125); END
SESSION of the supervisor ends the session of a console (R128). The model's own here: log entry 23. -/
def Obligations.LogoutAndEndSessionEndIt : Prop :=
  (∀ (d : Desk) (tag : Byte) (x : Session) (s : State), Operator s d x →
    let s1 := actingAt s d
    s1.ownedBy d x.badge = 0#16 → s1.inHandover d x.badge = false →
    ∃ t, exec (.logout (deskPort d) tag []) s = .next t ∧
      t.desk d = { s1.desk d with session := none } ∧ OtherDesksSame s1 t d ∧ OwnersSame s1 t ∧
      LastEntry t .logout
        { port := some (deskPort d), badge := some x.badge, detail := detail4 1#8 0#8 4#8 0#8 } ∧
      Replied s1 t (deskPort d) .logout tag (done [] []) ∧
      OnlyChanges (answering ++ [.desks, .map, .queues, .journal]) s1 t) ∧
  (∀ (c : Console) (b tag : Byte) (x y : Session) (s : State), Supervisor s x .supervise →
    consoleOf b = some c → (s.desk (consoleDesk c)).session = some y →
    let s1 := actingAt s supervisor
    ∃ t, exec (.endSession (deskPort supervisor) tag [b]) s = .next t ∧
      t.desk (consoleDesk c) = { s1.desk (consoleDesk c) with session := none } ∧
      OtherDesksSame s1 t (consoleDesk c) ∧
      LastEntry t .sessionEnd
        { port := some (deskPort (consoleDesk c)), badge := some y.badge
          detail := detail4 (presenceCode (some y.presence)) 0#8 5#8 0#8 } ∧
      Replied s1 t (deskPort supervisor) .endSession tag (done [] (b :: be32 y.badge)) ∧
      OnlyChanges (answering ++ [.desks, .map, .records, .queues, .journal]) s1 t)

/-- PRESENT, QUERY LIST, QUERY ITEMS and HEARTBEAT answer from the state and change nothing but the
answer slot and, for the first three, what their interaction changes (R103, R123, R156, R166). The
model's own here: log entries 11 and 12. -/
def Obligations.QueriesOnlyAnswer : Prop :=
  (∀ (d : Desk) (tag : Byte) (x : Session) (s : State), Operator s d x →
    ∃ t, exec (.present (deskPort d) tag []) s = .next t ∧
      Replied (actingAt s d) t (deskPort d) .present tag (done [] (1#8 :: be32 x.loginMill)) ∧
      OnlyChanges answering (actingAt s d) t) ∧
  (∀ (d : Desk) (b f1 f0 tag : Byte) (a : Area) (x : Session) (s : State), Operator s d x →
    let first := (read16 f1 f0).toNat
    let s1 := actingAt s d
    s.definedArea b = some a → first < 2048 → (s.roleOf x).permits .view a = true →
    (s.reaches d a || isParty d (s.owner a)) = true →
    ∃ t, exec (.queryList (deskPort d) tag [b, f1, f0]) s = .next t ∧
      (let found := (s.points.filter (fun e => e.2.cfg.area == a && e.2.listable)).filter
        (fun e => first ≤ e.1)
       let listed := found.take 8
       let next := if found.length ≤ 8 then none else listed.getLast?.map (fun e => e.1 + 1)
       Replied s1 t (deskPort d) .queryList tag
         (done [] (byte listed.length ::
           (listed.flatMap (fun e => (e.2.listedBody e.1).bytes) ++ pointField next)))) ∧
      OnlyChanges answering s1 t) ∧
  (∀ (d : Desk) (b n1 n0 f tag : Byte) (i : RecordIdx) (r : Record) (x : Session) (s : State),
    Operator s d x →
    let s1 := actingAt s d
    recordOf b = some i → s1.record i = some r → r.number = read16 n1 n0 →
    (r.names d || d == supervisor) = true →
    ∃ t, exec (.queryItems (deskPort d) tag [b, n1, n0, f]) s = .next t ∧
      (let shown := (r.items.drop f.toNat).take 8
       Replied s1 t (deskPort d) .queryItems tag
        (done [r.coSigned.isSome, r.incomplete]
          ([handoverCode (some r.state), causesByte r.flood r.outgoingLost] ++
            num16 r.items.length ++ num16 (r.items.filter (·.status == .isOpen)).length ++
            num32 (s1.overlap r / 10) ++ [byte shown.length] ++ itemsBytes f.toNat shown ++
            [byte (f.toNat + shown.length)]))) ∧
      OnlyChanges answering s1 t) ∧
  (∀ (g : Gateway) (tag : Byte) (s : State),
    let p := gatewayPort g
    let h := heardAt s p
    (h.gateway g).health ≠ .failed → (h.port p).slot = none →
    ∃ t, exec (.heartbeat p tag []) s = .next t ∧
      Replied h t p .heartbeat tag
        (done [(h.gateway g).refresh] [(h.gateway g).role.code, (h.gateway g).health.code]) ∧
      OnlyChanges answering h t)

/-- A GRANT that is taken writes a TEMPORARY credential in the row of its badge, the lifetime clamped to
60..86400 s, in the way that holds the badge or in the lowest free way; a full row is refused ROW_FULL
(R112, R113, R116). The model's own here: log entries 11 and 23. -/
def Obligations.GrantWritesCredential : Prop :=
  ∀ (d : Desk) (b3 b2 b1 b0 c1 c0 r l3 l2 l1 l0 tag : Byte) (role : Fin 8) (x : Session) (s : State),
    Operator s d x →
    let badge := read32 b3 b2 b1 b0
    let asked := (read32 l3 l2 l1 l0).toNat
    let life := max 60 (min 86400 asked)
    let s1 := actingAt s d
    let row := s.creds[rowOf badge]
    roleIdx r = some role → badge ≠ 0#32 → (s.roleOf x).holds .grant = true →
    s.roles[role].rights &&& ~~~(s.roleOf x).rights = 0#8 →
    (∀ c, s.credential badge = some c → c.temporary.isSome = true) → s1.sessionOf badge = none →
    let taken := fun (w : Fin 4) (replaced : Bool) =>
      ∃ t, exec (.grant (deskPort d) tag [b3, b2, b1, b0, c1, c0, r, l3, l2, l1, l0]) s = .next t ∧
        t.creds = s.creds.set (rowOf badge) (row.set w (some
          { badge := badge, check := read16 c1 c0, role := role
            temporary := some (after s.elapsed (10 * life), x.badge) })) ∧
        (∀ b, b ≠ badge → t.credential b = s.credential b) ∧
        LastEntry t .grant
          { port := some (deskPort d), badge := some badge
            detail := detailFlag r replaced ((life + 59) / 60) } ∧
        Replied s1 t (deskPort d) .grant tag
          (done [life != asked, replaced]
            (be32 badge ++ [byte (rowOf badge)] ++ num32 life ++
              be32 (after s.elapsed (10 * life) + s.offset))) ∧
        OnlyChanges (answering ++ [.creds, .journal]) s1 t
    (∀ w, wayOf row badge = some w → taken w true) ∧
    (∀ w, wayOf row badge = none → freeWay row = some w → taken w false) ∧
    (wayOf row badge = none → freeWay row = none →
      ∃ t, exec (.grant (deskPort d) tag [b3, b2, b1, b0, c1, c0, r, l3, l2, l1, l0]) s = .next t ∧
        Replied s1 t (deskPort d) .grant tag (refuse .rowFull) ∧ OnlyChanges answering s1 t)

/-- REVOKE and the expiry of a TEMPORARY credential free its way, leave every other credential, and end
the session its badge holds (R117, R118). The model's own here: log entries 3 and 23. -/
def Obligations.CredentialRemovedWithItsSession : Prop :=
  let removed := fun (badge : Badge) (s t : State) =>
    (∃ w, wayOf s.creds[rowOf badge] badge = some w ∧
      t.creds = s.creds.set (rowOf badge) (s.creds[rowOf badge].set w none)) ∧
    (s.sessionOf badge = none → t.desks = s.desks ∧ t.records = s.records ∧ t.map = s.map ∧
      t.queues = s.queues) ∧
    (∀ e, s.sessionOf badge = some e →
      t.desk e = { s.desk e with session := none } ∧ OtherDesksSame s t e ∧
      (s.dev = .running → ∃ p, LastEntry t .sessionEnd
        { port := some (deskPort e), badge := some badge, detail := detail4 p 0#8 6#8 0#8 }))
  (∀ (d : Desk) (b3 b2 b1 b0 tag : Byte) (c : Credential) (e : Time) (issuer : Badge) (x : Session)
      (s : State), Operator s d x →
    let badge := read32 b3 b2 b1 b0
    let s1 := actingAt s d
    (s.roleOf x).holds .grant = true → s.credential badge = some c →
    c.temporary = some (e, issuer) →
    ∃ t, exec (.revoke (deskPort d) tag [b3, b2, b1, b0]) s = .next t ∧ removed badge s1 t ∧
      (s1.sessionOf badge = none →
        LastEntry t .revoke { port := some (deskPort d), badge := some badge, detail := issuer }) ∧
      Replied s1 t (deskPort d) .revoke tag
        (done [(s1.sessionOf badge).isSome]
          (be32 badge ++ [portByte ((s1.sessionOf badge).map (·.val))])) ∧
      OnlyChanges (answering ++ [.creds, .desks, .map, .records, .queues, .journal]) s1 t) ∧
  (∀ (badge : Badge) (c : Credential) (e : Time) (issuer : Badge) (s : State),
    s.credential badge = some c → c.temporary = some (e, issuer) → reached s.elapsed e = true →
    ∃ t, exec (.credentialExpired badge) s = .next t ∧ removed badge s t ∧
      (s.dev = .running → s.sessionOf badge = none →
        LastEntry t .credentialExpired { badge := some badge, detail := issuer }) ∧
      OnlyChanges [.creds, .desks, .map, .records, .queues, .journal, .horns, .attention] s t)

/-- An ACTIVE session becomes IDLE when its idle expiry is reached, and an IDLE one ABSENT when its
absent expiry is reached; the owner keeps its areas (R124). An interaction sets the session's last
interaction and both expiries from its port's limits and makes it ACTIVE; a session that was ACTIVE
hands nothing on, another is journaled with cause INTERACTION (R123, R126). The model's own here: log
entries 3 and 23. -/
def Obligations.SessionsFade : Prop :=
  (∀ (d : Desk) (x : Session) (s : State), (s.desk d).session = some x →
    let fades := fun (command : Instr) (dest : Presence) (cause : Byte) =>
      ∃ t, exec command s = .next t ∧
        t.desk d = { s.desk d with session := some { x with presence := dest } } ∧
        OtherDesksSame s t d ∧ OwnersSame s t ∧
        (s.dev = .running → LastEntry t .sessionState
          { port := some (deskPort d), badge := some x.badge
            detail := detail4 (presenceCode (some x.presence)) (presenceCode (some dest)) cause 0#8 }) ∧
        OnlyChanges [.desks, .map, .records, .queues, .journal, .horns, .attention] s t
    (x.presence = .active → reached s.elapsed x.idleExpiry = true → fades (.idleExpiry d) .idle 2#8) ∧
    (x.presence = .idle → reached s.elapsed x.absentExpiry = true → fades (.absentExpiry d) .absent 3#8)) ∧
  (∀ (d : Desk) (x : Session) (s : State), (s.desk d).session = some x →
    let h := heardAt s (deskPort d)
    let t := actingAt s d
    let touched : Session :=
      { x with
        presence := .active, lastInteraction := s.elapsed
        idleExpiry := after s.elapsed (10 * s.portCfg[d].idleLimit)
        absentExpiry := after s.elapsed (10 * s.portCfg[d].absentLimit) }
    t.desk d = { s.desk d with session := some touched } ∧
    OtherDesksSame s t d ∧ OwnersSame s t ∧
    (x.presence = .active → OnlyChanges [.desks] h t) ∧
    (x.presence ≠ .active →
      (∀ a r, t.area a = some r → r.attendance = t.deriveAttendance r.owner) ∧
      (s.dev = .running → LastEntry t .sessionState
        { port := some (deskPort d), badge := some x.badge
          detail := detail4 (presenceCode (some x.presence)) 1#8 1#8 0#8 }) ∧
      t.records = h.records ∧ OnlyChanges [.desks, .map, .queues, .journal] h t)) ∧
  ∀ (d : Desk) (s : State), (s.desk d).session = none → actingAt s d = heardAt s (deskPort d)

/-- When the elapsed time reaches a port's lockout expiry, the lockout goes and the failure history is
emptied; nothing is journaled (R122). The model's own here: log entry 3. -/
def Obligations.LockoutExpires : Prop :=
  ∀ (d : Desk) (e : Time) (s : State), (s.desk d).lockout = some e → reached s.elapsed e = true →
    ∃ t, exec (.lockoutExpiry d) s = .next t ∧
      t.desk d = { s.desk d with failures := [], lockout := none } ∧ OtherDesksSame s t d ∧
      t.journal = s.journal ∧ OnlyChanges [.desks, .horns, .attention] s t

/-! ## Alarms, shelving and service -/

/-- ACK POINT acknowledges an unacknowledged point (R34, R35): UNACK_ACTIVE becomes ACK_ACTIVE,
UNACK_RETURNED becomes LATCHED for a LATCHING point and NORMAL otherwise; the ack record is written and
the escalation cleared. RESET POINT makes a LATCHED point NORMAL and changes no other field of it (R42).
The model's own here: log entries 23 and 37, by the second of which the entry of an ACK POINT holds the new
state. -/
def Obligations.AckAndResetMovePoint : Prop :=
  (∀ (d : Desk) (p1 p0 o1 o0 tag : Byte) (x : Session) (p : Point) (s : State),
    let i := (read16 p1 p0).toNat
    let s1 := actingAt s d
    MayActOn s d x .ack i p → p.occ = read16 o1 o0 →
    (p.state = .unackActive ∨ p.state = .unackReturned) →
    ∃ t, exec (.ackPoint (deskPort d) tag [p1, p0, o1, o0]) s = .next t ∧
      (let state := if p.state = .unackActive then .ackActive
        else if p.cfg.mode = .latching then .latched else .normal
       t.point i = some
         { p with
           state := state, acked := true
           ackRecord := some { badge := x.badge, desk := d, mill := s.mill }
           escalated := false, escSerial := none } ∧
       OtherPointsSame s t i ∧
       LastEntry t .ack
         { port := some (deskPort d), badge := some x.badge, area := some p.cfg.area
           point := some i, occ := p.occ, detail := detail4 (AlarmState.code state) 0 0 0 } ∧
       Replied s1 t (deskPort d) .ackPoint tag
         (done [] (num16 i ++ be16 p.occ ++ [AlarmState.code state])) ∧
       OnlyChanges (answering ++ [.points, .records, .queues, .journal]) s1 t)) ∧
  ∀ (d : Desk) (p1 p0 tag : Byte) (x : Session) (p : Point) (s : State),
    let i := (read16 p1 p0).toNat
    let s1 := actingAt s d
    MayActOn s d x .ack i p → p.state = .latched →
    ∃ t, exec (.resetPoint (deskPort d) tag [p1, p0]) s = .next t ∧
      t.point i = some { p with state := .normal } ∧ OtherPointsSame s t i ∧
      LastEntry t .reset
        { port := some (deskPort d), badge := some x.badge, area := some p.cfg.area
          point := some i, occ := p.occ } ∧
      Replied s1 t (deskPort d) .resetPoint tag (done [] (num16 i ++ be16 p.occ)) ∧
      OnlyChanges (answering ++ [.points, .records, .queues, .journal]) s1 t

/-- ACK AREA acknowledges every unacknowledged point of the area that was raised at or before the seen-
up-to time and is routed to the port, and no other, with one journal entry (R40). The model's own here:
log entry 23. -/
def Obligations.AckAreaAcknowledgesSeenPoints : Prop :=
  ∀ (d : Desk) (b t3 t2 t1 t0 tag : Byte) (a : Area) (x : Session) (s : State), Operator s d x →
    let seen := read32 t3 t2 t1 t0
    let s1 := actingAt s d
    let ack : AckRecord := { badge := x.badge, desk := d, mill := s.mill }
    s.definedArea b = some a → (s.roleOf x).permits .ack a = true → s1.entitled d a = true →
    TablesRise s →
    ∃ t, exec (.ackArea (deskPort d) tag [b, t3, t2, t1, t0]) s = .next t ∧
      (∀ i p, s.point i = some p →
        (s1.ackable d a seen p = true → t.point i = some (p.acknowledged ack)) ∧
        (s1.ackable d a seen p = false → t.point i = some p)) ∧
      (∀ i, s.point i = none → t.point i = none) ∧
      (let count := (s.points.filter (fun e => s1.ackable d a seen e.2)).length
       LastEntry t .ackArea
         { port := some (deskPort d), badge := some x.badge, area := some a
           occ := BitVec.ofNat 16 count, detail := seen } ∧
       Replied s1 t (deskPort d) .ackArea tag (done [] (num16 count))) ∧
      OnlyChanges (answering ++ [.points, .records, .queues, .journal]) s1 t

/-- SILENCE sets the port's silence mark to the serial counter (R105); READ JOURNAL takes the oldest
entries, up to the number asked, and clears the gap count (R111). The model's own here: log entries 11
and 23. -/
def Obligations.SilenceAndReadJournal : Prop :=
  (∀ (d : Desk) (tag : Byte) (x : Session) (s : State), Operator s d x →
    let s1 := actingAt s d
    ∃ t, exec (.silence (deskPort d) tag []) s = .next t ∧
      t.mark d = s.serial ∧ (∀ e, e ≠ d → t.mark e = s.mark e) ∧
      LastEntry t .silence { port := some (deskPort d), badge := some x.badge, detail := s.serial } ∧
      Replied s1 t (deskPort d) .silence tag (done [] (be32 s.serial)) ∧
      OnlyChanges (answering ++ [.marks, .journal]) s1 t) ∧
  ∀ (n tag : Byte) (x : Session) (s : State), Supervisor s x .supervise →
    1 ≤ n.toNat → n.toNat ≤ 8 →
    let s1 := actingAt s supervisor
    let taken := s1.journal.entries.take n.toNat
    let left := s1.journal.entries.drop n.toNat
    ∃ t, exec (.readJournal (deskPort supervisor) tag [n]) s = .next t ∧
      t.journal = { entries := left, gap := 0 } ∧
      Replied s1 t (deskPort supervisor) .readJournal tag
        (done [] (byte taken.length :: (taken.flatMap JournalEntry.bytes ++ num16 taken.length ++
          num16 left.length ++ num16 s1.journal.gap))) ∧
      OnlyChanges (answering ++ [.journal]) s1 t

/-- A SHELVE that is taken places one entry for the point, its duration clamped to the maximum of the
priority; a point that was not SHELVED becomes so, an active alarm acknowledged with it and a returned
or latched one NORMAL; a point that was SHELVED keeps every field (R45, R46, R47, R48). The entry stands
behind those whose expiry is at or before its own, in the place of any earlier one of its point (R44).
The model's own here: log entry 23. -/
def Obligations.ShelvePlacesEntry : Prop :=
  ∀ (d : Desk) (p1 p0 t3 t2 t1 t0 reason tag : Byte) (x : Session) (p : Point) (s : State),
    let i := (read16 p1 p0).toNat
    let s1 := actingAt s d
    let asked := (read32 t3 t2 t1 t0).toNat
    let most := s.maxShelve p.cfg.priority
    let seconds := min asked most
    let entry : ShelveEntry :=
      { point := i, badge := x.badge, desk := d, expiry := after s.elapsed (10 * seconds)
        reason := reason }
    MayActOn s d x .shelve i p → asked ≠ 0 → 0 < most → p.inService = true →
    (p.shelved = false → s.shelf.length < 96) →
    ∃ t, exec (.shelve (deskPort d) tag [p1, p0, t3, t2, t1, t0, reason]) s = .next t ∧
      (p.shelved = true → t.points = s.points) ∧
      (p.shelved = false → p.state = .unackActive → t.point i = some
        { p with
          state := .ackActive, acked := true, shelved := true
          ackRecord := some { badge := x.badge, desk := d, mill := s.mill }
          escalated := false, escSerial := none }) ∧
      (p.shelved = false → (p.state = .unackReturned ∨ p.state = .latched) →
        t.point i = some { p with state := .normal, shelved := true }) ∧
      (p.shelved = false → (p.state = .ackActive ∨ p.state = .normal) →
        t.point i = some { p with shelved := true }) ∧
      OtherPointsSame s t i ∧
      entry ∈ t.shelf ∧ (∀ e ∈ t.shelf, e.point = i → e = entry) ∧
      (∀ e, e.point ≠ i → (e ∈ t.shelf ↔ e ∈ s.shelf)) ∧
      (∃ pre post, t.shelf = pre ++ entry :: post ∧
        pre ++ post = s.shelf.filter (fun e => e.point != i) ∧
        (∀ e ∈ pre, atOrBefore e.expiry entry.expiry = true) ∧
        ∀ f, post.head? = some f → atOrBefore f.expiry entry.expiry = false) ∧
      LastEntry t .shelve
        { port := some (deskPort d), badge := some x.badge, area := some p.cfg.area
          point := some i, occ := p.occ, detail := detailFlag reason p.shelved seconds } ∧
      Replied s1 t (deskPort d) .shelve tag
        (done [seconds != asked]
          (pointDetail t i ++ num32 seconds ++ be32 (after s.elapsed (10 * seconds) + s.offset) ++
            num16 t.shelf.length)) ∧
      OnlyChanges (answering ++ [.points, .shelf, .records, .queues, .journal]) s1 t

/-- UNSHELVE, and the expiry of the first entry of the shelve list, end the shelving of a point: its
entry goes and SHELVED clears; the point is then raised afresh when its condition and its delivered
condition are TRUE and it is not SUPPRESSED (R49, R50, R51). With the condition FALSE the
pending RETURN of a point in ACK_ACTIVE is marked as the one of which R49 speaks. The model's own
here: log entries 3, 14 and 23; 34, which has that mark; and 35, by which a folded raise keeps an acknowledgement. -/
def Obligations.ShelvingEnds : Prop :=
  let ended := fun (s t : State) (i : Nat) (p : Point) =>
    (∀ e, e ∈ t.shelf ↔ e ∈ s.shelf ∧ e.point ≠ i) ∧
    (¬(p.cond = .isTrue ∧ p.delivered = true ∧ p.suppressed = false) →
      t.point i = some
        { p with
          shelved := false
          pendingPart :=
            if p.cond = .isFalse ∧ p.state = .ackActive then
              p.pendingPart.map (fun x => { x with afterShelving := true })
            else p.pendingPart } ∧
      OtherPointsSame s t i ∧ t.serial = s.serial ∧ t.loads = s.loads ∧ t.groups = s.groups) ∧
    (p.cond = .isTrue ∧ p.delivered = true ∧ p.suppressed = false →
      RaiseTaken s t i { p with shelved := false } s.elapsed)
  (∀ (d : Desk) (p1 p0 tag : Byte) (x : Session) (p : Point) (e : ShelveEntry) (s : State),
    let i := (read16 p1 p0).toNat
    let s1 := actingAt s d
    MayActOn s d x .shelve i p → s.shelf.find? (·.point == i) = some e →
    ∃ t, exec (.unshelve (deskPort d) tag [p1, p0]) s = .next t ∧ ended s1 t i p ∧
      Replied s1 t (deskPort d) .unshelve tag (done [] (pointDetail t i)) ∧
      (t.loads = s.loads → LastEntry t .unshelve
        { port := some (deskPort d), badge := some x.badge, area := some p.cfg.area
          point := some i, occ := p.occ
          detail := detail24 e.reason (remaining s.elapsed e.expiry / 10) }) ∧
      OnlyChanges (answering ++
        [.points, .shelf, .serial, .groups, .loads, .records, .queues, .journal]) s1 t) ∧
  ∀ (e : ShelveEntry) (rest : List ShelveEntry) (p : Point) (s : State),
    s.shelf = e :: rest → reached s.elapsed e.expiry = true → s.point e.point = some p →
    ∃ t, exec .shelveExpiry s = .next t ∧ ended s t e.point p ∧
      (s.dev = .running → t.loads = s.loads → LastEntry t .shelveExpired
        { port := some (deskPort e.desk), badge := some e.badge, point := some e.point
          occ := p.occ, detail := detail4 e.reason 0#8 0#8 0#8 }) ∧
      OnlyChanges [.points, .shelf, .serial, .groups, .loads, .records, .queues, .journal, .horns,
        .attention] s t

/-- SET OUT OF SERVICE takes a point out: NORMAL, its flags, delays and shelve entry cleared, its group
told when it was an active head; RETURN TO SERVICE brings it back, and a TRUE condition is delivered as
a raise (R18, R54, R55). The model's own here: log entries 14 and 23; 16 and 17, by which a release delay
of 0 makes the group OPEN in the same command, with a further event owed to each SUPPRESSED member in member
order; and 35, by which a folded raise keeps an acknowledgement. -/
def Obligations.ServiceIsSet : Prop :=
  (∀ (d : Desk) (p1 p0 reason tag : Byte) (x : Session) (p : Point) (s : State),
    let i := (read16 p1 p0).toNat
    let s1 := actingAt s d
    let q : Point :=
      { p with
        inService := false, pendingPart := none, delivered := false, state := .normal
        escalated := false, shelved := false, suppressed := false, chattering := false
        escSerial := none, chatterCount := 0, foldSince := false, muted := false }
    MayActOn s d x .service i p → p.inService = true →
    ∃ t, exec (.setOutOfService (deskPort d) tag [p1, p0, reason]) s = .next t ∧
      t.point i = some q ∧ OnlyReleases s t i ∧ HeadHasFallen s t i p q ∧
      (∀ e, e ∈ t.shelf ↔ e ∈ s.shelf ∧ e.point ≠ i) ∧
      LastEntry t .outOfService
        { port := some (deskPort d), badge := some x.badge, area := some p.cfg.area
          point := some i, occ := p.occ
          detail := detail4 reason p.state.code (if p.shelved then 0x80#8 else 0#8) 0#8 } ∧
      Replied s1 t (deskPort d) .setOutOfService tag (done [] (num16 i ++ be16 p.occ ++ [0#8])) ∧
      OnlyChanges (answering ++ [.points, .shelf, .groups, .records, .queues, .journal]) s1 t) ∧
  ∀ (d : Desk) (p1 p0 tag : Byte) (x : Session) (p : Point) (s : State),
    let i := (read16 p1 p0).toNat
    let s1 := actingAt s d
    MayActOn s d x .service i p → p.inService = false → PointsSound s →
    ∃ t, exec (.returnToService (deskPort d) tag [p1, p0]) s = .next t ∧
      (p.cond ≠ .isTrue →
        t.point i = some { p with inService := true } ∧ OtherPointsSame s t i ∧
        t.groups = s.groups ∧
        LastEntry t .inService
          { port := some (deskPort d), badge := some x.badge, area := some p.cfg.area
            point := some i, occ := p.occ }) ∧
      (p.cond = .isTrue → RaiseTaken s1 t i { p with inService := true, delivered := true } s.elapsed) ∧
      Replied s1 t (deskPort d) .returnToService tag (done [] (pointDetail t i)) ∧
      OnlyChanges (answering ++ [.points, .serial, .groups, .loads, .records, .queues, .journal]) s1 t

/-- When the elapsed time reaches a point's pending expiry, the pending part goes and its event is
delivered, at the expiry time: a RAISE is taken as a raise, a RETURN as a return (R14, R20, R26, R33). The
RETURN that stood when shelving ended with the condition FALSE takes an acknowledged LATCHING point in
ACK_ACTIVE to LATCHED (R33) or to NORMAL (R49), as a free value has it.
The model's own here: log entry 3; 16 and 17, by which a release delay of 0 makes the group OPEN in the same
command, with a further event owed to each SUPPRESSED member in member order; 34, which
leaves open which of R33 and R49 is followed there; and 35, by which a folded raise keeps an acknowledgement. -/
def Obligations.PendingPartDelivers : Prop :=
  ∀ (i : Nat) (p : Point) (part : PendingPart) (s : State), s.point i = some p →
    p.pendingPart = some part → reached s.elapsed part.expiry = true →
    ∃ t, exec (.pendingExpiry i) s = .next t ∧
      (part.raise = true →
        RaiseTaken s t i { p with pendingPart := none, delivered := true } part.expiry) ∧
      (part.raise = false →
        HeadsApart s →
        let state :=
          if p.state = .unackActive then
            if p.cfg.mode = .standard ∨ p.cfg.mode = .latching then .unackReturned else .normal
          else if p.state = .ackActive then
            if p.cfg.mode = .latching ∧ p.acked = true ∧ p.suppressed = false ∧ p.shelved = false ∧
                ¬(part.afterShelving = true ∧ Config.normalAfterShelving = true) then
              .latched
            else .normal
          else p.state
        let q : Point :=
          { p with
            pendingPart := none, delivered := false, state := state
            lastReturn := some part.expiry, escalated := false, escSerial := none
            suppressed := p.suppressed && p.state != .ackActive }
        t.point i = some q ∧ OnlyReleases s t i ∧ HeadHasFallen s t i p q ∧ t.serial = s.serial ∧
        t.loads = s.loads ∧ t.journal = s.journal) ∧
      OnlyChanges [.points, .serial, .groups, .loads, .records, .queues, .journal, .horns,
        .attention] s t

/-- When a RELEASING group's release expiry is reached the group is OPEN, its SUPPRESSED members have
the flag cleared and a further event is owed to each (R59, R60); that event raises the member afresh
when its condition and delivered condition are TRUE and it is neither SHELVED nor OUT_OF_SERVICE (R60).
The model's own here: log entries 3, 16 and 35. -/
def Obligations.GroupReleases : Prop :=
  (∀ (g : GroupIdx) (x : Group) (e : Time) (s : State), s.group g = some x → x.state = .releasing →
    x.expiry = some e → reached s.elapsed e = true →
    ∃ t, exec (.releaseExpiry g) s = .next t ∧
      t.group g = some
        { x with
          state := .isOpen, expiry := none
          owed := x.owed ++ x.members.filter (fun m => (s.point m).any (·.suppressed)) } ∧
      (∀ h, h ≠ g → t.group h = s.group h) ∧
      (∀ m, m ∈ x.members → t.point m = (s.point m).map (fun p => { p with suppressed := false })) ∧
      (∀ m, m ∉ x.members → t.point m = s.point m) ∧
      OnlyChanges [.points, .groups, .records, .queues, .horns, .attention] s t) ∧
  ∀ (g : GroupIdx) (x : Group) (m : Nat) (rest : List Nat) (p : Point) (s : State),
    s.group g = some x → x.owed = m :: rest → s.point m = some p →
    let stands := p.cond = .isTrue ∧ p.delivered = true ∧ p.shelved = false ∧ p.inService = true
    ∃ t, exec (.groupMemberReleaseEvent g) s = .next t ∧
      (stands → RaiseTaken (s.setGroup g { x with owed := rest }) t m p s.elapsed) ∧
      (¬stands → t.group g = some { x with owed := rest } ∧ t.points = s.points ∧
        t.serial = s.serial ∧ t.loads = s.loads ∧ t.queues = s.queues ∧
        ∀ h, h ≠ g → t.group h = s.group h) ∧
      OnlyChanges [.points, .serial, .groups, .loads, .records, .queues, .journal, .horns,
        .attention] s t

/-! ## Area responsibility -/

/-- CLAIM AREA gives an unowned area to the console and badge that claim it (R135); RELEASE AREA of the
supervisor takes an area from its owner (R136). No other area changes owner, no link changes, and
attendance follows (R132). The model's own here: log entry 23. -/
def Obligations.ClaimAndReleaseMoveOwner : Prop :=
  let owned := fun (s1 t : State) (a : Area) (owner : Option Party) =>
    (∃ r r', s1.area a = some r ∧ t.area a = some r' ∧ r'.owner = owner ∧ r'.link = r.link ∧
      r'.nameIndex = r.nameIndex ∧ r'.attendance = s1.deriveAttendance owner) ∧
    (∀ b, b ≠ a → (t.area b).map (fun r => (r.nameIndex, r.owner, r.link)) =
      (s1.area b).map (fun r => (r.nameIndex, r.owner, r.link)))
  (∀ (c : Console) (b tag : Byte) (a : Area) (x : Session) (s : State),
    let d := consoleDesk c
    let s1 := actingAt s d
    Operator s d x → s.definedArea b = some a → (s.roleOf x).permits .take a = true →
    (s.roleOf x).permits .view a = true → s.reaches d a = true → s1.linked a = false →
    s.owner a = none →
    ∃ t, exec (.claimArea (deskPort d) tag [b]) s = .next t ∧
      owned s1 t a (some { console := c, badge := x.badge }) ∧
      LastEntry t .claim { port := some (deskPort d), badge := some x.badge, area := some a } ∧
      Replied s1 t (deskPort d) .claimArea tag
        (done [] ([b, (s1.deriveAttendance (some { console := c, badge := x.badge })).code] ++
          num16 (s.listablePoints a).length)) ∧
      OnlyChanges (answering ++ [.map, .queues, .journal]) s1 t) ∧
  ∀ (b tag : Byte) (a : Area) (former : Party) (x : Session) (s : State),
    let s1 := actingAt s supervisor
    Supervisor s x .supervise → s.definedArea b = some a → s1.linked a = false →
    s.owner a = some former →
    ∃ t, exec (.releaseArea (deskPort supervisor) tag [b]) s = .next t ∧ owned s1 t a none ∧
      (∃ before, s1.attendance a = some before ∧
        LastEntry t .release
          { port := some (deskPort supervisor), badge := some x.badge, area := some a
            detail := detail4 (byte former.console) before.code 0#8 0#8 }) ∧
      Replied s1 t (deskPort supervisor) .releaseArea tag
        (done [] (byte former.console :: be32 former.badge)) ∧
      OnlyChanges (answering ++ [.map, .queues, .journal]) s1 t

/-- RELOCATE of the supervisor gives every area of a set to a console whose session may take them, and
sends that console alone the listable points of the areas, oldest raise stamp first; one RELOCATE entry
for each area, ascending, closes the journal (R137, R138). The queue of the console is what it was, then
the burst; then one AREA notice goes out for each area of the set and each other area whose attendance
changed, in ascending index, routed by the owner before and after (R95, R132), and nothing else reaches any
queue. With room for all of them the notice of every listable point stands in the console's queue. The
model's own here: log entries 12, 23, 26 and 30. -/
def Obligations.RelocateMovesAreas : Prop :=
  ∀ (a1 a0 cb tag : Byte) (c : Console) (x y : Session) (s : State),
    let set := read16 a1 a0
    let dest := consoleDesk c
    let s1 := actingAt s supervisor
    let party : Party := { console := c, badge := y.badge }
    let listable := s.points.filter (fun e => inSet set e.2.cfg.area && e.2.listable)
    Supervisor s x .supervise → set ≠ 0#16 → consoleOf cb = some c → s.allDefined set = true →
    s.enabled dest = true → (∀ a, inSet set a = true → s1.linked a = false) →
    (s.desk dest).session = some y → y.presence ≠ .absent →
    (∀ a, inSet set a = true →
      (s.roleOf y).permits .take a = true ∧ (s.roleOf y).permits .view a = true) →
    ∃ t, ∃ burst : List (Nat × Point), exec (.relocate (deskPort supervisor) tag [a1, a0, cb]) s = .next t ∧
      burst.Perm listable ∧ (TablesRise s → burst.Pairwise (StampPrecedes s.elapsed)) ∧
      (∀ a, inSet set a = true → t.owner a = some party ∧
        t.attendance a = some (s1.deriveAttendance (some party))) ∧
      (∀ a, inSet set a = false → t.owner a = s.owner a) ∧
      (∀ a, (t.area a).map (·.link) = (s1.area a).map (·.link)) ∧
      (let filled := burst.foldl (burstStep 64)
        { queue := s1.queue dest, placed := [], overflowed := false }
       let room := (s1.queue dest).entries.length + listable.length + 16 ≤ 64
       Replied s1 t (deskPort supervisor) .relocate tag
         (done [filled.overflowed] (num16 (areasOf set).length ++ num16 listable.length)) ∧
       ((s1.queue dest).entries.length + listable.length ≤ 64 → filled.overflowed = false) ∧
       (let changed := allAreas.filter (fun a =>
          inSet set a || decide (t.attendance a ≠ s1.attendance a))
        t.queues = changed.foldl
          (fun queues a => (areaNotice { t with queues := queues } a (s.owner a)).queues)
          (s1.setQueue dest filled.queue).queues) ∧
       ((s1.port (deskPort dest)).link = .silent →
         (t.queue dest).entries = filled.queue.entries) ∧
       (room → TablesRise s → ∀ e ∈ listable,
         pointNoticeOf (e.2.listedBody e.1) ∈ (t.queue dest).entries) ∧
       LastEntries t ((areasOf set).map (fun a => (.relocate,
         { port := some (deskPort supervisor), badge := some x.badge, area := some a
           detail := detail16 (portByte ((s.owner a).map (·.console.val))) (byte c)
             (BitVec.ofNat 16 (filled.placed.count a)) })))) ∧
      OnlyChanges (answering ++ [.map, .queues, .journal]) s1 t

/-! ## Shift handover -/

/-- An OFFER that is taken makes the lowest free record, links the areas to it and changes no owner
(R144, R145). The model's own here: log entry 23. -/
def Obligations.OfferMakesRecord : Prop :=
  ∀ (c : Console) (a1 a0 tb tag : Byte) (target : Option Console) (i : RecordIdx) (x : Session)
      (s : State),
    let d := consoleDesk c
    let set := read16 a1 a0
    let s1 := actingAt s d
    let me : Party := { console := c, badge := x.badge }
    let number := s.handoverCounter + 1
    let expiry := after s.elapsed (10 * s.param 24)
    Operator s d x → targetOf d tb = some target → set ≠ 0#16 → s.allDefined set = true →
    (∀ a, inSet set a = true → (s.roleOf x).permits .take a = true ∧ s.owner a = some me ∧
      s1.attendance a = some .attended ∧ s1.linked a = false) →
    s1.canReceive set target = true → s1.freeRecord = some i →
    ∃ t, exec (.offer (deskPort d) tag [a1, a0, tb]) s = .next t ∧
      t.record i = some
        { number := number, state := .offered, flood := false, outgoingLost := false, areas := set
          outgoing := me, target := target, incoming := none, offerExpiry := some expiry
          accumulated := 0, resume := none, limitExpiry := none, coSigned := none
          incomplete := false, items := [] } ∧
      OtherRecordsSame s1 t i ∧ t.handoverCounter = number ∧
      (∀ a, t.area a = (s1.area a).map (fun r =>
        if inSet set a then { r with link := some i } else r)) ∧
      LastEntry t .offer
        { port := some (deskPort d), badge := some x.badge, area := (areasOf set).head?
          occ := number, detail := detail16 (byte i) (portByte (target.map (·.val))) set } ∧
      Replied s1 t (deskPort d) .offer tag
        (done [] (byte i :: (be16 number ++ be32 (expiry + s.offset)))) ∧
      OnlyChanges (answering ++ [.records, .handoverCounter, .map, .queues, .journal]) s1 t

/-- An ACCEPT that is taken makes the console and badge the incoming party; the record is HELD when an
area is FLOOD or the outgoing party is lost, and in OVERLAP otherwise; its items are the listable points
of the areas, up to 64, by priority and then by raise stamp (R146, R147). The model's own here: log entry
17. -/
def Obligations.AcceptStartsOverlap : Prop :=
  ∀ (c : Console) (ib n1 n0 tag : Byte) (i : RecordIdx) (r : Record) (x : Session) (s : State),
    let d := consoleDesk c
    let s1 := actingAt s d
    let me : Party := { console := c, badge := x.badge }
    let flood := (areasOf r.areas).any (fun a => (s.load a).state == .flood)
    let listable := s.points.filter (fun e => inSet r.areas e.2.cfg.area && e.2.listable)
    Operator s d x → recordOf ib = some i → s1.record i = some r → r.number = read16 n1 n0 →
    r.state = .offered → c ≠ r.outgoing.console → (r.target = none ∨ r.target = some c) →
    (∀ a, inSet r.areas a = true → (s.roleOf x).permits .take a = true ∧
      (s.roleOf x).permits .view a = true ∧ s.reaches d a = true) →
    ∃ t q, exec (.accept (deskPort d) tag [ib, n1, n0]) s = .next t ∧ t.record i = some q ∧
      q.number = r.number ∧ q.areas = r.areas ∧ q.outgoing = r.outgoing ∧ q.target = r.target ∧
      q.incoming = some me ∧ q.offerExpiry = none ∧ q.accumulated = 0 ∧ q.coSigned = r.coSigned ∧
      q.flood = flood ∧ q.outgoingLost = r.outgoingLost ∧
      q.items.length = min 64 listable.length ∧ q.incomplete = decide (64 < listable.length) ∧
      (∃ order : List (Nat × Point), order.Perm listable ∧
        q.items = (order.take 64).map (fun e =>
          { point := e.1, reason := e.2.reason, occ := e.2.occ, status := .isOpen }) ∧
        (TablesRise s → order.Pairwise (ItemPrecedes s.elapsed))) ∧
      (flood = false → r.outgoingLost = false → q.state = .overlap ∧ q.resume = some s.elapsed ∧
        (0 < s.param 26 → q.limitExpiry = some (after s.elapsed (10 * s.param 26)))) ∧
      (flood = true ∨ r.outgoingLost = true → q.state = .held ∧ q.resume = none ∧
        q.limitExpiry = none) ∧
      OtherRecordsSame s1 t i ∧
      Replied s1 t (deskPort d) .accept tag
        (done [q.incomplete] ([ib, handoverCode (some q.state)] ++ num16 q.items.length)) ∧
      OnlyChanges (answering ++ [.records, .queues, .journal]) s1 t

/-- DECLINE, WITHDRAW, FORCE WITHDRAW and the expiry of an offer or of the overlap limit end a record
and transfer nothing: the record is free, its areas lose the link and keep their owner, and the end is
journaled (R149, R150, R151, R152, R162, R163). The model's own here: log entries 3 and 23. -/
def Obligations.EndingsTransferNothing : Prop :=
  let ended := fun (s1 t : State) (i : RecordIdx) (r : Record) (o : HandoverOutcome)
      (port : Option Port) (badge : Option Badge) =>
    t.record i = none ∧ OtherRecordsSame s1 t i ∧
    (∀ a, t.area a = (s1.area a).map (fun q =>
      if inSet r.areas a then { q with link := none } else q)) ∧
    (s1.dev = .running → LastEntry t .handoverEnd
      { port := port, badge := badge, area := (areasOf r.areas).head?
        detail := detail4 (byte i) (outcomeCode (some o)) (handoverCode (some r.state)) 0xFF#8 })
  (∀ (d : Desk) (ib n1 n0 tag : Byte) (i : RecordIdx) (r : Record) (x : Session) (s : State),
    let s1 := actingAt s d
    let ends := fun (command : Instr) (k : Kind) (o : HandoverOutcome) =>
      ∃ t, exec command s = .next t ∧ ended s1 t i r o (some (deskPort d)) (some x.badge) ∧
        Replied s1 t (deskPort d) k tag (done [] [ib]) ∧
        OnlyChanges (answering ++ [.map, .records, .queues, .journal]) s1 t
    Operator s d x → recordOf ib = some i → s1.record i = some r → r.number = read16 n1 n0 →
    (∀ c, r.target = some c → consoleDesk c = d → r.state = .offered →
      ends (.decline (deskPort d) tag [ib, n1, n0]) .decline .declined) ∧
    (consoleDesk r.outgoing.console = d → r.outgoing.badge = x.badge → r.state ≠ .held →
      ends (.withdraw (deskPort d) tag [ib, n1, n0]) .withdraw .withdrawn) ∧
    (d = supervisor → (s.roleOf x).holds .supervise = true →
      ends (.forceWithdraw (deskPort d) tag [ib, n1, n0]) .forceWithdraw .withdrawn)) ∧
  ∀ (i : RecordIdx) (r : Record) (e : Time) (s : State), s.record i = some r →
    reached s.elapsed e = true →
    let expires := fun (command : Instr) =>
      ∃ t, exec command s = .next t ∧ ended s t i r .expired none none ∧
        OnlyChanges [.map, .records, .queues, .journal, .horns, .attention] s t
    (r.state = .offered → r.offerExpiry = some e → expires (.offerExpiry i)) ∧
    (r.state = .overlap → r.limitExpiry = some e → expires (.overlapLimitExpiry i))

/-- CONFIRM ITEM confirms one OPEN item of the cited occurrence; CONFIRM PAGE confirms the OPEN items of
a page that the incoming party has seen, and no other (R154, R155). At a change of a point every record
in OVERLAP or HELD whose areas hold the point's keeps its items current by the table of R153, and no
other record changes; a point moved out of a record's areas has its item RESOLVED (R153). The model's own
here: log entries 23 and 39, by the second of which a fold or a shelving too reopens a RESOLVED item. -/
def Obligations.ConfirmMarksItems : Prop :=
  (∀ (i : Nat) (p : Point) (fresh : Bool) (s : State),
    let t := handItems s i p fresh
    let new : Item := { point := i, reason := p.reason, occ := p.occ, status := .isOpen }
    OnlyChanges [.records] s t ∧ ∀ k, (s.record k = none → t.record k = none) ∧
      ∀ r, s.record k = some r →
        (r.accepted = false ∨ inSet r.areas p.cfg.area = false → t.record k = some r) ∧
        (r.accepted = true → inSet r.areas p.cfg.area = true →
          ∃ items incomplete,
            t.record k = some { r with items := items, incomplete := incomplete } ∧
            (∀ (j : Nat) (item : Item), r.items[j]? = some item →
              (item.point ≠ i → items[j]? = some item) ∧
              (item.point = i → fresh = true → items[j]? = some new) ∧
              (item.point = i → fresh = false → p.listable = false →
                items[j]? = some { item with status := .resolved }) ∧
              (item.point = i → fresh = false → p.listable = true → item.status = .resolved →
                items[j]? = some new) ∧
              (item.point = i → fresh = false → p.listable = true → item.status ≠ .resolved →
                items[j]? = some { item with reason := p.reason })) ∧
            ((∃ item ∈ r.items, item.point = i) →
              items.length = r.items.length ∧ incomplete = r.incomplete) ∧
            ((∀ item ∈ r.items, item.point ≠ i) →
              (p.listable = false → items = r.items ∧ incomplete = r.incomplete) ∧
              (p.listable = true → r.items.length < 64 →
                items = r.items ++ [new] ∧ incomplete = r.incomplete) ∧
              (p.listable = true → 64 ≤ r.items.length →
                items = r.items ∧ incomplete = true)))) ∧
  (∀ (i : Nat) (old new : Area) (s : State),
    let t := resolveMoved s i old new
    OnlyChanges [.records] s t ∧ ∀ k, (s.record k = none → t.record k = none) ∧
      ∀ r, s.record k = some r →
        let leaves := r.accepted = true ∧ inSet r.areas old = true ∧ inSet r.areas new = false
        (leaves → t.record k = some { r with items := r.items.map (fun item =>
          if item.point = i then { item with status := .resolved } else item) }) ∧
        (¬leaves → t.record k = some r)) ∧
  ∀ (c : Console) (ib n1 n0 tag : Byte) (i : RecordIdx) (r : Record) (x : Session) (s : State),
    let d := consoleDesk c
    let s1 := actingAt s d
    Operator s d x → recordOf ib = some i → s1.record i = some r → r.number = read16 n1 n0 →
    r.accepted = true → r.incoming = some { console := c, badge := x.badge } →
    (∀ (k o1 o0 : Byte) (item : Item) (p : Point), r.items[k.toNat]? = some item →
      s.point item.point = some p → (s.roleOf x).permits .view p.cfg.area = true →
      item.occ = read16 o1 o0 → item.status = .isOpen →
      ∃ t items, exec (.confirmItem (deskPort d) tag [ib, n1, n0, k, o1, o0]) s = .next t ∧
        t.record i = some { r with items := items } ∧ items.length = r.items.length ∧
        items[k.toNat]? = some { item with status := .confirmed } ∧
        (∀ j, j ≠ k.toNat → items[j]? = r.items[j]?) ∧ OtherRecordsSame s1 t i ∧
        LastEntry t .confirm
          { port := some (deskPort d), badge := some x.badge, area := some p.cfg.area
            point := some item.point, occ := item.occ, detail := detail4 ib k 0#8 0#8 } ∧
        Replied s1 t (deskPort d) .confirmItem tag
          (done [] (k :: num16 (items.filter (·.status == .isOpen)).length)) ∧
        OnlyChanges (answering ++ [.records, .journal]) s1 t) ∧
    (∀ (f n t3 t2 t1 t0 : Byte), 1 ≤ n.toNat → n.toNat ≤ 16 → f.toNat < r.items.length →
      (∀ a, inSet r.areas a = true → (s.roleOf x).permits .view a = true) →
      let seen := read32 t3 t2 t1 t0
      let confirms := fun (item : Item) => item.status = .isOpen ∧
        ∀ p st, s.point item.point = some p → p.stamp = some st → atOrBefore st.mill seen = true
      ∃ t items, exec (.confirmPage (deskPort d) tag [ib, n1, n0, f, n, t3, t2, t1, t0]) s = .next t ∧
        t.record i = some { r with items := items } ∧ items.length = r.items.length ∧
        (∀ (j : Nat) (item : Item), r.items[j]? = some item →
          (f.toNat ≤ j ∧ j < f.toNat + n.toNat ∧ confirms item →
            items[j]? = some { item with status := .confirmed }) ∧
          (¬(f.toNat ≤ j ∧ j < f.toNat + n.toNat ∧ confirms item) → items[j]? = some item)) ∧
        OtherRecordsSame s1 t i ∧
        (∃ confirmed, confirmed + (items.filter (·.status == .isOpen)).length =
            (r.items.filter (·.status == .isOpen)).length ∧
          LastEntry t .confirm
            { port := some (deskPort d), badge := some x.badge
              detail := detail4 ib f 0x80#8 (byte confirmed) } ∧
          Replied s1 t (deskPort d) .confirmPage tag
            (done [] (num16 confirmed ++
              num16 (items.filter (·.status == .isOpen)).length))) ∧
        OnlyChanges (answering ++ [.records, .journal]) s1 t)

/-- TAKE of the incoming party, with the minimum overlap over and either a co-sign or every item done,
no area BUSY and the load after transfer within the ceiling, and FORCE COMMIT of the supervisor,
transfer every area of the record to the incoming party and free it (R139, R159, R162, R163). The
model's own here: log entry 23. -/
def Obligations.CommitTransfersAreas : Prop :=
  let committed := fun (s1 t : State) (i : RecordIdx) (r : Record) (inc : Party)
      (o : HandoverOutcome) (d : Desk) (badge : Badge) =>
    t.record i = none ∧ OtherRecordsSame s1 t i ∧
    (∀ a q, s1.area a = some q → inSet r.areas a = true →
      t.area a = some
        { q with owner := some inc, link := none, attendance := s1.deriveAttendance (some inc) }) ∧
    (∀ a, inSet r.areas a = false → (t.area a).map (fun q => (q.nameIndex, q.owner, q.link)) =
      (s1.area a).map (fun q => (q.nameIndex, q.owner, q.link))) ∧
    LastEntry t .handoverEnd
      { port := some (deskPort d), badge := some badge, area := (areasOf r.areas).head?
        detail := detail4 (byte i) (outcomeCode (some o)) (handoverCode (some r.state))
          (byte inc.console) } ∧
    OnlyChanges (answering ++ [.map, .records, .queues, .journal]) s1 t
  ∀ (ib n1 n0 tag : Byte) (i : RecordIdx) (r : Record) (inc : Party) (x : Session) (s : State),
    recordOf ib = some i → r.number = read16 n1 n0 → r.incoming = some inc →
    (let d := consoleDesk inc.console
     let s1 := actingAt s d
     Operator s d x → s1.record i = some r → inc.badge = x.badge → r.state = .overlap →
     (∀ a, inSet r.areas a = true → (s.roleOf x).permits .take a = true) →
     10 * s.param 25 ≤ s1.overlap r →
     (r.coSigned.isSome = true ∨
       ((∀ item ∈ r.items, item.status ≠ .isOpen) ∧ r.incomplete = false ∧
        (∀ a, inSet r.areas a = true → (s.load a).state ≠ .busy) ∧
        s1.loadAfter inc.console r.areas ≤ s.param 12)) →
     ∃ t, exec (.take (deskPort d) tag [ib, n1, n0]) s = .next t ∧
       committed s1 t i r inc .committed d x.badge ∧
       Replied s1 t (deskPort d) .take tag (done [] [])) ∧
    (let s1 := actingAt s supervisor
     Supervisor s x .supervise → s1.record i = some r → r.accepted = true →
     s1.incomingPresent r = true →
     ∃ t, exec (.forceCommit (deskPort supervisor) tag [ib, n1, n0]) s = .next t ∧
       committed s1 t i r inc .forced supervisor x.badge ∧
       Replied s1 t (deskPort supervisor) .forceCommit tag (done [] (ib :: be16 r.areas)))

/-- CO-SIGN records the supervisor's badge and lifts the cause OUTGOING_LOST; a record with no cause
left goes on in OVERLAP, with what it had accumulated, and ends EXPIRED when that already reaches the
limit: its areas lose the link, no owner changes, and the end is journaled (R152, R157, R161, R163). The
entries are CO-SIGN, HANDOVER STATE of a move, and HANDOVER END. The model's own here: log entries 17,
18 and 23. -/
def Obligations.CoSignLiftsOutgoingLost : Prop :=
  ∀ (ib n1 n0 tag : Byte) (i : RecordIdx) (r : Record) (x : Session) (s : State),
    let s1 := actingAt s supervisor
    let p := deskPort supervisor
    Supervisor s x .supervise → recordOf ib = some i → s1.record i = some r →
    r.number = read16 n1 n0 → r.accepted = true →
    (r.coSigned = none ∨ r.outgoingLost = true) → HoldFollowsCauses s →
    ∃ t, exec (.coSign p tag [ib, n1, n0]) s = .next t ∧
      (let signed := { r with coSigned := some x.badge, outgoingLost := false }
       let limit := 10 * s.param 26
       let othersRun := ∀ j q, j ≠ i → s1.record j = some q → q.state = .overlap →
         q.limitExpiry.isSome = true
       let coSignEntry : JournalKind × EntryFields := (.coSign,
         { port := some p, badge := some x.badge, detail := detailFlag (byte i) r.outgoingLost 0 })
       let moveEntry : JournalKind × EntryFields := (.handoverState,
         { port := some (deskPort (consoleDesk r.outgoing.console)), badge := some r.outgoing.badge
           detail := detail4 (byte i) 2#8 1#8 0#8 })
       let endEntry : JournalKind × EntryFields := (.handoverEnd,
         { area := (areasOf r.areas).head?, detail := detail4 (byte i) 5#8 1#8 0xFF#8 })
       (r.state = .overlap → r.limitExpiry.isSome = true →
         t.record i = some signed ∧ Replied s1 t p .coSign tag (done [] [1#8]) ∧
         (othersRun → LastEntries t [coSignEntry] ∧ t.map = s1.map)) ∧
       (r.state = .held → r.flood = true → t.record i = some signed ∧
         Replied s1 t p .coSign tag (done [] [2#8]) ∧
         (othersRun → LastEntries t [coSignEntry] ∧ t.map = s1.map)) ∧
       (r.state = .held → r.flood = false → r.accumulated < limit →
         t.record i = some
           { signed with
             state := .overlap, resume := some s.elapsed
             limitExpiry := some (after s.elapsed (limit - r.accumulated)) } ∧
         Replied s1 t p .coSign tag (done [] [1#8]) ∧
         (othersRun → LastEntries t [coSignEntry, moveEntry] ∧ t.map = s1.map)) ∧
       (r.state = .held → r.flood = false → limit ≤ r.accumulated →
         t.record i = none ∧ Replied s1 t p .coSign tag (done [] [1#8]) ∧
         (othersRun → LastEntries t [coSignEntry, moveEntry, endEntry] ∧
           ∀ a, t.area a = (s1.area a).map (fun q =>
             if inSet r.areas a then { q with link := none } else q)))) ∧
      (∀ a, t.owner a = s.owner a) ∧
      (∀ j q, j ≠ i → s1.record j = some q → (q.state = .overlap → q.limitExpiry.isSome = true) →
        t.record j = some q) ∧
      OnlyChanges (answering ++ [.map, .records, .queues, .journal]) s1 t

/-! ## Mill time and gateways -/

/-- TIME SET makes the mill time the carried one from that moment on, and changes no stamp, expiry or
elapsed time; one SYSTEM notice carries both times (R82, R83). SWAP GATEWAYS exchanges the roles of the
gateways when the SECONDARY is GOOD in
link and health, and moves REFRESH to the new PRIMARY, with
one SYSTEM notice (R171, R172, R173). The model's own here: log
entries 15, 19 and 23. -/
def Obligations.TimeSetAndSwapGateways : Prop :=
  (∀ (t3 t2 t1 t0 tag : Byte) (x : Session) (s : State), Supervisor s x .supervise →
    let new := read32 t3 t2 t1 t0
    let s1 := actingAt s supervisor
    ∃ t, exec (.timeSet (deskPort supervisor) tag [t3, t2, t1, t0]) s = .next t ∧
      t.mill = new ∧ t.elapsed = s.elapsed ∧
      t.queues = (timeSetNotice s1 s.mill new).queues ∧
      (∃ difference : Int, (new - s.mill).toInt.tdiv 10 = difference ∧
        LastEntry t .timeSet
          { port := some (deskPort supervisor), badge := some x.badge
            detail := BitVec.ofInt 32 difference }) ∧
      Replied s1 t (deskPort supervisor) .timeSet tag (done [] (be32 s.mill ++ be32 new)) ∧
      OnlyChanges (answering ++ [.offset, .queues, .journal]) s1 t) ∧
  ∀ (tag : Byte) (g : Gateway) (x : Session) (s : State), Supervisor s x .supervise →
    let h := otherGateway g
    let s1 := actingAt s supervisor
    s.primary = some g → s.linkGood (gatewayPort h) = true → (s.gateway h).health = .good →
    ∃ t, exec (.swapGateways (deskPort supervisor) tag []) s = .next t ∧
      t.gateway g = { s.gateway g with role := .secondary, refresh := false } ∧
      t.gateway h = { s.gateway h with role := .primary, refresh := true } ∧
      LastEntry t .gatewayRole { detail := detail4 (byte (gatewayPort h)) 1#8 0#8 0#8 } ∧
      t.queues = (gatewayNotice { t with queues := s1.queues }).queues ∧
      Replied s1 t (deskPort supervisor) .swapGateways tag (done [] [byte (gatewayPort h)]) ∧
      OnlyChanges (answering ++ [.gateways, .queues, .journal]) s1 t

/-- A CHANNEL REPORT of the PRIMARY stores each of its entries and answers the counts of entries applied
and ignored; of another gateway it is answered and ignored (R2, R3, R4). The last entry of a channel
gives its quality, the last GOOD one its value, 0 or 1 for a DISCRETE channel; a BAD one keeps the value.
Each point bound to the channel of a GOOD entry has its condition handled: level with the delivered one
the pending part goes, and another becomes pending for its delay or is taken at once as a raise or a
return (R9, R13, R18); when the input was lost BAD_INPUT clears first and a notice follows (R17). A BAD
entry takes a channel's points to UNKNOWN with BAD_INPUT set, without an event (R16). The model's own
here: log entries 16 and 17, by which a release delay of 0 makes a group OPEN in the same command, with a
further event owed to each SUPPRESSED member in member order; and 35. -/
def Obligations.ChannelReportStoresEntries : Prop :=
  (∀ (g : Gateway) (tag : Byte) (body : Body) (entries : List ReportEntry) (s : State),
    let p := gatewayPort g
    let h := heardAt s p
    (h.gateway g).health ≠ .failed → (h.port p).slot = none → s.dev = .running →
    body.length ≤ maxBody → parseEntries body = some entries → entries ≠ [] →
    entries.length ≤ 40 →
    ((h.gateway g).role ≠ .primary →
      ∃ t, exec (.channelReport p tag body) s = .next t ∧
        Replied h t p .channelReport tag (done [true] []) ∧ OnlyChanges answering h t) ∧
    ((h.gateway g).role = .primary →
      (∀ e ∈ entries, e.channel < 1024 ∧ (e.quality = 1#8 ∨ e.quality = 2#8)) →
      let listed := fun (e : ReportEntry) => (s.channel e.channel).isSome
      ∃ t, exec (.channelReport p tag body) s = .next t ∧
        Replied h t p .channelReport tag
          (done [false] (num16 (entries.filter listed).length ++
            num16 (entries.filter (fun e => !listed e)).length)) ∧
        (∀ c y, s.channel c = some y →
          let own := entries.filter (fun e => e.channel == c)
          let good := own.filter (fun e => e.quality == 1#8)
          ∃ z, t.channel c = some z ∧ z.kind = y.kind ∧ (own = [] → z = y) ∧
            (∀ e, own.getLast? = some e → z.lastReport = some s.elapsed ∧
              z.quality = if e.quality = 1#8 then .good else .bad) ∧
            (good = [] → z.value = y.value) ∧
            (∀ e, good.getLast? = some e → (y.kind = .analog → z.value = e.value) ∧
              (y.kind = .discrete → z.value = if e.value = 0#16 then 0#16 else 1#16))) ∧
        (∀ c, s.channel c = none → t.channel c = none) ∧
        OnlyChanges (answering ++
          [.channels, .points, .serial, .groups, .loads, .records, .queues, .journal]) h t)) ∧
  (∀ (g : Gateway) (tag c1 c0 v1 v0 q : Byte) (y : Channel) (s : State),
    let p := gatewayPort g
    let h := heardAt s p
    let c := (read16 c1 c0).toNat
    let v := read16 v1 v0
    (h.gateway g).health ≠ .failed → (h.port p).slot = none → s.dev = .running →
    (h.gateway g).role = .primary → c < 1024 → s.channel c = some y →
    let stored := if y.kind = .analog then v else if v = 0#16 then 0#16 else 1#16
    let bound := (s.points.filter (fun e => e.2.cfg.channel == c)).map (·.1)
    let good := h.setChannel c
      { y with value := stored, quality := .good, lastReport := some s.elapsed }
    let bad := h.setChannel c { y with quality := .bad, lastReport := some s.elapsed }
    let lost := y.quality = .bad ∨ y.quality = .stale
    ∃ t, exec (.channelReport p tag [c1, c0, v1, v0, q]) s = .next t ∧
      (q = 1#8 → ¬lost →
        OnlyChanges answering (bound.foldl (fun u i => evaluatePoint u stored i) good) t) ∧
      (q = 1#8 → lost →
        OnlyChanges answering (bound.foldl (fun u i => regainInput u stored i) good) t) ∧
      (q = 2#8 → ¬lost → OnlyChanges answering (bound.foldl loseInput bad) t) ∧
      (q = 2#8 → lost → OnlyChanges answering bad t) ∧
      (q = 1#8 → t.channel c = some
        { y with value := stored, quality := .good, lastReport := some s.elapsed }) ∧
      (q = 2#8 → t.channel c = some { y with quality := .bad, lastReport := some s.elapsed }) ∧
      (q ≠ 1#8 → q ≠ 2#8 → OnlyChanges answering h t) ∧
      (∀ b, b ≠ c → t.channel b = s.channel b)) ∧
  ∀ (v : Word16) (i : Nat) (p : Point) (s : State), s.point i = some p →
    (let now := evaluate p.cfg v p.cond p.lastKnown
     let t := evaluatePoint s v i
     let q : Point := { p with cond := conditionOf now, lastKnown := some now }
     let delay := if now then p.cfg.onDelay else p.cfg.offDelay
     (p.cond = conditionOf now → t = s) ∧
     (p.cond ≠ conditionOf now → p.inService = false → t = s.setPoint i q) ∧
     (p.cond ≠ conditionOf now → p.inService = true →
       (now = p.delivered → t = s.setPoint i { q with pendingPart := none }) ∧
       (now ≠ p.delivered → 0 < delay → t = s.setPoint i
         { q with pendingPart := some { raise := now, expiry := after s.elapsed delay } }) ∧
       (now ≠ p.delivered → delay = 0 →
         (now = true → RaiseTaken s t i { q with delivered := true } s.elapsed) ∧
         (now = false → HeadsApart s →
           ReturnTaken s t i { q with delivered := false } s.elapsed))) ∧
     OnlyChanges [.points, .serial, .groups, .loads, .records, .queues, .journal] s t) ∧
    (let t := loseInput s i
     let q : Point := { p with cond := .unknown, pendingPart := none, badInput := true }
     t.point i = some q ∧ OtherPointsSame s t i ∧
     t.queues = (deliver s (pointNoticeOf (q.body i false false))
       (s.pointNames p.cfg.area p.escalated)).queues ∧ OnlyChanges [.points, .queues] s t) ∧
    (let u := evaluatePoint (s.setPoint i { p with badInput := false }) v i
     let t := regainInput s v i
     ∃ q, u.point i = some q ∧ q.badInput = false ∧
       t.queues = (deliver u (pointNoticeOf (q.body i false false))
         (u.pointNames q.cfg.area q.escalated)).queues ∧ OnlyChanges [.queues] u t)

/-! ## Configuration and restart -/

/-- LOAD START makes an UNCONFIGURED device LOADING with empty tables, CONFIG BLOCK writes its entries
into one table, and LOAD ABANDON discards the tables and leaves an UNCONFIGURED device as after power-on,
the raise serial counter 0, with the time base, the journal and the ports kept and the gateways kept but
for their roles and REFRESH markers (R104, R175, R176). The model's own here: log entries 1, 7, 8, 9 and
25. -/
def Obligations.LoadingFillsTables : Prop :=
  ∀ (tag : Byte) (s : State), (s.port (deskPort supervisor)).slot = none →
    let p := deskPort supervisor
    let h := heardAt s p
    (s.dev = .unconfigured →
      ∃ t, exec (.loadStart p tag []) s = .next t ∧ t.dev = .loading ∧
        (∀ k : Fin 9, t.staged.present[k] = false ∧ t.staged.tables[k] = []) ∧
        Replied h t p .loadStart tag (done [] []) ∧
        OnlyChanges (answering ++ [.dev, .staged]) h t) ∧
    (∀ (kb f1 f0 n : Byte) (bytes : List Byte) (k : Fin 9), s.dev = .loading →
      blockKind kb = some k → n ≠ 0#8 → bytes.length = n.toNat * entrySizes[k] →
      bytes.length + 4 ≤ maxBody →
      let first := (read16 f1 f0).toNat
      first + n.toNat ≤ tableSizes[k] →
      ∃ t, exec (.configBlock p tag (kb :: f1 :: f0 :: n :: bytes)) s = .next t ∧
        t.staged.present[k] = true ∧
        (∀ j, j < n.toNat → t.staged.entry k (first + j) =
          some ((bytes.drop (j * entrySizes[k])).take entrySizes[k])) ∧
        (∀ i, i < first ∨ first + n.toNat ≤ i → t.staged.entry k i = s.staged.entry k i) ∧
        (∀ l : Fin 9, l ≠ k → t.staged.present[l] = s.staged.present[l] ∧
          t.staged.tables[l] = s.staged.tables[l]) ∧
        Replied h t p .configBlock tag (done [] (kb :: num16 n.toNat)) ∧
        OnlyChanges (answering ++ [.staged]) h t) ∧
    (s.dev = .loading →
      ∃ t, exec (.loadAbandon p tag []) s = .next t ∧ t.dev = .unconfigured ∧
        (∀ k : Fin 9, t.staged.present[k] = false ∧ t.staged.tables[k] = []) ∧
        t.points = [] ∧ t.channels = [] ∧ (∀ a, t.area a = none) ∧ (∀ i, t.record i = none) ∧
        (∀ d : Desk, t.queue d = .empty ∧ t.desk d = .fresh ∧ t.horns[d] = false) ∧
        (∀ g, (t.gateway g).role = .none ∧ (t.gateway g).refresh = false ∧
          (t.gateway g).health = (s.gateway g).health) ∧
        (∀ g, t.gateway g = { h.gateway g with role := .none, refresh := false }) ∧
        t.elapsed = s.elapsed ∧ t.refCycles = s.refCycles ∧ t.offset = s.offset ∧
        t.serial = 0 ∧ t.journal = h.journal ∧ t.pending = s.pending ∧
        t.shiftedOut = s.shiftedOut ∧ t.freeCount = s.freeCount ∧
        Replied h t p .loadAbandon tag (done [] []) ∧
        OnlyChanges (answering ++ [.elapsed, .refCycles, .offset, .pending, .journal, .gateways,
          .shiftedOut, .freeCount]) State.reset t)

/-- LOAD END with tables that pass every check makes the device RUNNING with the tables taken into use
and every block at its start: the nine tables give the parameters, the areas with their names, the roles,
the reach, the PORTS entries and the preferred gateway, the channels, the points, the groups and the
credentials, and the preferred gateway becomes PRIMARY, or the other when the preferred one is lost and
the other eligible (R171, R177). With tables that fail one it is refused CONFIG_ERROR with the code of
the first check that fails, and the tables stay. The model's own here: log entries 11, 25 and 23. -/
def Obligations.LoadEndChecksTables : Prop :=
  ∀ (tag : Byte) (s : State), (s.port (deskPort supervisor)).slot = none → s.dev = .loading →
    let p := deskPort supervisor
    let h := heardAt s p
    let st := s.staged
    (∀ code index, st.fault = some (code, index) →
      ∃ t, exec (.loadEnd p tag []) s = .next t ∧
        Replied h t p .loadEnd tag { refuseAt .configError code with detail := num16 index } ∧
        OnlyChanges answering h t) ∧
    (st.fault = none →
      ∃ t, exec (.loadEnd p tag []) s = .next t ∧ t.dev = .running ∧ t.staged = .empty ∧
        t.params = st.parameters ∧ t.points = st.points ∧ t.channels = st.channels ∧
        (∀ r : Fin 8, t.roles[r] = st.role r) ∧ (∀ c : Console, t.reach[c] = st.reachOf c) ∧
        (∀ d : Desk, t.portCfg[d] = (st.rawPort d).cfg) ∧ t.preferred = st.preferredGateway ∧
        (∀ g, t.group g = st.groupAt g) ∧ t.creds = st.credentials ∧ t.shelf = [] ∧
        (∀ a, t.area a = (st.areaName a).map (fun name =>
          { nameIndex := name, owner := none, attendance := .unattended, link := none })) ∧
        (∀ a, t.load a = .quiet) ∧ (∀ i, t.record i = none) ∧
        (∀ d : Desk, t.queue d = .empty ∧ t.desk d = .fresh) ∧
        t.loadExpiry = some (after s.elapsed (10 * st.parameter 5)) ∧
        t.sweep =
          { running := true, passStart := s.elapsed, period := 10 * st.parameter 21
            size := st.points.length, position := 0, firstPass := true } ∧
        (let preferred := st.preferredGateway
         let other := otherGateway preferred
         let lost := (h.port (gatewayPort preferred)).link = .silent ∨
           (h.gateway preferred).health = .failed
         let eligible := (h.port (gatewayPort other)).link = .good ∧
           ((h.gateway other).health = .good ∨ (h.gateway other).health = .doubt)
         ∃ g, (lost ∧ eligible → g = other) ∧ (¬(lost ∧ eligible) → g = preferred) ∧
          t.gateway g = { h.gateway g with role := .primary, refresh := true } ∧
          t.gateway (otherGateway g) =
            { h.gateway (otherGateway g) with role := .secondary, refresh := false } ∧
          LastEntry t .restart
            { port := some p, detail := detail4 0#8 (byte (gatewayPort g)) 0#8 0#8 }) ∧
        Replied h t p .loadEnd tag (done [] []) ∧
        OnlyChanges (answering ++
          [.dev, .staged, .params, .roles, .reach, .portCfg, .preferred, .channels, .points, .shelf,
           .groups, .loads, .loadExpiry, .sweep, .queues, .creds, .desks, .map, .records, .gateways,
           .journal]) h t)

/-- An EDIT POINT that is taken replaces the configuration part of its point; an edit of neither
channel, limit, deadband nor kind changes nothing else of any point, no configuration part of another
point changes, and the edit is journaled last (R178). The evaluator acts first (R19). On a new channel that is
GOOD the condition is evaluated, with the return of input when BAD_INPUT was set; on one that is BAD or STALE,
when the old one was not, the input is lost; on one that is NEVER the condition becomes UNKNOWN, the pending
part goes and BAD_INPUT clears, without a notice. On the same channel, GOOD, a new limit, deadband or kind has
the condition evaluated. In every other case the evaluator does nothing. Then the engine acts (R43): a new
priority or area sends one point notice, a new area moves the items of the records, and nothing else changes
but the journal and the answer. The model's own here: log entries 24 and 23. -/
def Obligations.EditPointReplacesConfiguration : Prop :=
  ∀ (p1 p0 gb hb tag : Byte) (bytes : List Byte) (raw : RawPoint) (group headOf : Option GroupIdx)
      (x : Session) (p : Point) (s : State),
    let i := (read16 p1 p0).toNat
    let s1 := actingAt s supervisor
    let new := raw.cfg group headOf
    Supervisor s x .engineer → s.point i = some p → bytes.length = 17 → rawPoint bytes = some raw →
    groupField gb = some group → groupField hb = some headOf → group = p.cfg.group →
    headOf = p.cfg.headOf → raw.configured = 1#8 → raw.inRanges = true →
    raw.fits (fun c => (s.channel c).map (·.kind)) (fun a => (s.area a).isSome) = true →
    ∃ t q, exec (.editPoint (deskPort supervisor) tag (p1 :: p0 :: (bytes ++ [gb, hb]))) s = .next t ∧
      t.point i = some q ∧ q.cfg = new ∧ q.inService = p.inService ∧ q.shelved = p.shelved ∧
      (∀ j, j ≠ i → (t.point j).map (·.cfg) = (s.point j).map (·.cfg)) ∧
      (new.channel = p.cfg.channel → new.limit = p.cfg.limit → new.deadband = p.cfg.deadband →
        new.kind = p.cfg.kind → q = { p with cfg := new } ∧ OtherPointsSame s t i ∧
          t.serial = s.serial ∧ t.loads = s.loads ∧ t.groups = s.groups) ∧
      (∀ y, s.channel new.channel = some y →
        let edited := s1.setPoint i { p with cfg := new }
        let failed := fun (c : Option Channel) => ∃ z, c = some z ∧ (z.quality = .bad ∨ z.quality = .stale)
        let rebound := new.channel ≠ p.cfg.channel
        let band := new.limit ≠ p.cfg.limit ∨ new.deadband ≠ p.cfg.deadband ∨ new.kind ≠ p.cfg.kind
        let shown := new.priority ≠ p.cfg.priority ∨ new.area ≠ p.cfg.area
        let evaluatorLeaves := fun (e : State) =>
          OnlyChanges (answering ++ [.records, .queues, .journal]) e t ∧
          (¬shown → t.queues = e.queues) ∧ (new.area = p.cfg.area → t.records = e.records) ∧
          ∀ z, e.point i = some z →
            (shown → t.queues = (deliver e (pointNoticeOf (z.body i false false))
              (e.pointNames z.cfg.area z.escalated)).queues) ∧
            (new.area ≠ p.cfg.area →
              t.records = (handItems (resolveMoved e i p.cfg.area new.area) i z false).records)
        (rebound → y.quality = .good → p.badInput = false →
          evaluatorLeaves (evaluatePoint edited y.value i)) ∧
        (rebound → y.quality = .good → p.badInput = true →
          evaluatorLeaves (regainInput edited y.value i)) ∧
        (rebound → failed (some y) → ¬failed (s.channel p.cfg.channel) →
          evaluatorLeaves (loseInput edited i)) ∧
        (rebound → failed (some y) → failed (s.channel p.cfg.channel) → evaluatorLeaves edited) ∧
        (rebound → y.quality = .never → evaluatorLeaves (s1.setPoint i
          { p with cfg := new, cond := .unknown, pendingPart := none, badInput := false })) ∧
        (¬rebound → band → y.quality = .good → evaluatorLeaves (evaluatePoint edited y.value i)) ∧
        (¬rebound → ¬(band ∧ y.quality = .good) → evaluatorLeaves edited)) ∧
      LastEntry t .edit
        { port := some (deskPort supervisor), badge := some x.badge, point := some i, occ := q.occ
          detail := BitVec.ofNat 32 (bits (changedFields p.cfg new)) } ∧
      Replied s1 t (deskPort supervisor) .editPoint tag (done [] [q.state.code]) ∧
      OnlyChanges (answering ++ [.points, .serial, .groups, .loads, .records, .queues, .journal]) s1 t

/-- An EDIT PARAMETERS that is taken stores every carried value under its number and no other value;
when no load threshold changes it has no further effect but its journal entry (R77, R179). The model's
own here: log entry 23. -/
def Obligations.EditParametersStoresValues : Prop :=
  ∀ (first count tag : Byte) (bytes : List Byte) (vs : List Nat) (x : Session) (s : State),
    let s1 := actingAt s supervisor
    let carried := numbered first.toNat vs
    Supervisor s x .engineer → values bytes = some vs → vs.length = count.toNat → 1 ≤ vs.length →
    vs.length ≤ 16 → (∀ e ∈ carried, ∃ slot, s.editable e.1 = some slot ∧
      inRange slot.range e.2 = true ∧ orderBroken (storeValues s carried) slot = false) →
    ∃ t, exec (.editParameters (deskPort supervisor) tag (first :: count :: bytes)) s = .next t ∧
      (∀ (j : Nat) (v : Nat), vs[j]? = some v →
        (∀ n : Fin 29, n.val = first.toNat + j → t.param n = v) ∧
        (∀ d : Desk, 32 + 2 * d.val = first.toNat + j → t.portCfg[d].idleLimit = v) ∧
        (∀ d : Desk, 33 + 2 * d.val = first.toNat + j → t.portCfg[d].absentLimit = v) ∧
        (∀ g : GroupIdx, 48 + g.val = first.toNat + j → (t.group g).map (·.delay) = some v)) ∧
      (∀ n : Fin 29, (n.val < first.toNat ∨ first.toNat + vs.length ≤ n.val) →
        t.param n = s.param n) ∧
      (∀ d : Desk, t.portCfg[d].enabled = s.portCfg[d].enabled ∧
        t.portCfg[d].hornFloor = s.portCfg[d].hornFloor ∧
        ((32 + 2 * d.val < first.toNat ∨ first.toNat + vs.length ≤ 32 + 2 * d.val) →
          t.portCfg[d].idleLimit = s.portCfg[d].idleLimit) ∧
        ((33 + 2 * d.val < first.toNat ∨ first.toNat + vs.length ≤ 33 + 2 * d.val) →
          t.portCfg[d].absentLimit = s.portCfg[d].absentLimit)) ∧
      (∀ g, (t.group g).map (fun q => { q with delay := 0 }) =
          (s.group g).map (fun q => { q with delay := 0 }) ∧
        ((48 + g.val < first.toNat ∨ first.toNat + vs.length ≤ 48 + g.val) →
          t.group g = s.group g)) ∧
      (t.param 6 = s.param 6 → t.param 7 = s.param 7 → t.param 8 = s.param 8 →
        t.param 9 = s.param 9 →
        OnlyChanges (answering ++ [.params, .portCfg, .groups, .journal]) s1 t) ∧
      LastEntry t .edit
        { port := some (deskPort supervisor), badge := some x.badge
          detail := detail4 first count 0#8 0#8 } ∧
      Replied s1 t (deskPort supervisor) .editParameters tag (done [] []) ∧
      OnlyChanges (answering ++
        [.params, .portCfg, .groups, .loads, .map, .records, .queues, .journal]) s1 t

/-- RESTART clears what the table of R180 clears and keeps the configuration, the time base, the serial
counter, the credentials, the owners and the occurrence numbers. Every queue is emptied and every RESYNC
marker cleared (R97); the HANDOVER notices of the records that were live, one each, then go to the parties and
the supervisor, and at a SILENT port set the marker instead (R96, R163). RESTART TO LOAD leaves a device as
after power-on, but LOADING with the time base kept (R180, R181). The model's own here: log entries 1
and 9, by which the queue of commands is kept and the lines of the frames shifted out are empty after
RESTART TO LOAD, 7 and 29 for the values of a device that holds no configuration, and 13, 16, 23, 25, 28
and 30. -/
def Obligations.RestartsClear : Prop :=
  ∀ (tag : Byte) (x : Session) (s : State), Supervisor s x .engineer →
    let p := deskPort supervisor
    let s1 := actingAt s supervisor
    (∃ t, exec (.restart p tag []) s = .next t ∧
      (∀ i, t.point i = (s.point i).map (fun q =>
        { Point.fresh q.cfg with occ := q.occ, raiseSerial := s.serial, inService := q.inService })) ∧
      (∀ c, t.channel c = (s.channel c).map (fun q =>
        { kind := q.kind, value := 0, quality := .never, lastReport := none })) ∧
      t.shelf = [] ∧ (∀ a, t.load a = .quiet) ∧ (∀ i, t.record i = none) ∧
      (∀ g, t.group g = (s.group g).map (fun q =>
        { q with state := .isOpen, expiry := none, owed := [] })) ∧
      (∀ d : Desk, t.desk d = .fresh ∧ t.mark d = s.serial ∧ t.horns[d] = false) ∧
      (∀ a, t.area a = (s1.area a).map (fun q =>
        { q with attendance := .unattended, link := none })) ∧
      (∀ q, q ≠ p → t.port q = { s1.port q with slot := none, overrun := false }) ∧
      t.port p =
        { s1.port p with
          overrun := false
          slot := some
            { kind := 0x76#8, tag := tag
              reply := done [] (num16 s1.journal.entries.length ++ num16 s1.liveRecords.length) } } ∧
      t.loadExpiry = some (after s.elapsed (10 * s.param 5)) ∧
      t.sweep =
        { running := true, passStart := s.elapsed, period := 10 * s.param 21
          size := s.points.length, position := 0, firstPass := true } ∧
      t.journal.gap = min 65535 (s1.journal.gap + s1.journal.entries.length) ∧
      (∃ e rest, t.journal.entries = e :: rest ∧ e.kind = .restart ∧ e.port = some p ∧
        e.badge = some x.badge ∧ rest.length = s1.liveRecords.length ∧
        ∀ f ∈ rest, f.kind = .handoverEnd) ∧
      (∀ g, (t.gateway g).role = (s.gateway g).role ∧ (t.gateway g).health = (s.gateway g).health) ∧
      (∀ g, s.primary = some g → (t.gateway g).refresh = true) ∧
      (let told := fun (d : Desk) => allRecords.filterMap (fun i => (s1.record i).bind (fun r =>
          if r.names d = true ∨ d = supervisor then
            some ({ cls := 2, body := .handover (r.endBody i .restarted) } : Notice)
          else none))
       (∀ d : Desk,
         (s.enabled d = false → t.queue d = .empty) ∧
         (s.enabled d = true → (s1.port (deskPort d)).link = .good →
           t.queue d = { entries := told d, resync := false }) ∧
         (s.enabled d = true → (s1.port (deskPort d)).link = .silent →
           t.queue d = { entries := [], resync := !(told d).isEmpty })) ∧
       ((∀ i, s1.record i = none) → ∀ d, t.queue d = .empty)) ∧
      OnlyChanges (answering ++
        [.channels, .points, .shelf, .groups, .loads, .loadExpiry, .sweep, .queues, .marks, .journal,
         .desks, .map, .records, .gateways]) s1 t) ∧
    (∃ t, exec (.restartToLoad p tag []) s = .next t ∧ t.dev = .loading ∧ t.elapsed = s.elapsed ∧
      t.refCycles = s.refCycles ∧ t.offset = s.offset ∧ t.pending = s.pending ∧
      Replied State.reset t p .restartToLoad tag (done [] []) ∧
      (∀ d : Desk, t.horns[d] = false) ∧
      (∀ q : Port, t.attention[q] = decide (q = p)) ∧
      OnlyChanges (answering ++ [.dev, .elapsed, .refCycles, .offset, .pending, .freeCount])
        State.reset t)

/-! ## The block's own timers -/

/-- When the load interval expiry is reached the next is one interval on, and each defined area decays:
L less L·D/256 rounded up, its state evaluated; no other area's load changes (R68, R69). When a FLOOD
area's summary expiry is reached its count becomes 0 and the next expiry is one interval on; a SUMMARY
notice goes out when the count was above 0 (R73). The model's own here: log entry 3. -/
def Obligations.LoadTimersDecayAndSum : Prop :=
  (∀ (e : Time) (s : State), s.loadExpiry = some e → reached s.elapsed e = true →
    ∃ t, exec .loadIntervalExpiry s = .next t ∧
      t.loadExpiry = some (after e (10 * s.param 5)) ∧
      (∀ a, (s.area a).isSome = true →
        let l := (s.load a).load
        let left := l - (l * s.param 4 + 255) / 256
        (t.load a).load = left ∧
        (0 < l → (t.load a).state = s.evalLoad (s.load a).state left) ∧
        (l = 0 → t.load a = s.load a)) ∧
      (∀ a, s.area a = none → t.load a = s.load a) ∧
      OnlyChanges [.loadExpiry, .loads, .map, .records, .queues, .journal, .horns, .attention] s t) ∧
  ∀ (a : Area) (e : Time) (s : State), (s.load a).summaryExpiry = some e → (s.load a).state = .flood →
    reached s.elapsed e = true →
    ∃ t, exec (.summaryExpiry a) s = .next t ∧
      t.load a = { s.load a with
        count := 0, summaryExpiry := some (after e (10 * s.param 11)) } ∧
      (∀ b, b ≠ a → t.load b = s.load b) ∧
      ((s.load a).count = 0 → t.queues = s.queues) ∧
      (0 < (s.load a).count → t.queues = (deliver s
        { cls := 3, body := .summary a (s.load a).count (s.load a).load .flood }
        (s.areaNames a)).queues) ∧
      OnlyChanges [.loads, .queues, .horns, .attention] s t

/-- A due sweep visit moves the position on and checks one point: an UNACK_ACTIVE point whose limit has
passed is escalated with the next serial, a folded one keeps CHATTERING, another loses it; a channel
gone stale becomes STALE and every point bound to it loses its input; a due pass end starts the next
pass (R5, R16, R39, R86, R87, R88, R90, R91). The model's own here: log entries 3 and 27. -/
def Obligations.SweepVisitsPoints : Prop :=
  (∀ (w : Sweep) (i : Nat) (p : Point) (s : State), s.sweep = w → w.running = true → w.position < w.size →
    reached s.elapsed (after w.passStart (w.position * w.period / w.size)) = true →
    s.points[w.position]? = some (i, p) → TablesRise s →
    (∀ y, s.channel p.cfg.channel = some y → s.staleDue y w.firstPass = false) →
    ∃ t q, exec .sweepVisit s = .next t ∧ t.sweep = { w with position := w.position + 1 } ∧
      t.point i = some q ∧ OtherPointsSame s t i ∧
      q.state = p.state ∧ q.occ = p.occ ∧ q.foldSince = false ∧
      (p.foldSince = true → q.chatterCount = p.chatterCount ∧ q.chattering = p.chattering) ∧
      (p.foldSince = false → q.chatterCount = 0 ∧ q.chattering = false) ∧
      (s.escalationDue p = true → q.escalated = true ∧ q.escSerial = some (s.serial + 1) ∧
        t.serial = s.serial + 1) ∧
      (s.escalationDue p = false → q.escalated = p.escalated ∧ q.escSerial = p.escSerial ∧
        t.serial = s.serial) ∧
      t.channels = s.channels ∧
      OnlyChanges [.sweep, .points, .serial, .groups, .records, .queues, .horns, .attention] s t) ∧
  (∀ (w : Sweep) (i : Nat) (p : Point) (y : Channel) (s : State), s.sweep = w →
    w.running = true → w.position < w.size →
    reached s.elapsed (after w.passStart (w.position * w.period / w.size)) = true →
    s.points[w.position]? = some (i, p) → TablesRise s → s.channel p.cfg.channel = some y →
    s.staleDue y w.firstPass = true →
    ∃ t, exec .sweepVisit s = .next t ∧
      t.channel p.cfg.channel = some { y with quality := .stale } ∧
      (∀ c, c ≠ p.cfg.channel → t.channel c = s.channel c) ∧
      (∀ j b, s.point j = some b → b.cfg.channel = p.cfg.channel →
        ∃ q, t.point j = some q ∧ q.cond = .unknown ∧ q.pendingPart = none ∧ q.badInput = true ∧
          q.state = b.state) ∧
      (∀ j b, s.point j = some b → b.cfg.channel ≠ p.cfg.channel → t.point j = some b)) ∧
  ∀ (w : Sweep) (s : State), s.sweep = w → w.running = true → w.size ≤ w.position →
    reached s.elapsed (after w.passStart w.period) = true →
    ∃ t, exec .passEnd s = .next t ∧
      t.sweep =
        { running := true, passStart := s.elapsed, period := 10 * s.param 21
          size := s.points.length, position := 0, firstPass := false } ∧
      OnlyChanges [.sweep, .horns, .attention] s t

/-- A port whose liveness expiry is reached is SILENT: a session it holds ends, attendance follows and
the owners stay (R141, R169); a gateway in DOUBT whose expiry is reached is GOOD with an empty history
(R170). A port that is heard has its last heard and liveness expiry moved on, by parameter 27 at ports 0
to 6 and 28 at ports 7 and 8, and is GOOD; a return from SILENT re-derives attendance at a desk, and a
gateway in ABSENT becomes GOOD in health (R169, R170). The model's own here: log entries 3, 15 and 23. -/
def Obligations.PortsFallSilent : Prop :=
  (∀ (d : Desk) (e : Time) (s : State), (s.port (deskPort d)).liveness = some e →
    reached s.elapsed e = true →
    ∃ t, exec (.livenessExpiry (deskPort d)) s = .next t ∧
      t.ports = s.ports.set (deskPort d)
        { s.port (deskPort d) with link := .silent, liveness := none } ∧
      t.desk d = { s.desk d with session := none } ∧ OtherDesksSame s t d ∧
      (∀ a r, t.area a = some r → r.attendance = t.deriveAttendance r.owner) ∧
      (∀ a, t.owner a = s.owner a) ∧
      OnlyChanges [.ports, .desks, .map, .records, .queues, .journal, .horns, .attention] s t) ∧
  (∀ (g : Gateway) (e : Time) (s : State), (s.port (gatewayPort g)).liveness = some e →
    reached s.elapsed e = true →
    ∃ t, exec (.livenessExpiry (gatewayPort g)) s = .next t ∧
      t.ports = s.ports.set (gatewayPort g)
        { s.port (gatewayPort g) with link := .silent, liveness := none } ∧
      (s.primary = some g → s.eligible (otherGateway g) = true →
        t.gateway g = { s.gateway g with role := .secondary, refresh := false } ∧
        t.gateway (otherGateway g) =
          { s.gateway (otherGateway g) with role := .primary, refresh := true }) ∧
      (s.primary = some g → s.eligible (otherGateway g) = false → t.gateways = s.gateways) ∧
      (s.primary ≠ some g → s.linkGood (gatewayPort (otherGateway g)) = true →
        (s.gateway (otherGateway g)).health ≠ .failed → t.gateways = s.gateways) ∧
      OnlyChanges [.ports, .gateways, .queues, .journal, .horns, .attention] s t) ∧
  (∀ (p : Port) (s : State), JustHeard s (heardAt s p) p ∧
    ((heardAt s p).port p).slot = (s.port p).slot ∧
    ((heardAt s p).port p).overrun = (s.port p).overrun ∧
    ∀ ev, JustHeard s (beginTransaction s p ev) p) ∧
  (∀ (d : Desk) (s : State),
    let t := heardAt s (deskPort d)
    (∀ ev, beginTransaction s (deskPort d) ev = t) ∧ OwnersSame s t ∧
    OnlyChanges [.ports, .map, .queues, .journal] s t ∧
    ((s.port (deskPort d)).link = .good → OnlyChanges [.ports] s t) ∧
    ((s.port (deskPort d)).link = .silent →
      ∀ a r, t.area a = some r → r.attendance = t.deriveAttendance r.owner)) ∧
  (∀ (g : Gateway) (s : State),
    let x := s.gateway g
    let t := heardAt s (gatewayPort g)
    OnlyChanges [.ports, .gateways, .queues, .journal] s t ∧
    (x.health = .absent → (t.gateway g).health = .good) ∧
    (x.health ≠ .absent → (t.gateway g).health = x.health) ∧
    (t.gateway g).history = x.history ∧ (t.gateway g).doubtExpiry = x.doubtExpiry ∧
    ((s.port (gatewayPort g)).link = .good → x.health ≠ .absent → OnlyChanges [.ports] s t)) ∧
  ∀ (g : Gateway) (e : Time) (s : State), (s.gateway g).health = .doubt →
    (s.gateway g).doubtExpiry = some e → reached s.elapsed e = true →
    ∃ t, exec (.doubtExpiry g) s = .next t ∧ (t.gateway g).health = .good ∧
      (t.gateway g).history = [] ∧ (t.gateway g).doubtExpiry = none ∧
      (s.dev = .running → LastEntry t .gatewayHealth
        { port := some (gatewayPort g), detail := detail4 2#8 1#8 0#8 0#8 }) ∧
      OnlyChanges [.gateways, .queues, .journal, .horns, .attention] s t

/-- No timer acts before its expiry is reached, nor when it has none: the command changes nothing but
the lines derived from the state (R81). The model's own here: log entry 3; 27, by which a pass ends only once
its visits are made, so that the end of a pass waits while visits of it remain; and 16, by which the further
events of a release wait in a list of the group, so that with an empty list none is taken. -/
def Obligations.TimersActOnlyWhenDue : Prop :=
  ∀ s : State,
    let still := fun command => ∃ t, exec command s = .next t ∧ OnlyChanges [.horns, .attention] s t
    let waits := fun (e : Option Time) => ∀ x, e = some x → reached s.elapsed x = false
    (∀ i, (∀ p part, s.point i = some p → p.pendingPart = some part →
      reached s.elapsed part.expiry = false) → still (.pendingExpiry i)) ∧
    ((∀ e rest, s.shelf = e :: rest → reached s.elapsed e.expiry = false) → still .shelveExpiry) ∧
    (∀ g, (∀ x, s.group g = some x → x.state ≠ .releasing ∨ waits x.expiry) →
      still (.releaseExpiry g)) ∧
    (∀ g, (∀ x, s.group g = some x → x.owed = []) → still (.groupMemberReleaseEvent g)) ∧
    (waits s.loadExpiry → still .loadIntervalExpiry) ∧
    (∀ a, ((s.load a).state ≠ .flood ∨ waits (s.load a).summaryExpiry) → still (.summaryExpiry a)) ∧
    ((∀ w, s.sweep = w → w.running = false ∨ w.size ≤ w.position ∨
      reached s.elapsed (after w.passStart (w.position * w.period / w.size)) = false) →
      still .sweepVisit) ∧
    ((∀ w, s.sweep = w → w.running = false ∨ w.position < w.size ∨
      reached s.elapsed (after w.passStart w.period) = false) → still .passEnd) ∧
    (∀ d, (∀ x, (s.desk d).session = some x → x.presence ≠ .active ∨
      reached s.elapsed x.idleExpiry = false) → still (.idleExpiry d)) ∧
    (∀ d, (∀ x, (s.desk d).session = some x → x.presence ≠ .idle ∨
      reached s.elapsed x.absentExpiry = false) → still (.absentExpiry d)) ∧
    (∀ d, waits (s.desk d).lockout → still (.lockoutExpiry d)) ∧
    (∀ b, (∀ c e issuer, s.credential b = some c → c.temporary = some (e, issuer) →
      reached s.elapsed e = false) → still (.credentialExpired b)) ∧
    (∀ i, (∀ r, s.record i = some r → r.state ≠ .offered ∨ waits r.offerExpiry) →
      still (.offerExpiry i)) ∧
    (∀ i, (∀ r, s.record i = some r → r.state ≠ .overlap ∨ waits r.limitExpiry) →
      still (.overlapLimitExpiry i)) ∧
    (∀ p, waits (s.port p).liveness → still (.livenessExpiry p)) ∧
    (∀ g, ((s.gateway g).health ≠ .doubt ∨ waits (s.gateway g).doubtExpiry) →
      still (.doubtExpiry g))
end

