-- ==== Sys2Proof/Laws/State.lean ====
section
/-! SUPPORT. One lemma per field per update of the state: what each write leaves as it was, and what
it reads back. All hold by computation. -/

namespace Sys2Proof.Machine

/-! ### setPort -/

@[simp] theorem setPort_pending (s : State) (p : Port) (x : PortState) : (s.setPort p x).pending = s.pending := rfl
@[simp] theorem setPort_elapsed (s : State) (p : Port) (x : PortState) : (s.setPort p x).elapsed = s.elapsed := rfl
@[simp] theorem setPort_refCycles (s : State) (p : Port) (x : PortState) : (s.setPort p x).refCycles = s.refCycles := rfl
@[simp] theorem setPort_offset (s : State) (p : Port) (x : PortState) : (s.setPort p x).offset = s.offset := rfl
@[simp] theorem setPort_dev (s : State) (p : Port) (x : PortState) : (s.setPort p x).dev = s.dev := rfl
@[simp] theorem setPort_staged (s : State) (p : Port) (x : PortState) : (s.setPort p x).staged = s.staged := rfl
@[simp] theorem setPort_params (s : State) (p : Port) (x : PortState) : (s.setPort p x).params = s.params := rfl
@[simp] theorem setPort_roles (s : State) (p : Port) (x : PortState) : (s.setPort p x).roles = s.roles := rfl
@[simp] theorem setPort_reach (s : State) (p : Port) (x : PortState) : (s.setPort p x).reach = s.reach := rfl
@[simp] theorem setPort_portCfg (s : State) (p : Port) (x : PortState) : (s.setPort p x).portCfg = s.portCfg := rfl
@[simp] theorem setPort_preferred (s : State) (p : Port) (x : PortState) : (s.setPort p x).preferred = s.preferred := rfl
@[simp] theorem setPort_channels (s : State) (p : Port) (x : PortState) : (s.setPort p x).channels = s.channels := rfl
@[simp] theorem setPort_points (s : State) (p : Port) (x : PortState) : (s.setPort p x).points = s.points := rfl
@[simp] theorem setPort_serial (s : State) (p : Port) (x : PortState) : (s.setPort p x).serial = s.serial := rfl
@[simp] theorem setPort_shelf (s : State) (p : Port) (x : PortState) : (s.setPort p x).shelf = s.shelf := rfl
@[simp] theorem setPort_groups (s : State) (p : Port) (x : PortState) : (s.setPort p x).groups = s.groups := rfl
@[simp] theorem setPort_loads (s : State) (p : Port) (x : PortState) : (s.setPort p x).loads = s.loads := rfl
@[simp] theorem setPort_loadExpiry (s : State) (p : Port) (x : PortState) : (s.setPort p x).loadExpiry = s.loadExpiry := rfl
@[simp] theorem setPort_sweep (s : State) (p : Port) (x : PortState) : (s.setPort p x).sweep = s.sweep := rfl
@[simp] theorem setPort_queues (s : State) (p : Port) (x : PortState) : (s.setPort p x).queues = s.queues := rfl
@[simp] theorem setPort_marks (s : State) (p : Port) (x : PortState) : (s.setPort p x).marks = s.marks := rfl
@[simp] theorem setPort_horns (s : State) (p : Port) (x : PortState) : (s.setPort p x).horns = s.horns := rfl
@[simp] theorem setPort_attention (s : State) (p : Port) (x : PortState) : (s.setPort p x).attention = s.attention := rfl
@[simp] theorem setPort_journal (s : State) (p : Port) (x : PortState) : (s.setPort p x).journal = s.journal := rfl
@[simp] theorem setPort_creds (s : State) (p : Port) (x : PortState) : (s.setPort p x).creds = s.creds := rfl
@[simp] theorem setPort_desks (s : State) (p : Port) (x : PortState) : (s.setPort p x).desks = s.desks := rfl
@[simp] theorem setPort_map (s : State) (p : Port) (x : PortState) : (s.setPort p x).map = s.map := rfl
@[simp] theorem setPort_records (s : State) (p : Port) (x : PortState) : (s.setPort p x).records = s.records := rfl
@[simp] theorem setPort_handoverCounter (s : State) (p : Port) (x : PortState) : (s.setPort p x).handoverCounter = s.handoverCounter := rfl
@[simp] theorem setPort_gateways (s : State) (p : Port) (x : PortState) : (s.setPort p x).gateways = s.gateways := rfl
@[simp] theorem setPort_shiftedOut (s : State) (p : Port) (x : PortState) : (s.setPort p x).shiftedOut = s.shiftedOut := rfl
@[simp] theorem setPort_freeCount (s : State) (p : Port) (x : PortState) : (s.setPort p x).freeCount = s.freeCount := rfl
@[simp] theorem setPort_at_gateway (s : State) (p : Port) (x : PortState) (h : Gateway) : (s.setPort p x).gateway h = s.gateway h := rfl
@[simp] theorem setPort_at_desk (s : State) (p : Port) (x : PortState) (e : Desk) : (s.setPort p x).desk e = s.desk e := rfl
@[simp] theorem setPort_at_queue (s : State) (p : Port) (x : PortState) (e : Desk) : (s.setPort p x).queue e = s.queue e := rfl
@[simp] theorem setPort_at_mark (s : State) (p : Port) (x : PortState) (e : Desk) : (s.setPort p x).mark e = s.mark e := rfl
@[simp] theorem setPort_at_area (s : State) (p : Port) (x : PortState) (b : Area) : (s.setPort p x).area b = s.area b := rfl
@[simp] theorem setPort_at_load (s : State) (p : Port) (x : PortState) (b : Area) : (s.setPort p x).load b = s.load b := rfl
@[simp] theorem setPort_at_group (s : State) (p : Port) (x : PortState) (h : GroupIdx) : (s.setPort p x).group h = s.group h := rfl
@[simp] theorem setPort_at_record (s : State) (p : Port) (x : PortState) (j : RecordIdx) : (s.setPort p x).record j = s.record j := rfl
@[simp] theorem setPort_at_point (s : State) (p : Port) (x : PortState) (j : Nat) : (s.setPort p x).point j = s.point j := rfl
@[simp] theorem setPort_at_channel (s : State) (p : Port) (x : PortState) (j : Nat) : (s.setPort p x).channel j = s.channel j := rfl
@[simp] theorem setPort_at_param (s : State) (p : Port) (x : PortState) (m : Fin 29) : (s.setPort p x).param m = s.param m := rfl

/-! ### setGateway -/

@[simp] theorem setGateway_pending (s : State) (g : Gateway) (x : GatewayState) : (s.setGateway g x).pending = s.pending := rfl
@[simp] theorem setGateway_elapsed (s : State) (g : Gateway) (x : GatewayState) : (s.setGateway g x).elapsed = s.elapsed := rfl
@[simp] theorem setGateway_refCycles (s : State) (g : Gateway) (x : GatewayState) : (s.setGateway g x).refCycles = s.refCycles := rfl
@[simp] theorem setGateway_offset (s : State) (g : Gateway) (x : GatewayState) : (s.setGateway g x).offset = s.offset := rfl
@[simp] theorem setGateway_dev (s : State) (g : Gateway) (x : GatewayState) : (s.setGateway g x).dev = s.dev := rfl
@[simp] theorem setGateway_staged (s : State) (g : Gateway) (x : GatewayState) : (s.setGateway g x).staged = s.staged := rfl
@[simp] theorem setGateway_params (s : State) (g : Gateway) (x : GatewayState) : (s.setGateway g x).params = s.params := rfl
@[simp] theorem setGateway_roles (s : State) (g : Gateway) (x : GatewayState) : (s.setGateway g x).roles = s.roles := rfl
@[simp] theorem setGateway_reach (s : State) (g : Gateway) (x : GatewayState) : (s.setGateway g x).reach = s.reach := rfl
@[simp] theorem setGateway_portCfg (s : State) (g : Gateway) (x : GatewayState) : (s.setGateway g x).portCfg = s.portCfg := rfl
@[simp] theorem setGateway_preferred (s : State) (g : Gateway) (x : GatewayState) : (s.setGateway g x).preferred = s.preferred := rfl
@[simp] theorem setGateway_channels (s : State) (g : Gateway) (x : GatewayState) : (s.setGateway g x).channels = s.channels := rfl
@[simp] theorem setGateway_points (s : State) (g : Gateway) (x : GatewayState) : (s.setGateway g x).points = s.points := rfl
@[simp] theorem setGateway_serial (s : State) (g : Gateway) (x : GatewayState) : (s.setGateway g x).serial = s.serial := rfl
@[simp] theorem setGateway_shelf (s : State) (g : Gateway) (x : GatewayState) : (s.setGateway g x).shelf = s.shelf := rfl
@[simp] theorem setGateway_groups (s : State) (g : Gateway) (x : GatewayState) : (s.setGateway g x).groups = s.groups := rfl
@[simp] theorem setGateway_loads (s : State) (g : Gateway) (x : GatewayState) : (s.setGateway g x).loads = s.loads := rfl
@[simp] theorem setGateway_loadExpiry (s : State) (g : Gateway) (x : GatewayState) : (s.setGateway g x).loadExpiry = s.loadExpiry := rfl
@[simp] theorem setGateway_sweep (s : State) (g : Gateway) (x : GatewayState) : (s.setGateway g x).sweep = s.sweep := rfl
@[simp] theorem setGateway_queues (s : State) (g : Gateway) (x : GatewayState) : (s.setGateway g x).queues = s.queues := rfl
@[simp] theorem setGateway_marks (s : State) (g : Gateway) (x : GatewayState) : (s.setGateway g x).marks = s.marks := rfl
@[simp] theorem setGateway_horns (s : State) (g : Gateway) (x : GatewayState) : (s.setGateway g x).horns = s.horns := rfl
@[simp] theorem setGateway_attention (s : State) (g : Gateway) (x : GatewayState) : (s.setGateway g x).attention = s.attention := rfl
@[simp] theorem setGateway_journal (s : State) (g : Gateway) (x : GatewayState) : (s.setGateway g x).journal = s.journal := rfl
@[simp] theorem setGateway_creds (s : State) (g : Gateway) (x : GatewayState) : (s.setGateway g x).creds = s.creds := rfl
@[simp] theorem setGateway_desks (s : State) (g : Gateway) (x : GatewayState) : (s.setGateway g x).desks = s.desks := rfl
@[simp] theorem setGateway_map (s : State) (g : Gateway) (x : GatewayState) : (s.setGateway g x).map = s.map := rfl
@[simp] theorem setGateway_records (s : State) (g : Gateway) (x : GatewayState) : (s.setGateway g x).records = s.records := rfl
@[simp] theorem setGateway_handoverCounter (s : State) (g : Gateway) (x : GatewayState) : (s.setGateway g x).handoverCounter = s.handoverCounter := rfl
@[simp] theorem setGateway_ports (s : State) (g : Gateway) (x : GatewayState) : (s.setGateway g x).ports = s.ports := rfl
@[simp] theorem setGateway_shiftedOut (s : State) (g : Gateway) (x : GatewayState) : (s.setGateway g x).shiftedOut = s.shiftedOut := rfl
@[simp] theorem setGateway_freeCount (s : State) (g : Gateway) (x : GatewayState) : (s.setGateway g x).freeCount = s.freeCount := rfl
@[simp] theorem setGateway_at_port (s : State) (g : Gateway) (x : GatewayState) (q : Port) : (s.setGateway g x).port q = s.port q := rfl
@[simp] theorem setGateway_at_desk (s : State) (g : Gateway) (x : GatewayState) (e : Desk) : (s.setGateway g x).desk e = s.desk e := rfl
@[simp] theorem setGateway_at_queue (s : State) (g : Gateway) (x : GatewayState) (e : Desk) : (s.setGateway g x).queue e = s.queue e := rfl
@[simp] theorem setGateway_at_mark (s : State) (g : Gateway) (x : GatewayState) (e : Desk) : (s.setGateway g x).mark e = s.mark e := rfl
@[simp] theorem setGateway_at_area (s : State) (g : Gateway) (x : GatewayState) (b : Area) : (s.setGateway g x).area b = s.area b := rfl
@[simp] theorem setGateway_at_load (s : State) (g : Gateway) (x : GatewayState) (b : Area) : (s.setGateway g x).load b = s.load b := rfl
@[simp] theorem setGateway_at_group (s : State) (g : Gateway) (x : GatewayState) (h : GroupIdx) : (s.setGateway g x).group h = s.group h := rfl
@[simp] theorem setGateway_at_record (s : State) (g : Gateway) (x : GatewayState) (j : RecordIdx) : (s.setGateway g x).record j = s.record j := rfl
@[simp] theorem setGateway_at_point (s : State) (g : Gateway) (x : GatewayState) (j : Nat) : (s.setGateway g x).point j = s.point j := rfl
@[simp] theorem setGateway_at_channel (s : State) (g : Gateway) (x : GatewayState) (j : Nat) : (s.setGateway g x).channel j = s.channel j := rfl
@[simp] theorem setGateway_at_param (s : State) (g : Gateway) (x : GatewayState) (m : Fin 29) : (s.setGateway g x).param m = s.param m := rfl

/-! ### setDesk -/

@[simp] theorem setDesk_pending (s : State) (d : Desk) (x : DeskState) : (s.setDesk d x).pending = s.pending := rfl
@[simp] theorem setDesk_elapsed (s : State) (d : Desk) (x : DeskState) : (s.setDesk d x).elapsed = s.elapsed := rfl
@[simp] theorem setDesk_refCycles (s : State) (d : Desk) (x : DeskState) : (s.setDesk d x).refCycles = s.refCycles := rfl
@[simp] theorem setDesk_offset (s : State) (d : Desk) (x : DeskState) : (s.setDesk d x).offset = s.offset := rfl
@[simp] theorem setDesk_dev (s : State) (d : Desk) (x : DeskState) : (s.setDesk d x).dev = s.dev := rfl
@[simp] theorem setDesk_staged (s : State) (d : Desk) (x : DeskState) : (s.setDesk d x).staged = s.staged := rfl
@[simp] theorem setDesk_params (s : State) (d : Desk) (x : DeskState) : (s.setDesk d x).params = s.params := rfl
@[simp] theorem setDesk_roles (s : State) (d : Desk) (x : DeskState) : (s.setDesk d x).roles = s.roles := rfl
@[simp] theorem setDesk_reach (s : State) (d : Desk) (x : DeskState) : (s.setDesk d x).reach = s.reach := rfl
@[simp] theorem setDesk_portCfg (s : State) (d : Desk) (x : DeskState) : (s.setDesk d x).portCfg = s.portCfg := rfl
@[simp] theorem setDesk_preferred (s : State) (d : Desk) (x : DeskState) : (s.setDesk d x).preferred = s.preferred := rfl
@[simp] theorem setDesk_channels (s : State) (d : Desk) (x : DeskState) : (s.setDesk d x).channels = s.channels := rfl
@[simp] theorem setDesk_points (s : State) (d : Desk) (x : DeskState) : (s.setDesk d x).points = s.points := rfl
@[simp] theorem setDesk_serial (s : State) (d : Desk) (x : DeskState) : (s.setDesk d x).serial = s.serial := rfl
@[simp] theorem setDesk_shelf (s : State) (d : Desk) (x : DeskState) : (s.setDesk d x).shelf = s.shelf := rfl
@[simp] theorem setDesk_groups (s : State) (d : Desk) (x : DeskState) : (s.setDesk d x).groups = s.groups := rfl
@[simp] theorem setDesk_loads (s : State) (d : Desk) (x : DeskState) : (s.setDesk d x).loads = s.loads := rfl
@[simp] theorem setDesk_loadExpiry (s : State) (d : Desk) (x : DeskState) : (s.setDesk d x).loadExpiry = s.loadExpiry := rfl
@[simp] theorem setDesk_sweep (s : State) (d : Desk) (x : DeskState) : (s.setDesk d x).sweep = s.sweep := rfl
@[simp] theorem setDesk_queues (s : State) (d : Desk) (x : DeskState) : (s.setDesk d x).queues = s.queues := rfl
@[simp] theorem setDesk_marks (s : State) (d : Desk) (x : DeskState) : (s.setDesk d x).marks = s.marks := rfl
@[simp] theorem setDesk_horns (s : State) (d : Desk) (x : DeskState) : (s.setDesk d x).horns = s.horns := rfl
@[simp] theorem setDesk_attention (s : State) (d : Desk) (x : DeskState) : (s.setDesk d x).attention = s.attention := rfl
@[simp] theorem setDesk_journal (s : State) (d : Desk) (x : DeskState) : (s.setDesk d x).journal = s.journal := rfl
@[simp] theorem setDesk_creds (s : State) (d : Desk) (x : DeskState) : (s.setDesk d x).creds = s.creds := rfl
@[simp] theorem setDesk_map (s : State) (d : Desk) (x : DeskState) : (s.setDesk d x).map = s.map := rfl
@[simp] theorem setDesk_records (s : State) (d : Desk) (x : DeskState) : (s.setDesk d x).records = s.records := rfl
@[simp] theorem setDesk_handoverCounter (s : State) (d : Desk) (x : DeskState) : (s.setDesk d x).handoverCounter = s.handoverCounter := rfl
@[simp] theorem setDesk_ports (s : State) (d : Desk) (x : DeskState) : (s.setDesk d x).ports = s.ports := rfl
@[simp] theorem setDesk_gateways (s : State) (d : Desk) (x : DeskState) : (s.setDesk d x).gateways = s.gateways := rfl
@[simp] theorem setDesk_shiftedOut (s : State) (d : Desk) (x : DeskState) : (s.setDesk d x).shiftedOut = s.shiftedOut := rfl
@[simp] theorem setDesk_freeCount (s : State) (d : Desk) (x : DeskState) : (s.setDesk d x).freeCount = s.freeCount := rfl
@[simp] theorem setDesk_at_port (s : State) (d : Desk) (x : DeskState) (q : Port) : (s.setDesk d x).port q = s.port q := rfl
@[simp] theorem setDesk_at_gateway (s : State) (d : Desk) (x : DeskState) (h : Gateway) : (s.setDesk d x).gateway h = s.gateway h := rfl
@[simp] theorem setDesk_at_queue (s : State) (d : Desk) (x : DeskState) (e : Desk) : (s.setDesk d x).queue e = s.queue e := rfl
@[simp] theorem setDesk_at_mark (s : State) (d : Desk) (x : DeskState) (e : Desk) : (s.setDesk d x).mark e = s.mark e := rfl
@[simp] theorem setDesk_at_area (s : State) (d : Desk) (x : DeskState) (b : Area) : (s.setDesk d x).area b = s.area b := rfl
@[simp] theorem setDesk_at_load (s : State) (d : Desk) (x : DeskState) (b : Area) : (s.setDesk d x).load b = s.load b := rfl
@[simp] theorem setDesk_at_group (s : State) (d : Desk) (x : DeskState) (h : GroupIdx) : (s.setDesk d x).group h = s.group h := rfl
@[simp] theorem setDesk_at_record (s : State) (d : Desk) (x : DeskState) (j : RecordIdx) : (s.setDesk d x).record j = s.record j := rfl
@[simp] theorem setDesk_at_point (s : State) (d : Desk) (x : DeskState) (j : Nat) : (s.setDesk d x).point j = s.point j := rfl
@[simp] theorem setDesk_at_channel (s : State) (d : Desk) (x : DeskState) (j : Nat) : (s.setDesk d x).channel j = s.channel j := rfl
@[simp] theorem setDesk_at_param (s : State) (d : Desk) (x : DeskState) (m : Fin 29) : (s.setDesk d x).param m = s.param m := rfl

/-! ### setQueue -/

@[simp] theorem setQueue_pending (s : State) (d : Desk) (x : Queue) : (s.setQueue d x).pending = s.pending := rfl
@[simp] theorem setQueue_elapsed (s : State) (d : Desk) (x : Queue) : (s.setQueue d x).elapsed = s.elapsed := rfl
@[simp] theorem setQueue_refCycles (s : State) (d : Desk) (x : Queue) : (s.setQueue d x).refCycles = s.refCycles := rfl
@[simp] theorem setQueue_offset (s : State) (d : Desk) (x : Queue) : (s.setQueue d x).offset = s.offset := rfl
@[simp] theorem setQueue_dev (s : State) (d : Desk) (x : Queue) : (s.setQueue d x).dev = s.dev := rfl
@[simp] theorem setQueue_staged (s : State) (d : Desk) (x : Queue) : (s.setQueue d x).staged = s.staged := rfl
@[simp] theorem setQueue_params (s : State) (d : Desk) (x : Queue) : (s.setQueue d x).params = s.params := rfl
@[simp] theorem setQueue_roles (s : State) (d : Desk) (x : Queue) : (s.setQueue d x).roles = s.roles := rfl
@[simp] theorem setQueue_reach (s : State) (d : Desk) (x : Queue) : (s.setQueue d x).reach = s.reach := rfl
@[simp] theorem setQueue_portCfg (s : State) (d : Desk) (x : Queue) : (s.setQueue d x).portCfg = s.portCfg := rfl
@[simp] theorem setQueue_preferred (s : State) (d : Desk) (x : Queue) : (s.setQueue d x).preferred = s.preferred := rfl
@[simp] theorem setQueue_channels (s : State) (d : Desk) (x : Queue) : (s.setQueue d x).channels = s.channels := rfl
@[simp] theorem setQueue_points (s : State) (d : Desk) (x : Queue) : (s.setQueue d x).points = s.points := rfl
@[simp] theorem setQueue_serial (s : State) (d : Desk) (x : Queue) : (s.setQueue d x).serial = s.serial := rfl
@[simp] theorem setQueue_shelf (s : State) (d : Desk) (x : Queue) : (s.setQueue d x).shelf = s.shelf := rfl
@[simp] theorem setQueue_groups (s : State) (d : Desk) (x : Queue) : (s.setQueue d x).groups = s.groups := rfl
@[simp] theorem setQueue_loads (s : State) (d : Desk) (x : Queue) : (s.setQueue d x).loads = s.loads := rfl
@[simp] theorem setQueue_loadExpiry (s : State) (d : Desk) (x : Queue) : (s.setQueue d x).loadExpiry = s.loadExpiry := rfl
@[simp] theorem setQueue_sweep (s : State) (d : Desk) (x : Queue) : (s.setQueue d x).sweep = s.sweep := rfl
@[simp] theorem setQueue_marks (s : State) (d : Desk) (x : Queue) : (s.setQueue d x).marks = s.marks := rfl
@[simp] theorem setQueue_horns (s : State) (d : Desk) (x : Queue) : (s.setQueue d x).horns = s.horns := rfl
@[simp] theorem setQueue_attention (s : State) (d : Desk) (x : Queue) : (s.setQueue d x).attention = s.attention := rfl
@[simp] theorem setQueue_journal (s : State) (d : Desk) (x : Queue) : (s.setQueue d x).journal = s.journal := rfl
@[simp] theorem setQueue_creds (s : State) (d : Desk) (x : Queue) : (s.setQueue d x).creds = s.creds := rfl
@[simp] theorem setQueue_desks (s : State) (d : Desk) (x : Queue) : (s.setQueue d x).desks = s.desks := rfl
@[simp] theorem setQueue_map (s : State) (d : Desk) (x : Queue) : (s.setQueue d x).map = s.map := rfl
@[simp] theorem setQueue_records (s : State) (d : Desk) (x : Queue) : (s.setQueue d x).records = s.records := rfl
@[simp] theorem setQueue_handoverCounter (s : State) (d : Desk) (x : Queue) : (s.setQueue d x).handoverCounter = s.handoverCounter := rfl
@[simp] theorem setQueue_ports (s : State) (d : Desk) (x : Queue) : (s.setQueue d x).ports = s.ports := rfl
@[simp] theorem setQueue_gateways (s : State) (d : Desk) (x : Queue) : (s.setQueue d x).gateways = s.gateways := rfl
@[simp] theorem setQueue_shiftedOut (s : State) (d : Desk) (x : Queue) : (s.setQueue d x).shiftedOut = s.shiftedOut := rfl
@[simp] theorem setQueue_freeCount (s : State) (d : Desk) (x : Queue) : (s.setQueue d x).freeCount = s.freeCount := rfl
@[simp] theorem setQueue_at_port (s : State) (d : Desk) (x : Queue) (q : Port) : (s.setQueue d x).port q = s.port q := rfl
@[simp] theorem setQueue_at_gateway (s : State) (d : Desk) (x : Queue) (h : Gateway) : (s.setQueue d x).gateway h = s.gateway h := rfl
@[simp] theorem setQueue_at_desk (s : State) (d : Desk) (x : Queue) (e : Desk) : (s.setQueue d x).desk e = s.desk e := rfl
@[simp] theorem setQueue_at_mark (s : State) (d : Desk) (x : Queue) (e : Desk) : (s.setQueue d x).mark e = s.mark e := rfl
@[simp] theorem setQueue_at_area (s : State) (d : Desk) (x : Queue) (b : Area) : (s.setQueue d x).area b = s.area b := rfl
@[simp] theorem setQueue_at_load (s : State) (d : Desk) (x : Queue) (b : Area) : (s.setQueue d x).load b = s.load b := rfl
@[simp] theorem setQueue_at_group (s : State) (d : Desk) (x : Queue) (h : GroupIdx) : (s.setQueue d x).group h = s.group h := rfl
@[simp] theorem setQueue_at_record (s : State) (d : Desk) (x : Queue) (j : RecordIdx) : (s.setQueue d x).record j = s.record j := rfl
@[simp] theorem setQueue_at_point (s : State) (d : Desk) (x : Queue) (j : Nat) : (s.setQueue d x).point j = s.point j := rfl
@[simp] theorem setQueue_at_channel (s : State) (d : Desk) (x : Queue) (j : Nat) : (s.setQueue d x).channel j = s.channel j := rfl
@[simp] theorem setQueue_at_param (s : State) (d : Desk) (x : Queue) (m : Fin 29) : (s.setQueue d x).param m = s.param m := rfl

/-! ### setMark -/

@[simp] theorem setMark_pending (s : State) (d : Desk) (x : Word32) : (s.setMark d x).pending = s.pending := rfl
@[simp] theorem setMark_elapsed (s : State) (d : Desk) (x : Word32) : (s.setMark d x).elapsed = s.elapsed := rfl
@[simp] theorem setMark_refCycles (s : State) (d : Desk) (x : Word32) : (s.setMark d x).refCycles = s.refCycles := rfl
@[simp] theorem setMark_offset (s : State) (d : Desk) (x : Word32) : (s.setMark d x).offset = s.offset := rfl
@[simp] theorem setMark_dev (s : State) (d : Desk) (x : Word32) : (s.setMark d x).dev = s.dev := rfl
@[simp] theorem setMark_staged (s : State) (d : Desk) (x : Word32) : (s.setMark d x).staged = s.staged := rfl
@[simp] theorem setMark_params (s : State) (d : Desk) (x : Word32) : (s.setMark d x).params = s.params := rfl
@[simp] theorem setMark_roles (s : State) (d : Desk) (x : Word32) : (s.setMark d x).roles = s.roles := rfl
@[simp] theorem setMark_reach (s : State) (d : Desk) (x : Word32) : (s.setMark d x).reach = s.reach := rfl
@[simp] theorem setMark_portCfg (s : State) (d : Desk) (x : Word32) : (s.setMark d x).portCfg = s.portCfg := rfl
@[simp] theorem setMark_preferred (s : State) (d : Desk) (x : Word32) : (s.setMark d x).preferred = s.preferred := rfl
@[simp] theorem setMark_channels (s : State) (d : Desk) (x : Word32) : (s.setMark d x).channels = s.channels := rfl
@[simp] theorem setMark_points (s : State) (d : Desk) (x : Word32) : (s.setMark d x).points = s.points := rfl
@[simp] theorem setMark_serial (s : State) (d : Desk) (x : Word32) : (s.setMark d x).serial = s.serial := rfl
@[simp] theorem setMark_shelf (s : State) (d : Desk) (x : Word32) : (s.setMark d x).shelf = s.shelf := rfl
@[simp] theorem setMark_groups (s : State) (d : Desk) (x : Word32) : (s.setMark d x).groups = s.groups := rfl
@[simp] theorem setMark_loads (s : State) (d : Desk) (x : Word32) : (s.setMark d x).loads = s.loads := rfl
@[simp] theorem setMark_loadExpiry (s : State) (d : Desk) (x : Word32) : (s.setMark d x).loadExpiry = s.loadExpiry := rfl
@[simp] theorem setMark_sweep (s : State) (d : Desk) (x : Word32) : (s.setMark d x).sweep = s.sweep := rfl
@[simp] theorem setMark_queues (s : State) (d : Desk) (x : Word32) : (s.setMark d x).queues = s.queues := rfl
@[simp] theorem setMark_horns (s : State) (d : Desk) (x : Word32) : (s.setMark d x).horns = s.horns := rfl
@[simp] theorem setMark_attention (s : State) (d : Desk) (x : Word32) : (s.setMark d x).attention = s.attention := rfl
@[simp] theorem setMark_journal (s : State) (d : Desk) (x : Word32) : (s.setMark d x).journal = s.journal := rfl
@[simp] theorem setMark_creds (s : State) (d : Desk) (x : Word32) : (s.setMark d x).creds = s.creds := rfl
@[simp] theorem setMark_desks (s : State) (d : Desk) (x : Word32) : (s.setMark d x).desks = s.desks := rfl
@[simp] theorem setMark_map (s : State) (d : Desk) (x : Word32) : (s.setMark d x).map = s.map := rfl
@[simp] theorem setMark_records (s : State) (d : Desk) (x : Word32) : (s.setMark d x).records = s.records := rfl
@[simp] theorem setMark_handoverCounter (s : State) (d : Desk) (x : Word32) : (s.setMark d x).handoverCounter = s.handoverCounter := rfl
@[simp] theorem setMark_ports (s : State) (d : Desk) (x : Word32) : (s.setMark d x).ports = s.ports := rfl
@[simp] theorem setMark_gateways (s : State) (d : Desk) (x : Word32) : (s.setMark d x).gateways = s.gateways := rfl
@[simp] theorem setMark_shiftedOut (s : State) (d : Desk) (x : Word32) : (s.setMark d x).shiftedOut = s.shiftedOut := rfl
@[simp] theorem setMark_freeCount (s : State) (d : Desk) (x : Word32) : (s.setMark d x).freeCount = s.freeCount := rfl
@[simp] theorem setMark_at_port (s : State) (d : Desk) (x : Word32) (q : Port) : (s.setMark d x).port q = s.port q := rfl
@[simp] theorem setMark_at_gateway (s : State) (d : Desk) (x : Word32) (h : Gateway) : (s.setMark d x).gateway h = s.gateway h := rfl
@[simp] theorem setMark_at_desk (s : State) (d : Desk) (x : Word32) (e : Desk) : (s.setMark d x).desk e = s.desk e := rfl
@[simp] theorem setMark_at_queue (s : State) (d : Desk) (x : Word32) (e : Desk) : (s.setMark d x).queue e = s.queue e := rfl
@[simp] theorem setMark_at_area (s : State) (d : Desk) (x : Word32) (b : Area) : (s.setMark d x).area b = s.area b := rfl
@[simp] theorem setMark_at_load (s : State) (d : Desk) (x : Word32) (b : Area) : (s.setMark d x).load b = s.load b := rfl
@[simp] theorem setMark_at_group (s : State) (d : Desk) (x : Word32) (h : GroupIdx) : (s.setMark d x).group h = s.group h := rfl
@[simp] theorem setMark_at_record (s : State) (d : Desk) (x : Word32) (j : RecordIdx) : (s.setMark d x).record j = s.record j := rfl
@[simp] theorem setMark_at_point (s : State) (d : Desk) (x : Word32) (j : Nat) : (s.setMark d x).point j = s.point j := rfl
@[simp] theorem setMark_at_channel (s : State) (d : Desk) (x : Word32) (j : Nat) : (s.setMark d x).channel j = s.channel j := rfl
@[simp] theorem setMark_at_param (s : State) (d : Desk) (x : Word32) (m : Fin 29) : (s.setMark d x).param m = s.param m := rfl

/-! ### setArea -/

@[simp] theorem setArea_pending (s : State) (a : Area) (x : AreaRecord) : (s.setArea a x).pending = s.pending := rfl
@[simp] theorem setArea_elapsed (s : State) (a : Area) (x : AreaRecord) : (s.setArea a x).elapsed = s.elapsed := rfl
@[simp] theorem setArea_refCycles (s : State) (a : Area) (x : AreaRecord) : (s.setArea a x).refCycles = s.refCycles := rfl
@[simp] theorem setArea_offset (s : State) (a : Area) (x : AreaRecord) : (s.setArea a x).offset = s.offset := rfl
@[simp] theorem setArea_dev (s : State) (a : Area) (x : AreaRecord) : (s.setArea a x).dev = s.dev := rfl
@[simp] theorem setArea_staged (s : State) (a : Area) (x : AreaRecord) : (s.setArea a x).staged = s.staged := rfl
@[simp] theorem setArea_params (s : State) (a : Area) (x : AreaRecord) : (s.setArea a x).params = s.params := rfl
@[simp] theorem setArea_roles (s : State) (a : Area) (x : AreaRecord) : (s.setArea a x).roles = s.roles := rfl
@[simp] theorem setArea_reach (s : State) (a : Area) (x : AreaRecord) : (s.setArea a x).reach = s.reach := rfl
@[simp] theorem setArea_portCfg (s : State) (a : Area) (x : AreaRecord) : (s.setArea a x).portCfg = s.portCfg := rfl
@[simp] theorem setArea_preferred (s : State) (a : Area) (x : AreaRecord) : (s.setArea a x).preferred = s.preferred := rfl
@[simp] theorem setArea_channels (s : State) (a : Area) (x : AreaRecord) : (s.setArea a x).channels = s.channels := rfl
@[simp] theorem setArea_points (s : State) (a : Area) (x : AreaRecord) : (s.setArea a x).points = s.points := rfl
@[simp] theorem setArea_serial (s : State) (a : Area) (x : AreaRecord) : (s.setArea a x).serial = s.serial := rfl
@[simp] theorem setArea_shelf (s : State) (a : Area) (x : AreaRecord) : (s.setArea a x).shelf = s.shelf := rfl
@[simp] theorem setArea_groups (s : State) (a : Area) (x : AreaRecord) : (s.setArea a x).groups = s.groups := rfl
@[simp] theorem setArea_loads (s : State) (a : Area) (x : AreaRecord) : (s.setArea a x).loads = s.loads := rfl
@[simp] theorem setArea_loadExpiry (s : State) (a : Area) (x : AreaRecord) : (s.setArea a x).loadExpiry = s.loadExpiry := rfl
@[simp] theorem setArea_sweep (s : State) (a : Area) (x : AreaRecord) : (s.setArea a x).sweep = s.sweep := rfl
@[simp] theorem setArea_queues (s : State) (a : Area) (x : AreaRecord) : (s.setArea a x).queues = s.queues := rfl
@[simp] theorem setArea_marks (s : State) (a : Area) (x : AreaRecord) : (s.setArea a x).marks = s.marks := rfl
@[simp] theorem setArea_horns (s : State) (a : Area) (x : AreaRecord) : (s.setArea a x).horns = s.horns := rfl
@[simp] theorem setArea_attention (s : State) (a : Area) (x : AreaRecord) : (s.setArea a x).attention = s.attention := rfl
@[simp] theorem setArea_journal (s : State) (a : Area) (x : AreaRecord) : (s.setArea a x).journal = s.journal := rfl
@[simp] theorem setArea_creds (s : State) (a : Area) (x : AreaRecord) : (s.setArea a x).creds = s.creds := rfl
@[simp] theorem setArea_desks (s : State) (a : Area) (x : AreaRecord) : (s.setArea a x).desks = s.desks := rfl
@[simp] theorem setArea_records (s : State) (a : Area) (x : AreaRecord) : (s.setArea a x).records = s.records := rfl
@[simp] theorem setArea_handoverCounter (s : State) (a : Area) (x : AreaRecord) : (s.setArea a x).handoverCounter = s.handoverCounter := rfl
@[simp] theorem setArea_ports (s : State) (a : Area) (x : AreaRecord) : (s.setArea a x).ports = s.ports := rfl
@[simp] theorem setArea_gateways (s : State) (a : Area) (x : AreaRecord) : (s.setArea a x).gateways = s.gateways := rfl
@[simp] theorem setArea_shiftedOut (s : State) (a : Area) (x : AreaRecord) : (s.setArea a x).shiftedOut = s.shiftedOut := rfl
@[simp] theorem setArea_freeCount (s : State) (a : Area) (x : AreaRecord) : (s.setArea a x).freeCount = s.freeCount := rfl
@[simp] theorem setArea_at_port (s : State) (a : Area) (x : AreaRecord) (q : Port) : (s.setArea a x).port q = s.port q := rfl
@[simp] theorem setArea_at_gateway (s : State) (a : Area) (x : AreaRecord) (h : Gateway) : (s.setArea a x).gateway h = s.gateway h := rfl
@[simp] theorem setArea_at_desk (s : State) (a : Area) (x : AreaRecord) (e : Desk) : (s.setArea a x).desk e = s.desk e := rfl
@[simp] theorem setArea_at_queue (s : State) (a : Area) (x : AreaRecord) (e : Desk) : (s.setArea a x).queue e = s.queue e := rfl
@[simp] theorem setArea_at_mark (s : State) (a : Area) (x : AreaRecord) (e : Desk) : (s.setArea a x).mark e = s.mark e := rfl
@[simp] theorem setArea_at_load (s : State) (a : Area) (x : AreaRecord) (b : Area) : (s.setArea a x).load b = s.load b := rfl
@[simp] theorem setArea_at_group (s : State) (a : Area) (x : AreaRecord) (h : GroupIdx) : (s.setArea a x).group h = s.group h := rfl
@[simp] theorem setArea_at_record (s : State) (a : Area) (x : AreaRecord) (j : RecordIdx) : (s.setArea a x).record j = s.record j := rfl
@[simp] theorem setArea_at_point (s : State) (a : Area) (x : AreaRecord) (j : Nat) : (s.setArea a x).point j = s.point j := rfl
@[simp] theorem setArea_at_channel (s : State) (a : Area) (x : AreaRecord) (j : Nat) : (s.setArea a x).channel j = s.channel j := rfl
@[simp] theorem setArea_at_param (s : State) (a : Area) (x : AreaRecord) (m : Fin 29) : (s.setArea a x).param m = s.param m := rfl

/-! ### setLoad -/

@[simp] theorem setLoad_pending (s : State) (a : Area) (x : AreaLoad) : (s.setLoad a x).pending = s.pending := rfl
@[simp] theorem setLoad_elapsed (s : State) (a : Area) (x : AreaLoad) : (s.setLoad a x).elapsed = s.elapsed := rfl
@[simp] theorem setLoad_refCycles (s : State) (a : Area) (x : AreaLoad) : (s.setLoad a x).refCycles = s.refCycles := rfl
@[simp] theorem setLoad_offset (s : State) (a : Area) (x : AreaLoad) : (s.setLoad a x).offset = s.offset := rfl
@[simp] theorem setLoad_dev (s : State) (a : Area) (x : AreaLoad) : (s.setLoad a x).dev = s.dev := rfl
@[simp] theorem setLoad_staged (s : State) (a : Area) (x : AreaLoad) : (s.setLoad a x).staged = s.staged := rfl
@[simp] theorem setLoad_params (s : State) (a : Area) (x : AreaLoad) : (s.setLoad a x).params = s.params := rfl
@[simp] theorem setLoad_roles (s : State) (a : Area) (x : AreaLoad) : (s.setLoad a x).roles = s.roles := rfl
@[simp] theorem setLoad_reach (s : State) (a : Area) (x : AreaLoad) : (s.setLoad a x).reach = s.reach := rfl
@[simp] theorem setLoad_portCfg (s : State) (a : Area) (x : AreaLoad) : (s.setLoad a x).portCfg = s.portCfg := rfl
@[simp] theorem setLoad_preferred (s : State) (a : Area) (x : AreaLoad) : (s.setLoad a x).preferred = s.preferred := rfl
@[simp] theorem setLoad_channels (s : State) (a : Area) (x : AreaLoad) : (s.setLoad a x).channels = s.channels := rfl
@[simp] theorem setLoad_points (s : State) (a : Area) (x : AreaLoad) : (s.setLoad a x).points = s.points := rfl
@[simp] theorem setLoad_serial (s : State) (a : Area) (x : AreaLoad) : (s.setLoad a x).serial = s.serial := rfl
@[simp] theorem setLoad_shelf (s : State) (a : Area) (x : AreaLoad) : (s.setLoad a x).shelf = s.shelf := rfl
@[simp] theorem setLoad_groups (s : State) (a : Area) (x : AreaLoad) : (s.setLoad a x).groups = s.groups := rfl
@[simp] theorem setLoad_loadExpiry (s : State) (a : Area) (x : AreaLoad) : (s.setLoad a x).loadExpiry = s.loadExpiry := rfl
@[simp] theorem setLoad_sweep (s : State) (a : Area) (x : AreaLoad) : (s.setLoad a x).sweep = s.sweep := rfl
@[simp] theorem setLoad_queues (s : State) (a : Area) (x : AreaLoad) : (s.setLoad a x).queues = s.queues := rfl
@[simp] theorem setLoad_marks (s : State) (a : Area) (x : AreaLoad) : (s.setLoad a x).marks = s.marks := rfl
@[simp] theorem setLoad_horns (s : State) (a : Area) (x : AreaLoad) : (s.setLoad a x).horns = s.horns := rfl
@[simp] theorem setLoad_attention (s : State) (a : Area) (x : AreaLoad) : (s.setLoad a x).attention = s.attention := rfl
@[simp] theorem setLoad_journal (s : State) (a : Area) (x : AreaLoad) : (s.setLoad a x).journal = s.journal := rfl
@[simp] theorem setLoad_creds (s : State) (a : Area) (x : AreaLoad) : (s.setLoad a x).creds = s.creds := rfl
@[simp] theorem setLoad_desks (s : State) (a : Area) (x : AreaLoad) : (s.setLoad a x).desks = s.desks := rfl
@[simp] theorem setLoad_map (s : State) (a : Area) (x : AreaLoad) : (s.setLoad a x).map = s.map := rfl
@[simp] theorem setLoad_records (s : State) (a : Area) (x : AreaLoad) : (s.setLoad a x).records = s.records := rfl
@[simp] theorem setLoad_handoverCounter (s : State) (a : Area) (x : AreaLoad) : (s.setLoad a x).handoverCounter = s.handoverCounter := rfl
@[simp] theorem setLoad_ports (s : State) (a : Area) (x : AreaLoad) : (s.setLoad a x).ports = s.ports := rfl
@[simp] theorem setLoad_gateways (s : State) (a : Area) (x : AreaLoad) : (s.setLoad a x).gateways = s.gateways := rfl
@[simp] theorem setLoad_shiftedOut (s : State) (a : Area) (x : AreaLoad) : (s.setLoad a x).shiftedOut = s.shiftedOut := rfl
@[simp] theorem setLoad_freeCount (s : State) (a : Area) (x : AreaLoad) : (s.setLoad a x).freeCount = s.freeCount := rfl
@[simp] theorem setLoad_at_port (s : State) (a : Area) (x : AreaLoad) (q : Port) : (s.setLoad a x).port q = s.port q := rfl
@[simp] theorem setLoad_at_gateway (s : State) (a : Area) (x : AreaLoad) (h : Gateway) : (s.setLoad a x).gateway h = s.gateway h := rfl
@[simp] theorem setLoad_at_desk (s : State) (a : Area) (x : AreaLoad) (e : Desk) : (s.setLoad a x).desk e = s.desk e := rfl
@[simp] theorem setLoad_at_queue (s : State) (a : Area) (x : AreaLoad) (e : Desk) : (s.setLoad a x).queue e = s.queue e := rfl
@[simp] theorem setLoad_at_mark (s : State) (a : Area) (x : AreaLoad) (e : Desk) : (s.setLoad a x).mark e = s.mark e := rfl
@[simp] theorem setLoad_at_area (s : State) (a : Area) (x : AreaLoad) (b : Area) : (s.setLoad a x).area b = s.area b := rfl
@[simp] theorem setLoad_at_group (s : State) (a : Area) (x : AreaLoad) (h : GroupIdx) : (s.setLoad a x).group h = s.group h := rfl
@[simp] theorem setLoad_at_record (s : State) (a : Area) (x : AreaLoad) (j : RecordIdx) : (s.setLoad a x).record j = s.record j := rfl
@[simp] theorem setLoad_at_point (s : State) (a : Area) (x : AreaLoad) (j : Nat) : (s.setLoad a x).point j = s.point j := rfl
@[simp] theorem setLoad_at_channel (s : State) (a : Area) (x : AreaLoad) (j : Nat) : (s.setLoad a x).channel j = s.channel j := rfl
@[simp] theorem setLoad_at_param (s : State) (a : Area) (x : AreaLoad) (m : Fin 29) : (s.setLoad a x).param m = s.param m := rfl

/-! ### setGroup -/

@[simp] theorem setGroup_pending (s : State) (g : GroupIdx) (x : Group) : (s.setGroup g x).pending = s.pending := rfl
@[simp] theorem setGroup_elapsed (s : State) (g : GroupIdx) (x : Group) : (s.setGroup g x).elapsed = s.elapsed := rfl
@[simp] theorem setGroup_refCycles (s : State) (g : GroupIdx) (x : Group) : (s.setGroup g x).refCycles = s.refCycles := rfl
@[simp] theorem setGroup_offset (s : State) (g : GroupIdx) (x : Group) : (s.setGroup g x).offset = s.offset := rfl
@[simp] theorem setGroup_dev (s : State) (g : GroupIdx) (x : Group) : (s.setGroup g x).dev = s.dev := rfl
@[simp] theorem setGroup_staged (s : State) (g : GroupIdx) (x : Group) : (s.setGroup g x).staged = s.staged := rfl
@[simp] theorem setGroup_params (s : State) (g : GroupIdx) (x : Group) : (s.setGroup g x).params = s.params := rfl
@[simp] theorem setGroup_roles (s : State) (g : GroupIdx) (x : Group) : (s.setGroup g x).roles = s.roles := rfl
@[simp] theorem setGroup_reach (s : State) (g : GroupIdx) (x : Group) : (s.setGroup g x).reach = s.reach := rfl
@[simp] theorem setGroup_portCfg (s : State) (g : GroupIdx) (x : Group) : (s.setGroup g x).portCfg = s.portCfg := rfl
@[simp] theorem setGroup_preferred (s : State) (g : GroupIdx) (x : Group) : (s.setGroup g x).preferred = s.preferred := rfl
@[simp] theorem setGroup_channels (s : State) (g : GroupIdx) (x : Group) : (s.setGroup g x).channels = s.channels := rfl
@[simp] theorem setGroup_points (s : State) (g : GroupIdx) (x : Group) : (s.setGroup g x).points = s.points := rfl
@[simp] theorem setGroup_serial (s : State) (g : GroupIdx) (x : Group) : (s.setGroup g x).serial = s.serial := rfl
@[simp] theorem setGroup_shelf (s : State) (g : GroupIdx) (x : Group) : (s.setGroup g x).shelf = s.shelf := rfl
@[simp] theorem setGroup_loads (s : State) (g : GroupIdx) (x : Group) : (s.setGroup g x).loads = s.loads := rfl
@[simp] theorem setGroup_loadExpiry (s : State) (g : GroupIdx) (x : Group) : (s.setGroup g x).loadExpiry = s.loadExpiry := rfl
@[simp] theorem setGroup_sweep (s : State) (g : GroupIdx) (x : Group) : (s.setGroup g x).sweep = s.sweep := rfl
@[simp] theorem setGroup_queues (s : State) (g : GroupIdx) (x : Group) : (s.setGroup g x).queues = s.queues := rfl
@[simp] theorem setGroup_marks (s : State) (g : GroupIdx) (x : Group) : (s.setGroup g x).marks = s.marks := rfl
@[simp] theorem setGroup_horns (s : State) (g : GroupIdx) (x : Group) : (s.setGroup g x).horns = s.horns := rfl
@[simp] theorem setGroup_attention (s : State) (g : GroupIdx) (x : Group) : (s.setGroup g x).attention = s.attention := rfl
@[simp] theorem setGroup_journal (s : State) (g : GroupIdx) (x : Group) : (s.setGroup g x).journal = s.journal := rfl
@[simp] theorem setGroup_creds (s : State) (g : GroupIdx) (x : Group) : (s.setGroup g x).creds = s.creds := rfl
@[simp] theorem setGroup_desks (s : State) (g : GroupIdx) (x : Group) : (s.setGroup g x).desks = s.desks := rfl
@[simp] theorem setGroup_map (s : State) (g : GroupIdx) (x : Group) : (s.setGroup g x).map = s.map := rfl
@[simp] theorem setGroup_records (s : State) (g : GroupIdx) (x : Group) : (s.setGroup g x).records = s.records := rfl
@[simp] theorem setGroup_handoverCounter (s : State) (g : GroupIdx) (x : Group) : (s.setGroup g x).handoverCounter = s.handoverCounter := rfl
@[simp] theorem setGroup_ports (s : State) (g : GroupIdx) (x : Group) : (s.setGroup g x).ports = s.ports := rfl
@[simp] theorem setGroup_gateways (s : State) (g : GroupIdx) (x : Group) : (s.setGroup g x).gateways = s.gateways := rfl
@[simp] theorem setGroup_shiftedOut (s : State) (g : GroupIdx) (x : Group) : (s.setGroup g x).shiftedOut = s.shiftedOut := rfl
@[simp] theorem setGroup_freeCount (s : State) (g : GroupIdx) (x : Group) : (s.setGroup g x).freeCount = s.freeCount := rfl
@[simp] theorem setGroup_at_port (s : State) (g : GroupIdx) (x : Group) (q : Port) : (s.setGroup g x).port q = s.port q := rfl
@[simp] theorem setGroup_at_gateway (s : State) (g : GroupIdx) (x : Group) (h : Gateway) : (s.setGroup g x).gateway h = s.gateway h := rfl
@[simp] theorem setGroup_at_desk (s : State) (g : GroupIdx) (x : Group) (e : Desk) : (s.setGroup g x).desk e = s.desk e := rfl
@[simp] theorem setGroup_at_queue (s : State) (g : GroupIdx) (x : Group) (e : Desk) : (s.setGroup g x).queue e = s.queue e := rfl
@[simp] theorem setGroup_at_mark (s : State) (g : GroupIdx) (x : Group) (e : Desk) : (s.setGroup g x).mark e = s.mark e := rfl
@[simp] theorem setGroup_at_area (s : State) (g : GroupIdx) (x : Group) (b : Area) : (s.setGroup g x).area b = s.area b := rfl
@[simp] theorem setGroup_at_load (s : State) (g : GroupIdx) (x : Group) (b : Area) : (s.setGroup g x).load b = s.load b := rfl
@[simp] theorem setGroup_at_record (s : State) (g : GroupIdx) (x : Group) (j : RecordIdx) : (s.setGroup g x).record j = s.record j := rfl
@[simp] theorem setGroup_at_point (s : State) (g : GroupIdx) (x : Group) (j : Nat) : (s.setGroup g x).point j = s.point j := rfl
@[simp] theorem setGroup_at_channel (s : State) (g : GroupIdx) (x : Group) (j : Nat) : (s.setGroup g x).channel j = s.channel j := rfl
@[simp] theorem setGroup_at_param (s : State) (g : GroupIdx) (x : Group) (m : Fin 29) : (s.setGroup g x).param m = s.param m := rfl

/-! ### setRecord -/

@[simp] theorem setRecord_pending (s : State) (i : RecordIdx) (x : Option Record) : (s.setRecord i x).pending = s.pending := rfl
@[simp] theorem setRecord_elapsed (s : State) (i : RecordIdx) (x : Option Record) : (s.setRecord i x).elapsed = s.elapsed := rfl
@[simp] theorem setRecord_refCycles (s : State) (i : RecordIdx) (x : Option Record) : (s.setRecord i x).refCycles = s.refCycles := rfl
@[simp] theorem setRecord_offset (s : State) (i : RecordIdx) (x : Option Record) : (s.setRecord i x).offset = s.offset := rfl
@[simp] theorem setRecord_dev (s : State) (i : RecordIdx) (x : Option Record) : (s.setRecord i x).dev = s.dev := rfl
@[simp] theorem setRecord_staged (s : State) (i : RecordIdx) (x : Option Record) : (s.setRecord i x).staged = s.staged := rfl
@[simp] theorem setRecord_params (s : State) (i : RecordIdx) (x : Option Record) : (s.setRecord i x).params = s.params := rfl
@[simp] theorem setRecord_roles (s : State) (i : RecordIdx) (x : Option Record) : (s.setRecord i x).roles = s.roles := rfl
@[simp] theorem setRecord_reach (s : State) (i : RecordIdx) (x : Option Record) : (s.setRecord i x).reach = s.reach := rfl
@[simp] theorem setRecord_portCfg (s : State) (i : RecordIdx) (x : Option Record) : (s.setRecord i x).portCfg = s.portCfg := rfl
@[simp] theorem setRecord_preferred (s : State) (i : RecordIdx) (x : Option Record) : (s.setRecord i x).preferred = s.preferred := rfl
@[simp] theorem setRecord_channels (s : State) (i : RecordIdx) (x : Option Record) : (s.setRecord i x).channels = s.channels := rfl
@[simp] theorem setRecord_points (s : State) (i : RecordIdx) (x : Option Record) : (s.setRecord i x).points = s.points := rfl
@[simp] theorem setRecord_serial (s : State) (i : RecordIdx) (x : Option Record) : (s.setRecord i x).serial = s.serial := rfl
@[simp] theorem setRecord_shelf (s : State) (i : RecordIdx) (x : Option Record) : (s.setRecord i x).shelf = s.shelf := rfl
@[simp] theorem setRecord_groups (s : State) (i : RecordIdx) (x : Option Record) : (s.setRecord i x).groups = s.groups := rfl
@[simp] theorem setRecord_loads (s : State) (i : RecordIdx) (x : Option Record) : (s.setRecord i x).loads = s.loads := rfl
@[simp] theorem setRecord_loadExpiry (s : State) (i : RecordIdx) (x : Option Record) : (s.setRecord i x).loadExpiry = s.loadExpiry := rfl
@[simp] theorem setRecord_sweep (s : State) (i : RecordIdx) (x : Option Record) : (s.setRecord i x).sweep = s.sweep := rfl
@[simp] theorem setRecord_queues (s : State) (i : RecordIdx) (x : Option Record) : (s.setRecord i x).queues = s.queues := rfl
@[simp] theorem setRecord_marks (s : State) (i : RecordIdx) (x : Option Record) : (s.setRecord i x).marks = s.marks := rfl
@[simp] theorem setRecord_horns (s : State) (i : RecordIdx) (x : Option Record) : (s.setRecord i x).horns = s.horns := rfl
@[simp] theorem setRecord_attention (s : State) (i : RecordIdx) (x : Option Record) : (s.setRecord i x).attention = s.attention := rfl
@[simp] theorem setRecord_journal (s : State) (i : RecordIdx) (x : Option Record) : (s.setRecord i x).journal = s.journal := rfl
@[simp] theorem setRecord_creds (s : State) (i : RecordIdx) (x : Option Record) : (s.setRecord i x).creds = s.creds := rfl
@[simp] theorem setRecord_desks (s : State) (i : RecordIdx) (x : Option Record) : (s.setRecord i x).desks = s.desks := rfl
@[simp] theorem setRecord_map (s : State) (i : RecordIdx) (x : Option Record) : (s.setRecord i x).map = s.map := rfl
@[simp] theorem setRecord_handoverCounter (s : State) (i : RecordIdx) (x : Option Record) : (s.setRecord i x).handoverCounter = s.handoverCounter := rfl
@[simp] theorem setRecord_ports (s : State) (i : RecordIdx) (x : Option Record) : (s.setRecord i x).ports = s.ports := rfl
@[simp] theorem setRecord_gateways (s : State) (i : RecordIdx) (x : Option Record) : (s.setRecord i x).gateways = s.gateways := rfl
@[simp] theorem setRecord_shiftedOut (s : State) (i : RecordIdx) (x : Option Record) : (s.setRecord i x).shiftedOut = s.shiftedOut := rfl
@[simp] theorem setRecord_freeCount (s : State) (i : RecordIdx) (x : Option Record) : (s.setRecord i x).freeCount = s.freeCount := rfl
@[simp] theorem setRecord_at_port (s : State) (i : RecordIdx) (x : Option Record) (q : Port) : (s.setRecord i x).port q = s.port q := rfl
@[simp] theorem setRecord_at_gateway (s : State) (i : RecordIdx) (x : Option Record) (h : Gateway) : (s.setRecord i x).gateway h = s.gateway h := rfl
@[simp] theorem setRecord_at_desk (s : State) (i : RecordIdx) (x : Option Record) (e : Desk) : (s.setRecord i x).desk e = s.desk e := rfl
@[simp] theorem setRecord_at_queue (s : State) (i : RecordIdx) (x : Option Record) (e : Desk) : (s.setRecord i x).queue e = s.queue e := rfl
@[simp] theorem setRecord_at_mark (s : State) (i : RecordIdx) (x : Option Record) (e : Desk) : (s.setRecord i x).mark e = s.mark e := rfl
@[simp] theorem setRecord_at_area (s : State) (i : RecordIdx) (x : Option Record) (b : Area) : (s.setRecord i x).area b = s.area b := rfl
@[simp] theorem setRecord_at_load (s : State) (i : RecordIdx) (x : Option Record) (b : Area) : (s.setRecord i x).load b = s.load b := rfl
@[simp] theorem setRecord_at_group (s : State) (i : RecordIdx) (x : Option Record) (h : GroupIdx) : (s.setRecord i x).group h = s.group h := rfl
@[simp] theorem setRecord_at_point (s : State) (i : RecordIdx) (x : Option Record) (j : Nat) : (s.setRecord i x).point j = s.point j := rfl
@[simp] theorem setRecord_at_channel (s : State) (i : RecordIdx) (x : Option Record) (j : Nat) : (s.setRecord i x).channel j = s.channel j := rfl
@[simp] theorem setRecord_at_param (s : State) (i : RecordIdx) (x : Option Record) (m : Fin 29) : (s.setRecord i x).param m = s.param m := rfl

/-! ### setPoint -/

@[simp] theorem setPoint_pending (s : State) (i : Nat) (x : Point) : (s.setPoint i x).pending = s.pending := rfl
@[simp] theorem setPoint_elapsed (s : State) (i : Nat) (x : Point) : (s.setPoint i x).elapsed = s.elapsed := rfl
@[simp] theorem setPoint_refCycles (s : State) (i : Nat) (x : Point) : (s.setPoint i x).refCycles = s.refCycles := rfl
@[simp] theorem setPoint_offset (s : State) (i : Nat) (x : Point) : (s.setPoint i x).offset = s.offset := rfl
@[simp] theorem setPoint_dev (s : State) (i : Nat) (x : Point) : (s.setPoint i x).dev = s.dev := rfl
@[simp] theorem setPoint_staged (s : State) (i : Nat) (x : Point) : (s.setPoint i x).staged = s.staged := rfl
@[simp] theorem setPoint_params (s : State) (i : Nat) (x : Point) : (s.setPoint i x).params = s.params := rfl
@[simp] theorem setPoint_roles (s : State) (i : Nat) (x : Point) : (s.setPoint i x).roles = s.roles := rfl
@[simp] theorem setPoint_reach (s : State) (i : Nat) (x : Point) : (s.setPoint i x).reach = s.reach := rfl
@[simp] theorem setPoint_portCfg (s : State) (i : Nat) (x : Point) : (s.setPoint i x).portCfg = s.portCfg := rfl
@[simp] theorem setPoint_preferred (s : State) (i : Nat) (x : Point) : (s.setPoint i x).preferred = s.preferred := rfl
@[simp] theorem setPoint_channels (s : State) (i : Nat) (x : Point) : (s.setPoint i x).channels = s.channels := rfl
@[simp] theorem setPoint_serial (s : State) (i : Nat) (x : Point) : (s.setPoint i x).serial = s.serial := rfl
@[simp] theorem setPoint_shelf (s : State) (i : Nat) (x : Point) : (s.setPoint i x).shelf = s.shelf := rfl
@[simp] theorem setPoint_groups (s : State) (i : Nat) (x : Point) : (s.setPoint i x).groups = s.groups := rfl
@[simp] theorem setPoint_loads (s : State) (i : Nat) (x : Point) : (s.setPoint i x).loads = s.loads := rfl
@[simp] theorem setPoint_loadExpiry (s : State) (i : Nat) (x : Point) : (s.setPoint i x).loadExpiry = s.loadExpiry := rfl
@[simp] theorem setPoint_sweep (s : State) (i : Nat) (x : Point) : (s.setPoint i x).sweep = s.sweep := rfl
@[simp] theorem setPoint_queues (s : State) (i : Nat) (x : Point) : (s.setPoint i x).queues = s.queues := rfl
@[simp] theorem setPoint_marks (s : State) (i : Nat) (x : Point) : (s.setPoint i x).marks = s.marks := rfl
@[simp] theorem setPoint_horns (s : State) (i : Nat) (x : Point) : (s.setPoint i x).horns = s.horns := rfl
@[simp] theorem setPoint_attention (s : State) (i : Nat) (x : Point) : (s.setPoint i x).attention = s.attention := rfl
@[simp] theorem setPoint_journal (s : State) (i : Nat) (x : Point) : (s.setPoint i x).journal = s.journal := rfl
@[simp] theorem setPoint_creds (s : State) (i : Nat) (x : Point) : (s.setPoint i x).creds = s.creds := rfl
@[simp] theorem setPoint_desks (s : State) (i : Nat) (x : Point) : (s.setPoint i x).desks = s.desks := rfl
@[simp] theorem setPoint_map (s : State) (i : Nat) (x : Point) : (s.setPoint i x).map = s.map := rfl
@[simp] theorem setPoint_records (s : State) (i : Nat) (x : Point) : (s.setPoint i x).records = s.records := rfl
@[simp] theorem setPoint_handoverCounter (s : State) (i : Nat) (x : Point) : (s.setPoint i x).handoverCounter = s.handoverCounter := rfl
@[simp] theorem setPoint_ports (s : State) (i : Nat) (x : Point) : (s.setPoint i x).ports = s.ports := rfl
@[simp] theorem setPoint_gateways (s : State) (i : Nat) (x : Point) : (s.setPoint i x).gateways = s.gateways := rfl
@[simp] theorem setPoint_shiftedOut (s : State) (i : Nat) (x : Point) : (s.setPoint i x).shiftedOut = s.shiftedOut := rfl
@[simp] theorem setPoint_freeCount (s : State) (i : Nat) (x : Point) : (s.setPoint i x).freeCount = s.freeCount := rfl
@[simp] theorem setPoint_at_port (s : State) (i : Nat) (x : Point) (q : Port) : (s.setPoint i x).port q = s.port q := rfl
@[simp] theorem setPoint_at_gateway (s : State) (i : Nat) (x : Point) (h : Gateway) : (s.setPoint i x).gateway h = s.gateway h := rfl
@[simp] theorem setPoint_at_desk (s : State) (i : Nat) (x : Point) (e : Desk) : (s.setPoint i x).desk e = s.desk e := rfl
@[simp] theorem setPoint_at_queue (s : State) (i : Nat) (x : Point) (e : Desk) : (s.setPoint i x).queue e = s.queue e := rfl
@[simp] theorem setPoint_at_mark (s : State) (i : Nat) (x : Point) (e : Desk) : (s.setPoint i x).mark e = s.mark e := rfl
@[simp] theorem setPoint_at_area (s : State) (i : Nat) (x : Point) (b : Area) : (s.setPoint i x).area b = s.area b := rfl
@[simp] theorem setPoint_at_load (s : State) (i : Nat) (x : Point) (b : Area) : (s.setPoint i x).load b = s.load b := rfl
@[simp] theorem setPoint_at_group (s : State) (i : Nat) (x : Point) (h : GroupIdx) : (s.setPoint i x).group h = s.group h := rfl
@[simp] theorem setPoint_at_record (s : State) (i : Nat) (x : Point) (j : RecordIdx) : (s.setPoint i x).record j = s.record j := rfl
@[simp] theorem setPoint_at_channel (s : State) (i : Nat) (x : Point) (j : Nat) : (s.setPoint i x).channel j = s.channel j := rfl
@[simp] theorem setPoint_at_param (s : State) (i : Nat) (x : Point) (m : Fin 29) : (s.setPoint i x).param m = s.param m := rfl

/-! ### setChannel -/

@[simp] theorem setChannel_pending (s : State) (c : Nat) (x : Channel) : (s.setChannel c x).pending = s.pending := rfl
@[simp] theorem setChannel_elapsed (s : State) (c : Nat) (x : Channel) : (s.setChannel c x).elapsed = s.elapsed := rfl
@[simp] theorem setChannel_refCycles (s : State) (c : Nat) (x : Channel) : (s.setChannel c x).refCycles = s.refCycles := rfl
@[simp] theorem setChannel_offset (s : State) (c : Nat) (x : Channel) : (s.setChannel c x).offset = s.offset := rfl
@[simp] theorem setChannel_dev (s : State) (c : Nat) (x : Channel) : (s.setChannel c x).dev = s.dev := rfl
@[simp] theorem setChannel_staged (s : State) (c : Nat) (x : Channel) : (s.setChannel c x).staged = s.staged := rfl
@[simp] theorem setChannel_params (s : State) (c : Nat) (x : Channel) : (s.setChannel c x).params = s.params := rfl
@[simp] theorem setChannel_roles (s : State) (c : Nat) (x : Channel) : (s.setChannel c x).roles = s.roles := rfl
@[simp] theorem setChannel_reach (s : State) (c : Nat) (x : Channel) : (s.setChannel c x).reach = s.reach := rfl
@[simp] theorem setChannel_portCfg (s : State) (c : Nat) (x : Channel) : (s.setChannel c x).portCfg = s.portCfg := rfl
@[simp] theorem setChannel_preferred (s : State) (c : Nat) (x : Channel) : (s.setChannel c x).preferred = s.preferred := rfl
@[simp] theorem setChannel_points (s : State) (c : Nat) (x : Channel) : (s.setChannel c x).points = s.points := rfl
@[simp] theorem setChannel_serial (s : State) (c : Nat) (x : Channel) : (s.setChannel c x).serial = s.serial := rfl
@[simp] theorem setChannel_shelf (s : State) (c : Nat) (x : Channel) : (s.setChannel c x).shelf = s.shelf := rfl
@[simp] theorem setChannel_groups (s : State) (c : Nat) (x : Channel) : (s.setChannel c x).groups = s.groups := rfl
@[simp] theorem setChannel_loads (s : State) (c : Nat) (x : Channel) : (s.setChannel c x).loads = s.loads := rfl
@[simp] theorem setChannel_loadExpiry (s : State) (c : Nat) (x : Channel) : (s.setChannel c x).loadExpiry = s.loadExpiry := rfl
@[simp] theorem setChannel_sweep (s : State) (c : Nat) (x : Channel) : (s.setChannel c x).sweep = s.sweep := rfl
@[simp] theorem setChannel_queues (s : State) (c : Nat) (x : Channel) : (s.setChannel c x).queues = s.queues := rfl
@[simp] theorem setChannel_marks (s : State) (c : Nat) (x : Channel) : (s.setChannel c x).marks = s.marks := rfl
@[simp] theorem setChannel_horns (s : State) (c : Nat) (x : Channel) : (s.setChannel c x).horns = s.horns := rfl
@[simp] theorem setChannel_attention (s : State) (c : Nat) (x : Channel) : (s.setChannel c x).attention = s.attention := rfl
@[simp] theorem setChannel_journal (s : State) (c : Nat) (x : Channel) : (s.setChannel c x).journal = s.journal := rfl
@[simp] theorem setChannel_creds (s : State) (c : Nat) (x : Channel) : (s.setChannel c x).creds = s.creds := rfl
@[simp] theorem setChannel_desks (s : State) (c : Nat) (x : Channel) : (s.setChannel c x).desks = s.desks := rfl
@[simp] theorem setChannel_map (s : State) (c : Nat) (x : Channel) : (s.setChannel c x).map = s.map := rfl
@[simp] theorem setChannel_records (s : State) (c : Nat) (x : Channel) : (s.setChannel c x).records = s.records := rfl
@[simp] theorem setChannel_handoverCounter (s : State) (c : Nat) (x : Channel) : (s.setChannel c x).handoverCounter = s.handoverCounter := rfl
@[simp] theorem setChannel_ports (s : State) (c : Nat) (x : Channel) : (s.setChannel c x).ports = s.ports := rfl
@[simp] theorem setChannel_gateways (s : State) (c : Nat) (x : Channel) : (s.setChannel c x).gateways = s.gateways := rfl
@[simp] theorem setChannel_shiftedOut (s : State) (c : Nat) (x : Channel) : (s.setChannel c x).shiftedOut = s.shiftedOut := rfl
@[simp] theorem setChannel_freeCount (s : State) (c : Nat) (x : Channel) : (s.setChannel c x).freeCount = s.freeCount := rfl
@[simp] theorem setChannel_at_port (s : State) (c : Nat) (x : Channel) (q : Port) : (s.setChannel c x).port q = s.port q := rfl
@[simp] theorem setChannel_at_gateway (s : State) (c : Nat) (x : Channel) (h : Gateway) : (s.setChannel c x).gateway h = s.gateway h := rfl
@[simp] theorem setChannel_at_desk (s : State) (c : Nat) (x : Channel) (e : Desk) : (s.setChannel c x).desk e = s.desk e := rfl
@[simp] theorem setChannel_at_queue (s : State) (c : Nat) (x : Channel) (e : Desk) : (s.setChannel c x).queue e = s.queue e := rfl
@[simp] theorem setChannel_at_mark (s : State) (c : Nat) (x : Channel) (e : Desk) : (s.setChannel c x).mark e = s.mark e := rfl
@[simp] theorem setChannel_at_area (s : State) (c : Nat) (x : Channel) (b : Area) : (s.setChannel c x).area b = s.area b := rfl
@[simp] theorem setChannel_at_load (s : State) (c : Nat) (x : Channel) (b : Area) : (s.setChannel c x).load b = s.load b := rfl
@[simp] theorem setChannel_at_group (s : State) (c : Nat) (x : Channel) (h : GroupIdx) : (s.setChannel c x).group h = s.group h := rfl
@[simp] theorem setChannel_at_record (s : State) (c : Nat) (x : Channel) (j : RecordIdx) : (s.setChannel c x).record j = s.record j := rfl
@[simp] theorem setChannel_at_point (s : State) (c : Nat) (x : Channel) (j : Nat) : (s.setChannel c x).point j = s.point j := rfl
@[simp] theorem setChannel_at_param (s : State) (c : Nat) (x : Channel) (m : Fin 29) : (s.setChannel c x).param m = s.param m := rfl

/-! ### setShiftedOut -/

@[simp] theorem setShiftedOut_pending (s : State) (p : Port) (x : List Byte) : (s.setShiftedOut p x).pending = s.pending := rfl
@[simp] theorem setShiftedOut_elapsed (s : State) (p : Port) (x : List Byte) : (s.setShiftedOut p x).elapsed = s.elapsed := rfl
@[simp] theorem setShiftedOut_refCycles (s : State) (p : Port) (x : List Byte) : (s.setShiftedOut p x).refCycles = s.refCycles := rfl
@[simp] theorem setShiftedOut_offset (s : State) (p : Port) (x : List Byte) : (s.setShiftedOut p x).offset = s.offset := rfl
@[simp] theorem setShiftedOut_dev (s : State) (p : Port) (x : List Byte) : (s.setShiftedOut p x).dev = s.dev := rfl
@[simp] theorem setShiftedOut_staged (s : State) (p : Port) (x : List Byte) : (s.setShiftedOut p x).staged = s.staged := rfl
@[simp] theorem setShiftedOut_params (s : State) (p : Port) (x : List Byte) : (s.setShiftedOut p x).params = s.params := rfl
@[simp] theorem setShiftedOut_roles (s : State) (p : Port) (x : List Byte) : (s.setShiftedOut p x).roles = s.roles := rfl
@[simp] theorem setShiftedOut_reach (s : State) (p : Port) (x : List Byte) : (s.setShiftedOut p x).reach = s.reach := rfl
@[simp] theorem setShiftedOut_portCfg (s : State) (p : Port) (x : List Byte) : (s.setShiftedOut p x).portCfg = s.portCfg := rfl
@[simp] theorem setShiftedOut_preferred (s : State) (p : Port) (x : List Byte) : (s.setShiftedOut p x).preferred = s.preferred := rfl
@[simp] theorem setShiftedOut_channels (s : State) (p : Port) (x : List Byte) : (s.setShiftedOut p x).channels = s.channels := rfl
@[simp] theorem setShiftedOut_points (s : State) (p : Port) (x : List Byte) : (s.setShiftedOut p x).points = s.points := rfl
@[simp] theorem setShiftedOut_serial (s : State) (p : Port) (x : List Byte) : (s.setShiftedOut p x).serial = s.serial := rfl
@[simp] theorem setShiftedOut_shelf (s : State) (p : Port) (x : List Byte) : (s.setShiftedOut p x).shelf = s.shelf := rfl
@[simp] theorem setShiftedOut_groups (s : State) (p : Port) (x : List Byte) : (s.setShiftedOut p x).groups = s.groups := rfl
@[simp] theorem setShiftedOut_loads (s : State) (p : Port) (x : List Byte) : (s.setShiftedOut p x).loads = s.loads := rfl
@[simp] theorem setShiftedOut_loadExpiry (s : State) (p : Port) (x : List Byte) : (s.setShiftedOut p x).loadExpiry = s.loadExpiry := rfl
@[simp] theorem setShiftedOut_sweep (s : State) (p : Port) (x : List Byte) : (s.setShiftedOut p x).sweep = s.sweep := rfl
@[simp] theorem setShiftedOut_queues (s : State) (p : Port) (x : List Byte) : (s.setShiftedOut p x).queues = s.queues := rfl
@[simp] theorem setShiftedOut_marks (s : State) (p : Port) (x : List Byte) : (s.setShiftedOut p x).marks = s.marks := rfl
@[simp] theorem setShiftedOut_horns (s : State) (p : Port) (x : List Byte) : (s.setShiftedOut p x).horns = s.horns := rfl
@[simp] theorem setShiftedOut_attention (s : State) (p : Port) (x : List Byte) : (s.setShiftedOut p x).attention = s.attention := rfl
@[simp] theorem setShiftedOut_journal (s : State) (p : Port) (x : List Byte) : (s.setShiftedOut p x).journal = s.journal := rfl
@[simp] theorem setShiftedOut_creds (s : State) (p : Port) (x : List Byte) : (s.setShiftedOut p x).creds = s.creds := rfl
@[simp] theorem setShiftedOut_desks (s : State) (p : Port) (x : List Byte) : (s.setShiftedOut p x).desks = s.desks := rfl
@[simp] theorem setShiftedOut_map (s : State) (p : Port) (x : List Byte) : (s.setShiftedOut p x).map = s.map := rfl
@[simp] theorem setShiftedOut_records (s : State) (p : Port) (x : List Byte) : (s.setShiftedOut p x).records = s.records := rfl
@[simp] theorem setShiftedOut_handoverCounter (s : State) (p : Port) (x : List Byte) : (s.setShiftedOut p x).handoverCounter = s.handoverCounter := rfl
@[simp] theorem setShiftedOut_ports (s : State) (p : Port) (x : List Byte) : (s.setShiftedOut p x).ports = s.ports := rfl
@[simp] theorem setShiftedOut_gateways (s : State) (p : Port) (x : List Byte) : (s.setShiftedOut p x).gateways = s.gateways := rfl
@[simp] theorem setShiftedOut_freeCount (s : State) (p : Port) (x : List Byte) : (s.setShiftedOut p x).freeCount = s.freeCount := rfl
@[simp] theorem setShiftedOut_at_port (s : State) (p : Port) (x : List Byte) (q : Port) : (s.setShiftedOut p x).port q = s.port q := rfl
@[simp] theorem setShiftedOut_at_gateway (s : State) (p : Port) (x : List Byte) (h : Gateway) : (s.setShiftedOut p x).gateway h = s.gateway h := rfl
@[simp] theorem setShiftedOut_at_desk (s : State) (p : Port) (x : List Byte) (e : Desk) : (s.setShiftedOut p x).desk e = s.desk e := rfl
@[simp] theorem setShiftedOut_at_queue (s : State) (p : Port) (x : List Byte) (e : Desk) : (s.setShiftedOut p x).queue e = s.queue e := rfl
@[simp] theorem setShiftedOut_at_mark (s : State) (p : Port) (x : List Byte) (e : Desk) : (s.setShiftedOut p x).mark e = s.mark e := rfl
@[simp] theorem setShiftedOut_at_area (s : State) (p : Port) (x : List Byte) (b : Area) : (s.setShiftedOut p x).area b = s.area b := rfl
@[simp] theorem setShiftedOut_at_load (s : State) (p : Port) (x : List Byte) (b : Area) : (s.setShiftedOut p x).load b = s.load b := rfl
@[simp] theorem setShiftedOut_at_group (s : State) (p : Port) (x : List Byte) (h : GroupIdx) : (s.setShiftedOut p x).group h = s.group h := rfl
@[simp] theorem setShiftedOut_at_record (s : State) (p : Port) (x : List Byte) (j : RecordIdx) : (s.setShiftedOut p x).record j = s.record j := rfl
@[simp] theorem setShiftedOut_at_point (s : State) (p : Port) (x : List Byte) (j : Nat) : (s.setShiftedOut p x).point j = s.point j := rfl
@[simp] theorem setShiftedOut_at_channel (s : State) (p : Port) (x : List Byte) (j : Nat) : (s.setShiftedOut p x).channel j = s.channel j := rfl
@[simp] theorem setShiftedOut_at_param (s : State) (p : Port) (x : List Byte) (m : Fin 29) : (s.setShiftedOut p x).param m = s.param m := rfl

/-! ### enter -/

@[simp] theorem enter_pending (s : State) (k : JournalKind) (f : EntryFields) : (s.enter k f).pending = s.pending := rfl
@[simp] theorem enter_elapsed (s : State) (k : JournalKind) (f : EntryFields) : (s.enter k f).elapsed = s.elapsed := rfl
@[simp] theorem enter_refCycles (s : State) (k : JournalKind) (f : EntryFields) : (s.enter k f).refCycles = s.refCycles := rfl
@[simp] theorem enter_offset (s : State) (k : JournalKind) (f : EntryFields) : (s.enter k f).offset = s.offset := rfl
@[simp] theorem enter_dev (s : State) (k : JournalKind) (f : EntryFields) : (s.enter k f).dev = s.dev := rfl
@[simp] theorem enter_staged (s : State) (k : JournalKind) (f : EntryFields) : (s.enter k f).staged = s.staged := rfl
@[simp] theorem enter_params (s : State) (k : JournalKind) (f : EntryFields) : (s.enter k f).params = s.params := rfl
@[simp] theorem enter_roles (s : State) (k : JournalKind) (f : EntryFields) : (s.enter k f).roles = s.roles := rfl
@[simp] theorem enter_reach (s : State) (k : JournalKind) (f : EntryFields) : (s.enter k f).reach = s.reach := rfl
@[simp] theorem enter_portCfg (s : State) (k : JournalKind) (f : EntryFields) : (s.enter k f).portCfg = s.portCfg := rfl
@[simp] theorem enter_preferred (s : State) (k : JournalKind) (f : EntryFields) : (s.enter k f).preferred = s.preferred := rfl
@[simp] theorem enter_channels (s : State) (k : JournalKind) (f : EntryFields) : (s.enter k f).channels = s.channels := rfl
@[simp] theorem enter_points (s : State) (k : JournalKind) (f : EntryFields) : (s.enter k f).points = s.points := rfl
@[simp] theorem enter_serial (s : State) (k : JournalKind) (f : EntryFields) : (s.enter k f).serial = s.serial := rfl
@[simp] theorem enter_shelf (s : State) (k : JournalKind) (f : EntryFields) : (s.enter k f).shelf = s.shelf := rfl
@[simp] theorem enter_groups (s : State) (k : JournalKind) (f : EntryFields) : (s.enter k f).groups = s.groups := rfl
@[simp] theorem enter_loads (s : State) (k : JournalKind) (f : EntryFields) : (s.enter k f).loads = s.loads := rfl
@[simp] theorem enter_loadExpiry (s : State) (k : JournalKind) (f : EntryFields) : (s.enter k f).loadExpiry = s.loadExpiry := rfl
@[simp] theorem enter_sweep (s : State) (k : JournalKind) (f : EntryFields) : (s.enter k f).sweep = s.sweep := rfl
@[simp] theorem enter_queues (s : State) (k : JournalKind) (f : EntryFields) : (s.enter k f).queues = s.queues := rfl
@[simp] theorem enter_marks (s : State) (k : JournalKind) (f : EntryFields) : (s.enter k f).marks = s.marks := rfl
@[simp] theorem enter_horns (s : State) (k : JournalKind) (f : EntryFields) : (s.enter k f).horns = s.horns := rfl
@[simp] theorem enter_attention (s : State) (k : JournalKind) (f : EntryFields) : (s.enter k f).attention = s.attention := rfl
@[simp] theorem enter_creds (s : State) (k : JournalKind) (f : EntryFields) : (s.enter k f).creds = s.creds := rfl
@[simp] theorem enter_desks (s : State) (k : JournalKind) (f : EntryFields) : (s.enter k f).desks = s.desks := rfl
@[simp] theorem enter_map (s : State) (k : JournalKind) (f : EntryFields) : (s.enter k f).map = s.map := rfl
@[simp] theorem enter_records (s : State) (k : JournalKind) (f : EntryFields) : (s.enter k f).records = s.records := rfl
@[simp] theorem enter_handoverCounter (s : State) (k : JournalKind) (f : EntryFields) : (s.enter k f).handoverCounter = s.handoverCounter := rfl
@[simp] theorem enter_ports (s : State) (k : JournalKind) (f : EntryFields) : (s.enter k f).ports = s.ports := rfl
@[simp] theorem enter_gateways (s : State) (k : JournalKind) (f : EntryFields) : (s.enter k f).gateways = s.gateways := rfl
@[simp] theorem enter_shiftedOut (s : State) (k : JournalKind) (f : EntryFields) : (s.enter k f).shiftedOut = s.shiftedOut := rfl
@[simp] theorem enter_freeCount (s : State) (k : JournalKind) (f : EntryFields) : (s.enter k f).freeCount = s.freeCount := rfl
@[simp] theorem enter_at_port (s : State) (k : JournalKind) (f : EntryFields) (q : Port) : (s.enter k f).port q = s.port q := rfl
@[simp] theorem enter_at_gateway (s : State) (k : JournalKind) (f : EntryFields) (h : Gateway) : (s.enter k f).gateway h = s.gateway h := rfl
@[simp] theorem enter_at_desk (s : State) (k : JournalKind) (f : EntryFields) (e : Desk) : (s.enter k f).desk e = s.desk e := rfl
@[simp] theorem enter_at_queue (s : State) (k : JournalKind) (f : EntryFields) (e : Desk) : (s.enter k f).queue e = s.queue e := rfl
@[simp] theorem enter_at_mark (s : State) (k : JournalKind) (f : EntryFields) (e : Desk) : (s.enter k f).mark e = s.mark e := rfl
@[simp] theorem enter_at_area (s : State) (k : JournalKind) (f : EntryFields) (b : Area) : (s.enter k f).area b = s.area b := rfl
@[simp] theorem enter_at_load (s : State) (k : JournalKind) (f : EntryFields) (b : Area) : (s.enter k f).load b = s.load b := rfl
@[simp] theorem enter_at_group (s : State) (k : JournalKind) (f : EntryFields) (h : GroupIdx) : (s.enter k f).group h = s.group h := rfl
@[simp] theorem enter_at_record (s : State) (k : JournalKind) (f : EntryFields) (j : RecordIdx) : (s.enter k f).record j = s.record j := rfl
@[simp] theorem enter_at_point (s : State) (k : JournalKind) (f : EntryFields) (j : Nat) : (s.enter k f).point j = s.point j := rfl
@[simp] theorem enter_at_channel (s : State) (k : JournalKind) (f : EntryFields) (j : Nat) : (s.enter k f).channel j = s.channel j := rfl
@[simp] theorem enter_at_param (s : State) (k : JournalKind) (f : EntryFields) (m : Fin 29) : (s.enter k f).param m = s.param m := rfl

/-! ### deliver -/

@[simp] theorem deliver_pending (s : State) (n : Notice) (dest : Desk → Bool) : (deliver s n dest).pending = s.pending := rfl
@[simp] theorem deliver_elapsed (s : State) (n : Notice) (dest : Desk → Bool) : (deliver s n dest).elapsed = s.elapsed := rfl
@[simp] theorem deliver_refCycles (s : State) (n : Notice) (dest : Desk → Bool) : (deliver s n dest).refCycles = s.refCycles := rfl
@[simp] theorem deliver_offset (s : State) (n : Notice) (dest : Desk → Bool) : (deliver s n dest).offset = s.offset := rfl
@[simp] theorem deliver_dev (s : State) (n : Notice) (dest : Desk → Bool) : (deliver s n dest).dev = s.dev := rfl
@[simp] theorem deliver_staged (s : State) (n : Notice) (dest : Desk → Bool) : (deliver s n dest).staged = s.staged := rfl
@[simp] theorem deliver_params (s : State) (n : Notice) (dest : Desk → Bool) : (deliver s n dest).params = s.params := rfl
@[simp] theorem deliver_roles (s : State) (n : Notice) (dest : Desk → Bool) : (deliver s n dest).roles = s.roles := rfl
@[simp] theorem deliver_reach (s : State) (n : Notice) (dest : Desk → Bool) : (deliver s n dest).reach = s.reach := rfl
@[simp] theorem deliver_portCfg (s : State) (n : Notice) (dest : Desk → Bool) : (deliver s n dest).portCfg = s.portCfg := rfl
@[simp] theorem deliver_preferred (s : State) (n : Notice) (dest : Desk → Bool) : (deliver s n dest).preferred = s.preferred := rfl
@[simp] theorem deliver_channels (s : State) (n : Notice) (dest : Desk → Bool) : (deliver s n dest).channels = s.channels := rfl
@[simp] theorem deliver_points (s : State) (n : Notice) (dest : Desk → Bool) : (deliver s n dest).points = s.points := rfl
@[simp] theorem deliver_serial (s : State) (n : Notice) (dest : Desk → Bool) : (deliver s n dest).serial = s.serial := rfl
@[simp] theorem deliver_shelf (s : State) (n : Notice) (dest : Desk → Bool) : (deliver s n dest).shelf = s.shelf := rfl
@[simp] theorem deliver_groups (s : State) (n : Notice) (dest : Desk → Bool) : (deliver s n dest).groups = s.groups := rfl
@[simp] theorem deliver_loads (s : State) (n : Notice) (dest : Desk → Bool) : (deliver s n dest).loads = s.loads := rfl
@[simp] theorem deliver_loadExpiry (s : State) (n : Notice) (dest : Desk → Bool) : (deliver s n dest).loadExpiry = s.loadExpiry := rfl
@[simp] theorem deliver_sweep (s : State) (n : Notice) (dest : Desk → Bool) : (deliver s n dest).sweep = s.sweep := rfl
@[simp] theorem deliver_marks (s : State) (n : Notice) (dest : Desk → Bool) : (deliver s n dest).marks = s.marks := rfl
@[simp] theorem deliver_horns (s : State) (n : Notice) (dest : Desk → Bool) : (deliver s n dest).horns = s.horns := rfl
@[simp] theorem deliver_attention (s : State) (n : Notice) (dest : Desk → Bool) : (deliver s n dest).attention = s.attention := rfl
@[simp] theorem deliver_journal (s : State) (n : Notice) (dest : Desk → Bool) : (deliver s n dest).journal = s.journal := rfl
@[simp] theorem deliver_creds (s : State) (n : Notice) (dest : Desk → Bool) : (deliver s n dest).creds = s.creds := rfl
@[simp] theorem deliver_desks (s : State) (n : Notice) (dest : Desk → Bool) : (deliver s n dest).desks = s.desks := rfl
@[simp] theorem deliver_map (s : State) (n : Notice) (dest : Desk → Bool) : (deliver s n dest).map = s.map := rfl
@[simp] theorem deliver_records (s : State) (n : Notice) (dest : Desk → Bool) : (deliver s n dest).records = s.records := rfl
@[simp] theorem deliver_handoverCounter (s : State) (n : Notice) (dest : Desk → Bool) : (deliver s n dest).handoverCounter = s.handoverCounter := rfl
@[simp] theorem deliver_ports (s : State) (n : Notice) (dest : Desk → Bool) : (deliver s n dest).ports = s.ports := rfl
@[simp] theorem deliver_gateways (s : State) (n : Notice) (dest : Desk → Bool) : (deliver s n dest).gateways = s.gateways := rfl
@[simp] theorem deliver_shiftedOut (s : State) (n : Notice) (dest : Desk → Bool) : (deliver s n dest).shiftedOut = s.shiftedOut := rfl
@[simp] theorem deliver_freeCount (s : State) (n : Notice) (dest : Desk → Bool) : (deliver s n dest).freeCount = s.freeCount := rfl
@[simp] theorem deliver_at_port (s : State) (n : Notice) (dest : Desk → Bool) (q : Port) : (deliver s n dest).port q = s.port q := rfl
@[simp] theorem deliver_at_gateway (s : State) (n : Notice) (dest : Desk → Bool) (h : Gateway) : (deliver s n dest).gateway h = s.gateway h := rfl
@[simp] theorem deliver_at_desk (s : State) (n : Notice) (dest : Desk → Bool) (e : Desk) : (deliver s n dest).desk e = s.desk e := rfl
@[simp] theorem deliver_at_mark (s : State) (n : Notice) (dest : Desk → Bool) (e : Desk) : (deliver s n dest).mark e = s.mark e := rfl
@[simp] theorem deliver_at_area (s : State) (n : Notice) (dest : Desk → Bool) (b : Area) : (deliver s n dest).area b = s.area b := rfl
@[simp] theorem deliver_at_load (s : State) (n : Notice) (dest : Desk → Bool) (b : Area) : (deliver s n dest).load b = s.load b := rfl
@[simp] theorem deliver_at_group (s : State) (n : Notice) (dest : Desk → Bool) (h : GroupIdx) : (deliver s n dest).group h = s.group h := rfl
@[simp] theorem deliver_at_record (s : State) (n : Notice) (dest : Desk → Bool) (j : RecordIdx) : (deliver s n dest).record j = s.record j := rfl
@[simp] theorem deliver_at_point (s : State) (n : Notice) (dest : Desk → Bool) (j : Nat) : (deliver s n dest).point j = s.point j := rfl
@[simp] theorem deliver_at_channel (s : State) (n : Notice) (dest : Desk → Bool) (j : Nat) : (deliver s n dest).channel j = s.channel j := rfl
@[simp] theorem deliver_at_param (s : State) (n : Notice) (dest : Desk → Bool) (m : Fin 29) : (deliver s n dest).param m = s.param m := rfl

/-! ### handItems -/

@[simp] theorem handItems_pending (s : State) (i : Nat) (p : Point) (fresh : Bool) : (handItems s i p fresh).pending = s.pending := rfl
@[simp] theorem handItems_elapsed (s : State) (i : Nat) (p : Point) (fresh : Bool) : (handItems s i p fresh).elapsed = s.elapsed := rfl
@[simp] theorem handItems_refCycles (s : State) (i : Nat) (p : Point) (fresh : Bool) : (handItems s i p fresh).refCycles = s.refCycles := rfl
@[simp] theorem handItems_offset (s : State) (i : Nat) (p : Point) (fresh : Bool) : (handItems s i p fresh).offset = s.offset := rfl
@[simp] theorem handItems_dev (s : State) (i : Nat) (p : Point) (fresh : Bool) : (handItems s i p fresh).dev = s.dev := rfl
@[simp] theorem handItems_staged (s : State) (i : Nat) (p : Point) (fresh : Bool) : (handItems s i p fresh).staged = s.staged := rfl
@[simp] theorem handItems_params (s : State) (i : Nat) (p : Point) (fresh : Bool) : (handItems s i p fresh).params = s.params := rfl
@[simp] theorem handItems_roles (s : State) (i : Nat) (p : Point) (fresh : Bool) : (handItems s i p fresh).roles = s.roles := rfl
@[simp] theorem handItems_reach (s : State) (i : Nat) (p : Point) (fresh : Bool) : (handItems s i p fresh).reach = s.reach := rfl
@[simp] theorem handItems_portCfg (s : State) (i : Nat) (p : Point) (fresh : Bool) : (handItems s i p fresh).portCfg = s.portCfg := rfl
@[simp] theorem handItems_preferred (s : State) (i : Nat) (p : Point) (fresh : Bool) : (handItems s i p fresh).preferred = s.preferred := rfl
@[simp] theorem handItems_channels (s : State) (i : Nat) (p : Point) (fresh : Bool) : (handItems s i p fresh).channels = s.channels := rfl
@[simp] theorem handItems_points (s : State) (i : Nat) (p : Point) (fresh : Bool) : (handItems s i p fresh).points = s.points := rfl
@[simp] theorem handItems_serial (s : State) (i : Nat) (p : Point) (fresh : Bool) : (handItems s i p fresh).serial = s.serial := rfl
@[simp] theorem handItems_shelf (s : State) (i : Nat) (p : Point) (fresh : Bool) : (handItems s i p fresh).shelf = s.shelf := rfl
@[simp] theorem handItems_groups (s : State) (i : Nat) (p : Point) (fresh : Bool) : (handItems s i p fresh).groups = s.groups := rfl
@[simp] theorem handItems_loads (s : State) (i : Nat) (p : Point) (fresh : Bool) : (handItems s i p fresh).loads = s.loads := rfl
@[simp] theorem handItems_loadExpiry (s : State) (i : Nat) (p : Point) (fresh : Bool) : (handItems s i p fresh).loadExpiry = s.loadExpiry := rfl
@[simp] theorem handItems_sweep (s : State) (i : Nat) (p : Point) (fresh : Bool) : (handItems s i p fresh).sweep = s.sweep := rfl
@[simp] theorem handItems_queues (s : State) (i : Nat) (p : Point) (fresh : Bool) : (handItems s i p fresh).queues = s.queues := rfl
@[simp] theorem handItems_marks (s : State) (i : Nat) (p : Point) (fresh : Bool) : (handItems s i p fresh).marks = s.marks := rfl
@[simp] theorem handItems_horns (s : State) (i : Nat) (p : Point) (fresh : Bool) : (handItems s i p fresh).horns = s.horns := rfl
@[simp] theorem handItems_attention (s : State) (i : Nat) (p : Point) (fresh : Bool) : (handItems s i p fresh).attention = s.attention := rfl
@[simp] theorem handItems_journal (s : State) (i : Nat) (p : Point) (fresh : Bool) : (handItems s i p fresh).journal = s.journal := rfl
@[simp] theorem handItems_creds (s : State) (i : Nat) (p : Point) (fresh : Bool) : (handItems s i p fresh).creds = s.creds := rfl
@[simp] theorem handItems_desks (s : State) (i : Nat) (p : Point) (fresh : Bool) : (handItems s i p fresh).desks = s.desks := rfl
@[simp] theorem handItems_map (s : State) (i : Nat) (p : Point) (fresh : Bool) : (handItems s i p fresh).map = s.map := rfl
@[simp] theorem handItems_handoverCounter (s : State) (i : Nat) (p : Point) (fresh : Bool) : (handItems s i p fresh).handoverCounter = s.handoverCounter := rfl
@[simp] theorem handItems_ports (s : State) (i : Nat) (p : Point) (fresh : Bool) : (handItems s i p fresh).ports = s.ports := rfl
@[simp] theorem handItems_gateways (s : State) (i : Nat) (p : Point) (fresh : Bool) : (handItems s i p fresh).gateways = s.gateways := rfl
@[simp] theorem handItems_shiftedOut (s : State) (i : Nat) (p : Point) (fresh : Bool) : (handItems s i p fresh).shiftedOut = s.shiftedOut := rfl
@[simp] theorem handItems_freeCount (s : State) (i : Nat) (p : Point) (fresh : Bool) : (handItems s i p fresh).freeCount = s.freeCount := rfl
@[simp] theorem handItems_at_port (s : State) (i : Nat) (p : Point) (fresh : Bool) (q : Port) : (handItems s i p fresh).port q = s.port q := rfl
@[simp] theorem handItems_at_gateway (s : State) (i : Nat) (p : Point) (fresh : Bool) (h : Gateway) : (handItems s i p fresh).gateway h = s.gateway h := rfl
@[simp] theorem handItems_at_desk (s : State) (i : Nat) (p : Point) (fresh : Bool) (e : Desk) : (handItems s i p fresh).desk e = s.desk e := rfl
@[simp] theorem handItems_at_queue (s : State) (i : Nat) (p : Point) (fresh : Bool) (e : Desk) : (handItems s i p fresh).queue e = s.queue e := rfl
@[simp] theorem handItems_at_mark (s : State) (i : Nat) (p : Point) (fresh : Bool) (e : Desk) : (handItems s i p fresh).mark e = s.mark e := rfl
@[simp] theorem handItems_at_area (s : State) (i : Nat) (p : Point) (fresh : Bool) (b : Area) : (handItems s i p fresh).area b = s.area b := rfl
@[simp] theorem handItems_at_load (s : State) (i : Nat) (p : Point) (fresh : Bool) (b : Area) : (handItems s i p fresh).load b = s.load b := rfl
@[simp] theorem handItems_at_group (s : State) (i : Nat) (p : Point) (fresh : Bool) (h : GroupIdx) : (handItems s i p fresh).group h = s.group h := rfl
@[simp] theorem handItems_at_point (s : State) (i : Nat) (p : Point) (fresh : Bool) (j : Nat) : (handItems s i p fresh).point j = s.point j := rfl
@[simp] theorem handItems_at_channel (s : State) (i : Nat) (p : Point) (fresh : Bool) (j : Nat) : (handItems s i p fresh).channel j = s.channel j := rfl
@[simp] theorem handItems_at_param (s : State) (i : Nat) (p : Point) (fresh : Bool) (m : Fin 29) : (handItems s i p fresh).param m = s.param m := rfl

/-! ### resolveMoved -/

@[simp] theorem resolveMoved_pending (s : State) (i : Nat) (old new : Area) : (resolveMoved s i old new).pending = s.pending := rfl
@[simp] theorem resolveMoved_elapsed (s : State) (i : Nat) (old new : Area) : (resolveMoved s i old new).elapsed = s.elapsed := rfl
@[simp] theorem resolveMoved_refCycles (s : State) (i : Nat) (old new : Area) : (resolveMoved s i old new).refCycles = s.refCycles := rfl
@[simp] theorem resolveMoved_offset (s : State) (i : Nat) (old new : Area) : (resolveMoved s i old new).offset = s.offset := rfl
@[simp] theorem resolveMoved_dev (s : State) (i : Nat) (old new : Area) : (resolveMoved s i old new).dev = s.dev := rfl
@[simp] theorem resolveMoved_staged (s : State) (i : Nat) (old new : Area) : (resolveMoved s i old new).staged = s.staged := rfl
@[simp] theorem resolveMoved_params (s : State) (i : Nat) (old new : Area) : (resolveMoved s i old new).params = s.params := rfl
@[simp] theorem resolveMoved_roles (s : State) (i : Nat) (old new : Area) : (resolveMoved s i old new).roles = s.roles := rfl
@[simp] theorem resolveMoved_reach (s : State) (i : Nat) (old new : Area) : (resolveMoved s i old new).reach = s.reach := rfl
@[simp] theorem resolveMoved_portCfg (s : State) (i : Nat) (old new : Area) : (resolveMoved s i old new).portCfg = s.portCfg := rfl
@[simp] theorem resolveMoved_preferred (s : State) (i : Nat) (old new : Area) : (resolveMoved s i old new).preferred = s.preferred := rfl
@[simp] theorem resolveMoved_channels (s : State) (i : Nat) (old new : Area) : (resolveMoved s i old new).channels = s.channels := rfl
@[simp] theorem resolveMoved_points (s : State) (i : Nat) (old new : Area) : (resolveMoved s i old new).points = s.points := rfl
@[simp] theorem resolveMoved_serial (s : State) (i : Nat) (old new : Area) : (resolveMoved s i old new).serial = s.serial := rfl
@[simp] theorem resolveMoved_shelf (s : State) (i : Nat) (old new : Area) : (resolveMoved s i old new).shelf = s.shelf := rfl
@[simp] theorem resolveMoved_groups (s : State) (i : Nat) (old new : Area) : (resolveMoved s i old new).groups = s.groups := rfl
@[simp] theorem resolveMoved_loads (s : State) (i : Nat) (old new : Area) : (resolveMoved s i old new).loads = s.loads := rfl
@[simp] theorem resolveMoved_loadExpiry (s : State) (i : Nat) (old new : Area) : (resolveMoved s i old new).loadExpiry = s.loadExpiry := rfl
@[simp] theorem resolveMoved_sweep (s : State) (i : Nat) (old new : Area) : (resolveMoved s i old new).sweep = s.sweep := rfl
@[simp] theorem resolveMoved_queues (s : State) (i : Nat) (old new : Area) : (resolveMoved s i old new).queues = s.queues := rfl
@[simp] theorem resolveMoved_marks (s : State) (i : Nat) (old new : Area) : (resolveMoved s i old new).marks = s.marks := rfl
@[simp] theorem resolveMoved_horns (s : State) (i : Nat) (old new : Area) : (resolveMoved s i old new).horns = s.horns := rfl
@[simp] theorem resolveMoved_attention (s : State) (i : Nat) (old new : Area) : (resolveMoved s i old new).attention = s.attention := rfl
@[simp] theorem resolveMoved_journal (s : State) (i : Nat) (old new : Area) : (resolveMoved s i old new).journal = s.journal := rfl
@[simp] theorem resolveMoved_creds (s : State) (i : Nat) (old new : Area) : (resolveMoved s i old new).creds = s.creds := rfl
@[simp] theorem resolveMoved_desks (s : State) (i : Nat) (old new : Area) : (resolveMoved s i old new).desks = s.desks := rfl
@[simp] theorem resolveMoved_map (s : State) (i : Nat) (old new : Area) : (resolveMoved s i old new).map = s.map := rfl
@[simp] theorem resolveMoved_handoverCounter (s : State) (i : Nat) (old new : Area) : (resolveMoved s i old new).handoverCounter = s.handoverCounter := rfl
@[simp] theorem resolveMoved_ports (s : State) (i : Nat) (old new : Area) : (resolveMoved s i old new).ports = s.ports := rfl
@[simp] theorem resolveMoved_gateways (s : State) (i : Nat) (old new : Area) : (resolveMoved s i old new).gateways = s.gateways := rfl
@[simp] theorem resolveMoved_shiftedOut (s : State) (i : Nat) (old new : Area) : (resolveMoved s i old new).shiftedOut = s.shiftedOut := rfl
@[simp] theorem resolveMoved_freeCount (s : State) (i : Nat) (old new : Area) : (resolveMoved s i old new).freeCount = s.freeCount := rfl
@[simp] theorem resolveMoved_at_port (s : State) (i : Nat) (old new : Area) (q : Port) : (resolveMoved s i old new).port q = s.port q := rfl
@[simp] theorem resolveMoved_at_gateway (s : State) (i : Nat) (old new : Area) (h : Gateway) : (resolveMoved s i old new).gateway h = s.gateway h := rfl
@[simp] theorem resolveMoved_at_desk (s : State) (i : Nat) (old new : Area) (e : Desk) : (resolveMoved s i old new).desk e = s.desk e := rfl
@[simp] theorem resolveMoved_at_queue (s : State) (i : Nat) (old new : Area) (e : Desk) : (resolveMoved s i old new).queue e = s.queue e := rfl
@[simp] theorem resolveMoved_at_mark (s : State) (i : Nat) (old new : Area) (e : Desk) : (resolveMoved s i old new).mark e = s.mark e := rfl
@[simp] theorem resolveMoved_at_area (s : State) (i : Nat) (old new : Area) (b : Area) : (resolveMoved s i old new).area b = s.area b := rfl
@[simp] theorem resolveMoved_at_load (s : State) (i : Nat) (old new : Area) (b : Area) : (resolveMoved s i old new).load b = s.load b := rfl
@[simp] theorem resolveMoved_at_group (s : State) (i : Nat) (old new : Area) (h : GroupIdx) : (resolveMoved s i old new).group h = s.group h := rfl
@[simp] theorem resolveMoved_at_point (s : State) (i : Nat) (old new : Area) (j : Nat) : (resolveMoved s i old new).point j = s.point j := rfl
@[simp] theorem resolveMoved_at_channel (s : State) (i : Nat) (old new : Area) (j : Nat) : (resolveMoved s i old new).channel j = s.channel j := rfl
@[simp] theorem resolveMoved_at_param (s : State) (i : Nat) (old new : Area) (m : Fin 29) : (resolveMoved s i old new).param m = s.param m := rfl

/-! ### passCycles -/

@[simp] theorem passCycles_pending (s : State) (n : Nat) : (passCycles s n).pending = s.pending := rfl
@[simp] theorem passCycles_offset (s : State) (n : Nat) : (passCycles s n).offset = s.offset := rfl
@[simp] theorem passCycles_dev (s : State) (n : Nat) : (passCycles s n).dev = s.dev := rfl
@[simp] theorem passCycles_staged (s : State) (n : Nat) : (passCycles s n).staged = s.staged := rfl
@[simp] theorem passCycles_params (s : State) (n : Nat) : (passCycles s n).params = s.params := rfl
@[simp] theorem passCycles_roles (s : State) (n : Nat) : (passCycles s n).roles = s.roles := rfl
@[simp] theorem passCycles_reach (s : State) (n : Nat) : (passCycles s n).reach = s.reach := rfl
@[simp] theorem passCycles_portCfg (s : State) (n : Nat) : (passCycles s n).portCfg = s.portCfg := rfl
@[simp] theorem passCycles_preferred (s : State) (n : Nat) : (passCycles s n).preferred = s.preferred := rfl
@[simp] theorem passCycles_channels (s : State) (n : Nat) : (passCycles s n).channels = s.channels := rfl
@[simp] theorem passCycles_points (s : State) (n : Nat) : (passCycles s n).points = s.points := rfl
@[simp] theorem passCycles_serial (s : State) (n : Nat) : (passCycles s n).serial = s.serial := rfl
@[simp] theorem passCycles_shelf (s : State) (n : Nat) : (passCycles s n).shelf = s.shelf := rfl
@[simp] theorem passCycles_groups (s : State) (n : Nat) : (passCycles s n).groups = s.groups := rfl
@[simp] theorem passCycles_loads (s : State) (n : Nat) : (passCycles s n).loads = s.loads := rfl
@[simp] theorem passCycles_loadExpiry (s : State) (n : Nat) : (passCycles s n).loadExpiry = s.loadExpiry := rfl
@[simp] theorem passCycles_sweep (s : State) (n : Nat) : (passCycles s n).sweep = s.sweep := rfl
@[simp] theorem passCycles_queues (s : State) (n : Nat) : (passCycles s n).queues = s.queues := rfl
@[simp] theorem passCycles_marks (s : State) (n : Nat) : (passCycles s n).marks = s.marks := rfl
@[simp] theorem passCycles_horns (s : State) (n : Nat) : (passCycles s n).horns = s.horns := rfl
@[simp] theorem passCycles_attention (s : State) (n : Nat) : (passCycles s n).attention = s.attention := rfl
@[simp] theorem passCycles_journal (s : State) (n : Nat) : (passCycles s n).journal = s.journal := rfl
@[simp] theorem passCycles_creds (s : State) (n : Nat) : (passCycles s n).creds = s.creds := rfl
@[simp] theorem passCycles_desks (s : State) (n : Nat) : (passCycles s n).desks = s.desks := rfl
@[simp] theorem passCycles_map (s : State) (n : Nat) : (passCycles s n).map = s.map := rfl
@[simp] theorem passCycles_records (s : State) (n : Nat) : (passCycles s n).records = s.records := rfl
@[simp] theorem passCycles_handoverCounter (s : State) (n : Nat) : (passCycles s n).handoverCounter = s.handoverCounter := rfl
@[simp] theorem passCycles_ports (s : State) (n : Nat) : (passCycles s n).ports = s.ports := rfl
@[simp] theorem passCycles_gateways (s : State) (n : Nat) : (passCycles s n).gateways = s.gateways := rfl
@[simp] theorem passCycles_shiftedOut (s : State) (n : Nat) : (passCycles s n).shiftedOut = s.shiftedOut := rfl
@[simp] theorem passCycles_freeCount (s : State) (n : Nat) : (passCycles s n).freeCount = s.freeCount := rfl
@[simp] theorem passCycles_at_port (s : State) (n : Nat) (q : Port) : (passCycles s n).port q = s.port q := rfl
@[simp] theorem passCycles_at_gateway (s : State) (n : Nat) (h : Gateway) : (passCycles s n).gateway h = s.gateway h := rfl
@[simp] theorem passCycles_at_desk (s : State) (n : Nat) (e : Desk) : (passCycles s n).desk e = s.desk e := rfl
@[simp] theorem passCycles_at_queue (s : State) (n : Nat) (e : Desk) : (passCycles s n).queue e = s.queue e := rfl
@[simp] theorem passCycles_at_mark (s : State) (n : Nat) (e : Desk) : (passCycles s n).mark e = s.mark e := rfl
@[simp] theorem passCycles_at_area (s : State) (n : Nat) (b : Area) : (passCycles s n).area b = s.area b := rfl
@[simp] theorem passCycles_at_load (s : State) (n : Nat) (b : Area) : (passCycles s n).load b = s.load b := rfl
@[simp] theorem passCycles_at_group (s : State) (n : Nat) (h : GroupIdx) : (passCycles s n).group h = s.group h := rfl
@[simp] theorem passCycles_at_record (s : State) (n : Nat) (j : RecordIdx) : (passCycles s n).record j = s.record j := rfl
@[simp] theorem passCycles_at_point (s : State) (n : Nat) (j : Nat) : (passCycles s n).point j = s.point j := rfl
@[simp] theorem passCycles_at_channel (s : State) (n : Nat) (j : Nat) : (passCycles s n).channel j = s.channel j := rfl
@[simp] theorem passCycles_at_param (s : State) (n : Nat) (m : Fin 29) : (passCycles s n).param m = s.param m := rfl

/-! ### settle -/

@[simp] theorem settle_pending (s : State) : (settle s).pending = s.pending := rfl
@[simp] theorem settle_elapsed (s : State) : (settle s).elapsed = s.elapsed := rfl
@[simp] theorem settle_refCycles (s : State) : (settle s).refCycles = s.refCycles := rfl
@[simp] theorem settle_offset (s : State) : (settle s).offset = s.offset := rfl
@[simp] theorem settle_dev (s : State) : (settle s).dev = s.dev := rfl
@[simp] theorem settle_staged (s : State) : (settle s).staged = s.staged := rfl
@[simp] theorem settle_params (s : State) : (settle s).params = s.params := rfl
@[simp] theorem settle_roles (s : State) : (settle s).roles = s.roles := rfl
@[simp] theorem settle_reach (s : State) : (settle s).reach = s.reach := rfl
@[simp] theorem settle_portCfg (s : State) : (settle s).portCfg = s.portCfg := rfl
@[simp] theorem settle_preferred (s : State) : (settle s).preferred = s.preferred := rfl
@[simp] theorem settle_channels (s : State) : (settle s).channels = s.channels := rfl
@[simp] theorem settle_points (s : State) : (settle s).points = s.points := rfl
@[simp] theorem settle_serial (s : State) : (settle s).serial = s.serial := rfl
@[simp] theorem settle_shelf (s : State) : (settle s).shelf = s.shelf := rfl
@[simp] theorem settle_groups (s : State) : (settle s).groups = s.groups := rfl
@[simp] theorem settle_loads (s : State) : (settle s).loads = s.loads := rfl
@[simp] theorem settle_loadExpiry (s : State) : (settle s).loadExpiry = s.loadExpiry := rfl
@[simp] theorem settle_sweep (s : State) : (settle s).sweep = s.sweep := rfl
@[simp] theorem settle_queues (s : State) : (settle s).queues = s.queues := rfl
@[simp] theorem settle_marks (s : State) : (settle s).marks = s.marks := rfl
@[simp] theorem settle_journal (s : State) : (settle s).journal = s.journal := rfl
@[simp] theorem settle_creds (s : State) : (settle s).creds = s.creds := rfl
@[simp] theorem settle_desks (s : State) : (settle s).desks = s.desks := rfl
@[simp] theorem settle_map (s : State) : (settle s).map = s.map := rfl
@[simp] theorem settle_records (s : State) : (settle s).records = s.records := rfl
@[simp] theorem settle_handoverCounter (s : State) : (settle s).handoverCounter = s.handoverCounter := rfl
@[simp] theorem settle_ports (s : State) : (settle s).ports = s.ports := rfl
@[simp] theorem settle_gateways (s : State) : (settle s).gateways = s.gateways := rfl
@[simp] theorem settle_shiftedOut (s : State) : (settle s).shiftedOut = s.shiftedOut := rfl
@[simp] theorem settle_freeCount (s : State) : (settle s).freeCount = s.freeCount := rfl
@[simp] theorem settle_at_port (s : State) (q : Port) : (settle s).port q = s.port q := rfl
@[simp] theorem settle_at_gateway (s : State) (h : Gateway) : (settle s).gateway h = s.gateway h := rfl
@[simp] theorem settle_at_desk (s : State) (e : Desk) : (settle s).desk e = s.desk e := rfl
@[simp] theorem settle_at_queue (s : State) (e : Desk) : (settle s).queue e = s.queue e := rfl
@[simp] theorem settle_at_mark (s : State) (e : Desk) : (settle s).mark e = s.mark e := rfl
@[simp] theorem settle_at_area (s : State) (b : Area) : (settle s).area b = s.area b := rfl
@[simp] theorem settle_at_load (s : State) (b : Area) : (settle s).load b = s.load b := rfl
@[simp] theorem settle_at_group (s : State) (h : GroupIdx) : (settle s).group h = s.group h := rfl
@[simp] theorem settle_at_record (s : State) (j : RecordIdx) : (settle s).record j = s.record j := rfl
@[simp] theorem settle_at_point (s : State) (j : Nat) : (settle s).point j = s.point j := rfl
@[simp] theorem settle_at_channel (s : State) (j : Nat) : (settle s).channel j = s.channel j := rfl
@[simp] theorem settle_at_param (s : State) (m : Fin 29) : (settle s).param m = s.param m := rfl

/-! ### Reading back a write -/

@[simp] theorem setPort_port (s : State) (i : Port) (x : PortState) : (s.setPort i x).port i = x := by
  simp [State.setPort, State.port]

theorem setPort_port_ne (s : State) {i j : Port} (x : PortState) (h : j ≠ i) :
    (s.setPort i x).port j = s.port j := by
  have h' : i.val ≠ j.val := fun e => h (Fin.ext e.symm)
  simp [State.setPort, State.port, h']

@[simp] theorem setGateway_gateway (s : State) (i : Gateway) (x : GatewayState) : (s.setGateway i x).gateway i = x := by
  simp [State.setGateway, State.gateway]

theorem setGateway_gateway_ne (s : State) {i j : Gateway} (x : GatewayState) (h : j ≠ i) :
    (s.setGateway i x).gateway j = s.gateway j := by
  have h' : i.val ≠ j.val := fun e => h (Fin.ext e.symm)
  simp [State.setGateway, State.gateway, h']

@[simp] theorem setDesk_desk (s : State) (i : Desk) (x : DeskState) : (s.setDesk i x).desk i = x := by
  simp [State.setDesk, State.desk]

theorem setDesk_desk_ne (s : State) {i j : Desk} (x : DeskState) (h : j ≠ i) :
    (s.setDesk i x).desk j = s.desk j := by
  have h' : i.val ≠ j.val := fun e => h (Fin.ext e.symm)
  simp [State.setDesk, State.desk, h']

@[simp] theorem setQueue_queue (s : State) (i : Desk) (x : Queue) : (s.setQueue i x).queue i = x := by
  simp [State.setQueue, State.queue]

theorem setQueue_queue_ne (s : State) {i j : Desk} (x : Queue) (h : j ≠ i) :
    (s.setQueue i x).queue j = s.queue j := by
  have h' : i.val ≠ j.val := fun e => h (Fin.ext e.symm)
  simp [State.setQueue, State.queue, h']

@[simp] theorem setMark_mark (s : State) (i : Desk) (x : Word32) : (s.setMark i x).mark i = x := by
  simp [State.setMark, State.mark]

theorem setMark_mark_ne (s : State) {i j : Desk} (x : Word32) (h : j ≠ i) :
    (s.setMark i x).mark j = s.mark j := by
  have h' : i.val ≠ j.val := fun e => h (Fin.ext e.symm)
  simp [State.setMark, State.mark, h']

@[simp] theorem setArea_area (s : State) (i : Area) (x : AreaRecord) : (s.setArea i x).area i = some x := by
  simp [State.setArea, State.area]

theorem setArea_area_ne (s : State) {i j : Area} (x : AreaRecord) (h : j ≠ i) :
    (s.setArea i x).area j = s.area j := by
  have h' : i.val ≠ j.val := fun e => h (Fin.ext e.symm)
  simp [State.setArea, State.area, h']

@[simp] theorem setLoad_load (s : State) (i : Area) (x : AreaLoad) : (s.setLoad i x).load i = x := by
  simp [State.setLoad, State.load]

theorem setLoad_load_ne (s : State) {i j : Area} (x : AreaLoad) (h : j ≠ i) :
    (s.setLoad i x).load j = s.load j := by
  have h' : i.val ≠ j.val := fun e => h (Fin.ext e.symm)
  simp [State.setLoad, State.load, h']

@[simp] theorem setGroup_group (s : State) (i : GroupIdx) (x : Group) : (s.setGroup i x).group i = some x := by
  simp [State.setGroup, State.group]

theorem setGroup_group_ne (s : State) {i j : GroupIdx} (x : Group) (h : j ≠ i) :
    (s.setGroup i x).group j = s.group j := by
  have h' : i.val ≠ j.val := fun e => h (Fin.ext e.symm)
  simp [State.setGroup, State.group, h']

@[simp] theorem setRecord_record (s : State) (i : RecordIdx) (x : Option Record) : (s.setRecord i x).record i = x := by
  simp [State.setRecord, State.record]

theorem setRecord_record_ne (s : State) {i j : RecordIdx} (x : Option Record) (h : j ≠ i) :
    (s.setRecord i x).record j = s.record j := by
  have h' : i.val ≠ j.val := fun e => h (Fin.ext e.symm)
  simp [State.setRecord, State.record, h']

end Sys2Proof.Machine
end

