-- ==== Sys2Proof/Laws/Changes.lean ====
section
/-! SUPPORT. What each shared operation can change: one lemma for each, cited in place of unfolding
it. -/

namespace Sys2Proof.Machine

/-! ## The relation -/

theorem sameField.trans {s t u : State} {f : Field} (h : sameField s t f) (k : sameField t u f) :
    sameField s u f := by
  cases f <;> exact Eq.trans k h

theorem OnlyChanges.refl {T : List Field} (s : State) : OnlyChanges T s s := by
  intro f _
  cases f <;> rfl

theorem OnlyChanges.trans {T : List Field} {s t u : State} (h : OnlyChanges T s t)
    (k : OnlyChanges T t u) : OnlyChanges T s u :=
  fun f hf => (h f hf).trans (k f hf)

theorem OnlyChanges.mono {T U : List Field} {s t : State} (h : OnlyChanges T s t) (hTU : T ⊆ U) :
    OnlyChanges U s t :=
  fun f hf => h f (fun hm => hf (hTU hm))

/-- Composition where each part has a list of its own. -/
theorem OnlyChanges.andThen {T U V : List Field} {s t u : State} (h : OnlyChanges T s t)
    (k : OnlyChanges U t u) (hT : T ⊆ V) (hU : U ⊆ V) : OnlyChanges V s u :=
  (h.mono hT).trans (k.mono hU)

theorem OnlyChanges.foldl {α : Type} {T : List Field} {step : State → α → State}
    (h : ∀ s a, OnlyChanges T s (step s a)) (l : List α) (s : State) :
    OnlyChanges T s (l.foldl step s) := by
  induction l generalizing s with
  | nil => exact .refl s
  | cons a rest ih => exact (h s a).trans (ih _)

/-- The same for a fold that carries something beside the state. -/
theorem OnlyChanges.foldl_with {α β : Type} {T : List Field} {step : State × β → α → State × β}
    (h : ∀ x a, OnlyChanges T x.1 (step x a).1) (l : List α) (x : State × β) :
    OnlyChanges T x.1 (l.foldl step x).1 := by
  induction l generalizing x with
  | nil => exact .refl x.1
  | cons a rest ih => exact (h x a).trans (ih _)

theorem OnlyChanges.pending {T : List Field} {s t : State} (h : OnlyChanges T s t)
    (n : Field.pending ∉ T := by decide) : t.pending = s.pending := h .pending n
theorem OnlyChanges.elapsed {T : List Field} {s t : State} (h : OnlyChanges T s t)
    (n : Field.elapsed ∉ T := by decide) : t.elapsed = s.elapsed := h .elapsed n
theorem OnlyChanges.refCycles {T : List Field} {s t : State} (h : OnlyChanges T s t)
    (n : Field.refCycles ∉ T := by decide) : t.refCycles = s.refCycles := h .refCycles n
theorem OnlyChanges.offset {T : List Field} {s t : State} (h : OnlyChanges T s t)
    (n : Field.offset ∉ T := by decide) : t.offset = s.offset := h .offset n
theorem OnlyChanges.dev {T : List Field} {s t : State} (h : OnlyChanges T s t)
    (n : Field.dev ∉ T := by decide) : t.dev = s.dev := h .dev n
theorem OnlyChanges.staged {T : List Field} {s t : State} (h : OnlyChanges T s t)
    (n : Field.staged ∉ T := by decide) : t.staged = s.staged := h .staged n
theorem OnlyChanges.params {T : List Field} {s t : State} (h : OnlyChanges T s t)
    (n : Field.params ∉ T := by decide) : t.params = s.params := h .params n
theorem OnlyChanges.roles {T : List Field} {s t : State} (h : OnlyChanges T s t)
    (n : Field.roles ∉ T := by decide) : t.roles = s.roles := h .roles n
theorem OnlyChanges.reach {T : List Field} {s t : State} (h : OnlyChanges T s t)
    (n : Field.reach ∉ T := by decide) : t.reach = s.reach := h .reach n
theorem OnlyChanges.portCfg {T : List Field} {s t : State} (h : OnlyChanges T s t)
    (n : Field.portCfg ∉ T := by decide) : t.portCfg = s.portCfg := h .portCfg n
theorem OnlyChanges.preferred {T : List Field} {s t : State} (h : OnlyChanges T s t)
    (n : Field.preferred ∉ T := by decide) : t.preferred = s.preferred := h .preferred n
theorem OnlyChanges.channels {T : List Field} {s t : State} (h : OnlyChanges T s t)
    (n : Field.channels ∉ T := by decide) : t.channels = s.channels := h .channels n
theorem OnlyChanges.points {T : List Field} {s t : State} (h : OnlyChanges T s t)
    (n : Field.points ∉ T := by decide) : t.points = s.points := h .points n
theorem OnlyChanges.serial {T : List Field} {s t : State} (h : OnlyChanges T s t)
    (n : Field.serial ∉ T := by decide) : t.serial = s.serial := h .serial n
theorem OnlyChanges.shelf {T : List Field} {s t : State} (h : OnlyChanges T s t)
    (n : Field.shelf ∉ T := by decide) : t.shelf = s.shelf := h .shelf n
theorem OnlyChanges.groups {T : List Field} {s t : State} (h : OnlyChanges T s t)
    (n : Field.groups ∉ T := by decide) : t.groups = s.groups := h .groups n
theorem OnlyChanges.loads {T : List Field} {s t : State} (h : OnlyChanges T s t)
    (n : Field.loads ∉ T := by decide) : t.loads = s.loads := h .loads n
theorem OnlyChanges.loadExpiry {T : List Field} {s t : State} (h : OnlyChanges T s t)
    (n : Field.loadExpiry ∉ T := by decide) : t.loadExpiry = s.loadExpiry := h .loadExpiry n
theorem OnlyChanges.sweep {T : List Field} {s t : State} (h : OnlyChanges T s t)
    (n : Field.sweep ∉ T := by decide) : t.sweep = s.sweep := h .sweep n
theorem OnlyChanges.queues {T : List Field} {s t : State} (h : OnlyChanges T s t)
    (n : Field.queues ∉ T := by decide) : t.queues = s.queues := h .queues n
theorem OnlyChanges.marks {T : List Field} {s t : State} (h : OnlyChanges T s t)
    (n : Field.marks ∉ T := by decide) : t.marks = s.marks := h .marks n
theorem OnlyChanges.horns {T : List Field} {s t : State} (h : OnlyChanges T s t)
    (n : Field.horns ∉ T := by decide) : t.horns = s.horns := h .horns n
theorem OnlyChanges.attention {T : List Field} {s t : State} (h : OnlyChanges T s t)
    (n : Field.attention ∉ T := by decide) : t.attention = s.attention := h .attention n
theorem OnlyChanges.journal {T : List Field} {s t : State} (h : OnlyChanges T s t)
    (n : Field.journal ∉ T := by decide) : t.journal = s.journal := h .journal n
theorem OnlyChanges.creds {T : List Field} {s t : State} (h : OnlyChanges T s t)
    (n : Field.creds ∉ T := by decide) : t.creds = s.creds := h .creds n
theorem OnlyChanges.desks {T : List Field} {s t : State} (h : OnlyChanges T s t)
    (n : Field.desks ∉ T := by decide) : t.desks = s.desks := h .desks n
theorem OnlyChanges.map {T : List Field} {s t : State} (h : OnlyChanges T s t)
    (n : Field.map ∉ T := by decide) : t.map = s.map := h .map n
theorem OnlyChanges.records {T : List Field} {s t : State} (h : OnlyChanges T s t)
    (n : Field.records ∉ T := by decide) : t.records = s.records := h .records n
theorem OnlyChanges.handoverCounter {T : List Field} {s t : State} (h : OnlyChanges T s t)
    (n : Field.handoverCounter ∉ T := by decide) : t.handoverCounter = s.handoverCounter := h .handoverCounter n
theorem OnlyChanges.ports {T : List Field} {s t : State} (h : OnlyChanges T s t)
    (n : Field.ports ∉ T := by decide) : t.ports = s.ports := h .ports n
theorem OnlyChanges.gateways {T : List Field} {s t : State} (h : OnlyChanges T s t)
    (n : Field.gateways ∉ T := by decide) : t.gateways = s.gateways := h .gateways n
theorem OnlyChanges.shiftedOut {T : List Field} {s t : State} (h : OnlyChanges T s t)
    (n : Field.shiftedOut ∉ T := by decide) : t.shiftedOut = s.shiftedOut := h .shiftedOut n
theorem OnlyChanges.freeCount {T : List Field} {s t : State} (h : OnlyChanges T s t)
    (n : Field.freeCount ∉ T := by decide) : t.freeCount = s.freeCount := h .freeCount n

/-! ## Writes of one field -/

theorem setPort_changes (s : State) (p : Port) (x : PortState) :
    OnlyChanges [.ports] s (s.setPort p x) := by
  intro f hf; cases f <;> first | rfl | simp at hf

theorem setGateway_changes (s : State) (g : Gateway) (x : GatewayState) :
    OnlyChanges [.gateways] s (s.setGateway g x) := by
  intro f hf; cases f <;> first | rfl | simp at hf

theorem setDesk_changes (s : State) (d : Desk) (x : DeskState) :
    OnlyChanges [.desks] s (s.setDesk d x) := by
  intro f hf; cases f <;> first | rfl | simp at hf

theorem setQueue_changes (s : State) (d : Desk) (x : Queue) :
    OnlyChanges [.queues] s (s.setQueue d x) := by
  intro f hf; cases f <;> first | rfl | simp at hf

theorem setMark_changes (s : State) (d : Desk) (x : Word32) :
    OnlyChanges [.marks] s (s.setMark d x) := by
  intro f hf; cases f <;> first | rfl | simp at hf

theorem setArea_changes (s : State) (a : Area) (x : AreaRecord) :
    OnlyChanges [.map] s (s.setArea a x) := by
  intro f hf; cases f <;> first | rfl | simp at hf

theorem setLoad_changes (s : State) (a : Area) (x : AreaLoad) :
    OnlyChanges [.loads] s (s.setLoad a x) := by
  intro f hf; cases f <;> first | rfl | simp at hf

theorem setGroup_changes (s : State) (g : GroupIdx) (x : Group) :
    OnlyChanges [.groups] s (s.setGroup g x) := by
  intro f hf; cases f <;> first | rfl | simp at hf

theorem setRecord_changes (s : State) (i : RecordIdx) (x : Option Record) :
    OnlyChanges [.records] s (s.setRecord i x) := by
  intro f hf; cases f <;> first | rfl | simp at hf

theorem setPoint_changes (s : State) (i : Nat) (x : Point) :
    OnlyChanges [.points] s (s.setPoint i x) := by
  intro f hf; cases f <;> first | rfl | simp at hf

theorem setChannel_changes (s : State) (c : Nat) (x : Channel) :
    OnlyChanges [.channels] s (s.setChannel c x) := by
  intro f hf; cases f <;> first | rfl | simp at hf

theorem enter_changes (s : State) (k : JournalKind) (e : EntryFields) :
    OnlyChanges [.journal] s (s.enter k e) := by
  intro f hf; cases f <;> first | rfl | simp at hf

theorem deliver_changes (s : State) (n : Notice) (dest : Desk → Bool) :
    OnlyChanges [.queues] s (deliver s n dest) := by
  intro f hf; cases f <;> first | rfl | simp at hf

theorem handItems_changes (s : State) (i : Nat) (p : Point) (fresh : Bool) :
    OnlyChanges [.records] s (handItems s i p fresh) := by
  intro f hf; cases f <;> first | rfl | simp at hf

theorem resolveMoved_changes (s : State) (i : Nat) (old new : Area) :
    OnlyChanges [.records] s (resolveMoved s i old new) := by
  intro f hf; cases f <;> first | rfl | simp at hf

theorem settle_changes (s : State) : OnlyChanges [.horns, .attention] s (settle s) := by
  intro f hf; cases f <;> first | rfl | simp at hf

/-- The lines take no part in what they are derived from. -/
theorem settle_settle (s : State) : settle (settle s) = settle s := rfl

/-! ## Notices -/

theorem areaNotice_changes (s : State) (a : Area) (b : Option Party) :
    OnlyChanges [.queues] s (areaNotice s a b) := by
  unfold areaNotice
  split
  · exact .refl s
  · exact deliver_changes _ _ _

theorem summaryNotice_changes (s : State) (a : Area) :
    OnlyChanges [.queues] s (summaryNotice s a) := deliver_changes _ _ _

theorem sessionNotice_changes (s : State) (d : Desk) (b : Badge) (x : Option Presence) (c : Cause) :
    OnlyChanges [.queues] s (sessionNotice s d b x c) := deliver_changes _ _ _

theorem timeSetNotice_changes (s : State) (old new : MillTime) :
    OnlyChanges [.queues] s (timeSetNotice s old new) := deliver_changes _ _ _

theorem lockoutNotice_changes (s : State) (d : Desk) (e : MillTime) :
    OnlyChanges [.queues] s (lockoutNotice s d e) := deliver_changes _ _ _

theorem gatewayNotice_changes (s : State) : OnlyChanges [.queues] s (gatewayNotice s) :=
  deliver_changes _ _ _

theorem handoverNotice_changes (s : State) (b : HandoverBody) (dest : Desk → Bool) :
    OnlyChanges [.queues] s (handoverNotice s b dest) := deliver_changes _ _ _

theorem pointNotice_changes (s : State) (i : Nat) (n c : Bool) :
    OnlyChanges [.queues] s (pointNotice s i n c) := by
  unfold pointNotice
  split
  · exact deliver_changes _ _ _
  · exact .refl s

/-! ## The responsibility map -/

theorem rederiveArea_changes (old : State) (c : Cause) (m : Word16) (s : State) (a : Area) :
    OnlyChanges [.map, .queues, .journal] s (rederiveArea old c m s a) := by
  unfold rederiveArea
  split
  · exact .refl s
  · dsimp only
    split
    · exact ((setArea_changes _ _ _).mono (by decide)).trans
        (((areaNotice_changes _ _ _).mono (by decide)).trans ((enter_changes _ _ _).mono (by decide)))
    · split
      · exact ((setArea_changes _ _ _).mono (by decide)).trans
          ((areaNotice_changes _ _ _).mono (by decide))
      · exact (setArea_changes _ _ _).mono (by decide)

theorem rederive_changes (old : State) (c : Cause) (m : Word16) (s : State) :
    OnlyChanges [.map, .queues, .journal] s (rederive old c m s) :=
  .foldl (rederiveArea_changes old c m) _ _

theorem changeAreas_changes (s : State) (set : Word16) (f : AreaRecord → AreaRecord) :
    OnlyChanges [.map] s (changeAreas s set f) := by
  refine .foldl (fun t a => ?_) _ _
  split
  · exact setArea_changes _ _ _
  · exact .refl t

theorem changeOwner_changes (s : State) (set : Word16) (f : AreaRecord → AreaRecord) :
    OnlyChanges [.map, .queues, .journal] s (changeOwner s set f) :=
  ((changeAreas_changes _ _ _).mono (by decide)).trans (rederive_changes _ _ _ _)

/-! ## The handover unit -/

theorem changeCauses_changes (s : State) (i : RecordIdx) (r : Record) :
    OnlyChanges [.records, .queues, .journal] s (changeCauses s i r) := by
  have h : OnlyChanges [.records, .queues, .journal] s
      (handoverNotice (s.setRecord i (some (s.followCauses r))) ((s.followCauses r).body i)
        (s.followCauses r).names) :=
    ((setRecord_changes _ _ _).mono (by decide)).trans
      ((handoverNotice_changes _ _ _).mono (by decide))
  unfold changeCauses
  dsimp only
  split
  · exact h
  · exact h.trans ((enter_changes _ _ _).mono (by decide))

theorem floodEntered_changes (s : State) (a : Area) :
    OnlyChanges [.records, .queues, .journal] s (floodEntered s a) := by
  refine .foldl (fun t i => ?_) _ _
  split
  · split
    · exact changeCauses_changes _ _ _
    · exact .refl t
  · exact .refl t

theorem floodLeft_changes (s : State) (a : Area) :
    OnlyChanges [.records, .queues, .journal] s (floodLeft s a) := by
  refine .foldl (fun t i => ?_) _ _
  split
  · split
    · exact changeCauses_changes _ _ _
    · exact .refl t
  · exact .refl t

/-- The fields an ending of a record can change. -/
def endingFields : List Field := [.map, .records, .queues, .journal]

theorem endRecord_changes (s : State) (i : RecordIdx) (r : Record) (o : HandoverOutcome)
    (p : Option Port) (b : Option Badge) : OnlyChanges endingFields s (endRecord s i r o p b) := by
  have h : OnlyChanges endingFields s (if o.transfers then ownerTransfer s r
      else changeAreas s r.areas (fun x => { x with link := none })) := by
    split
    · exact (changeOwner_changes _ _ _).mono (by decide)
    · exact (changeAreas_changes _ _ _).mono (by decide)
  exact h.trans (((setRecord_changes _ _ _).mono (by decide)).trans
    (((handoverNotice_changes _ _ _).mono (by decide)).trans ((enter_changes _ _ _).mono (by decide))))

theorem endOverruns_changes (s : State) : OnlyChanges endingFields s (endOverruns s) := by
  refine .foldl (fun t i => ?_) _ _
  split
  · split
    · exact endRecord_changes _ _ _ _ _ _
    · exact .refl t
  · exact .refl t

theorem sessionTold_changes (s : State) (d : Desk) (b : Badge) (x : Option Presence) :
    OnlyChanges endingFields s (sessionTold s d b x) := by
  refine .foldl (fun t i => ?_) _ _
  split
  · split
    · exact endRecord_changes _ _ _ _ _ _
    · split
      · exact (changeCauses_changes _ _ _).mono (by decide)
      · exact .refl t
  · exact .refl t

/-! ## The load meter -/

theorem leaveFlood_changes (s : State) (a : Area) :
    OnlyChanges [.loads, .queues] s (leaveFlood s a) := by
  unfold leaveFlood
  dsimp only
  split
  · exact ((summaryNotice_changes _ _).mono (by decide)).trans
      ((setLoad_changes _ _ _).mono (by decide))
  · exact (setLoad_changes _ _ _).mono (by decide)

/-- The fields a change of load can change. -/
def loadFields : List Field := [.loads, .records, .queues, .journal]

theorem loadStateChanged_changes (s : State) (a : Area) (x : LoadState) :
    OnlyChanges loadFields s (loadStateChanged s a x) := by
  unfold loadStateChanged
  dsimp only
  have notice : ∀ t : State, OnlyChanges loadFields t
      ((areaNotice t a (t.owner a)).enter .loadState
        { area := some a
          detail := detail16 x.code (s.load a).state.code (BitVec.ofNat 16 (t.load a).load) }) :=
    fun t => ((areaNotice_changes _ _ _).mono (by decide)).trans ((enter_changes _ _ _).mono (by decide))
  have told : OnlyChanges loadFields s
      (if (s.load a).state = .flood then floodEntered s a
        else if x = .flood then floodLeft s a else s) := by
    split
    · exact (floodEntered_changes _ _).mono (by decide)
    · split
      · exact (floodLeft_changes _ _).mono (by decide)
      · exact .refl s
  refine OnlyChanges.trans (told.trans ?_) (notice _)
  split
  · exact (setLoad_changes _ _ _).mono (by decide)
  · split
    · exact (leaveFlood_changes _ _).mono (by decide)
    · exact .refl _

theorem applyLoad_changes (s : State) (a : Area) (l : Nat) :
    OnlyChanges loadFields s (applyLoad s a l) := by
  unfold applyLoad
  dsimp only
  split
  · exact (setLoad_changes _ _ _).mono (by decide)
  · exact ((setLoad_changes _ _ _).mono (by decide)).trans (loadStateChanged_changes _ _ _)

theorem weightedRaise_changes (s : State) (a : Area) (p : Nat) :
    OnlyChanges loadFields s (weightedRaise s a p) := applyLoad_changes _ _ _

theorem countMuted_changes (s : State) (a : Area) : OnlyChanges [.loads] s (countMuted s a) :=
  setLoad_changes _ _ _

/-- The fields a decay or a re-evaluation can change. -/
def decayFields : List Field := [.loads, .map, .records, .queues, .journal]

theorem decayArea_changes (s : State) (a : Area) : OnlyChanges decayFields s (decayArea s a) := by
  unfold decayArea
  split
  · exact ((applyLoad_changes _ _ _).mono (by decide)).trans ((endOverruns_changes _).mono (by decide))
  · exact .refl s

theorem reevaluateArea_changes (s : State) (a : Area) :
    OnlyChanges decayFields s (reevaluateArea s a) := by
  unfold reevaluateArea
  split
  · exact ((applyLoad_changes _ _ _).mono (by decide)).trans ((endOverruns_changes _).mono (by decide))
  · exact .refl s

/-! ## The alarm state engine -/

theorem announce_changes (s : State) (i : Nat) (c : Change) :
    OnlyChanges [.records, .queues] s (announce s i c) := by
  unfold announce
  split
  · refine OnlyChanges.trans ?_ ((handItems_changes _ _ _ _).mono (by decide))
    split
    · exact .refl s
    · exact (pointNotice_changes _ _ _ _).mono (by decide)
  · exact .refl s

theorem releaseMember_changes (s : State) (m : Nat) :
    OnlyChanges [.points, .records, .queues] s (releaseMember s m) := by
  unfold releaseMember
  split
  · split
    · exact ((setPoint_changes _ _ _).mono (by decide)).trans ((announce_changes _ _ _).mono (by decide))
    · exact .refl s
  · exact .refl s

/-- The fields the handing on of a point's change can change. -/
def handingFields : List Field := [.points, .groups, .records, .queues]

theorem releaseGroup_changes (s : State) (g : GroupIdx) (x : Group) :
    OnlyChanges handingFields s (releaseGroup s g x) :=
  ((setGroup_changes _ _ _).mono (by decide)).trans
    (.foldl (fun t m => (releaseMember_changes t m).mono (by decide)) _ _)

theorem headBecameActive_changes (s : State) (g : GroupIdx) :
    OnlyChanges [.groups] s (headBecameActive s g) := by
  unfold headBecameActive
  split
  · exact setGroup_changes _ _ _
  · exact .refl s

theorem headBecameInactive_changes (s : State) (g : GroupIdx) :
    OnlyChanges handingFields s (headBecameInactive s g) := by
  unfold headBecameInactive
  split
  · split
    · split
      · exact releaseGroup_changes _ _ _
      · exact (setGroup_changes _ _ _).mono (by decide)
    · exact .refl s
  · exact .refl s

theorem groupTold_changes (s : State) (i : Nat) (b : Bool) :
    OnlyChanges handingFields s (groupTold s i b) := by
  unfold groupTold
  split
  · split
    · split
      · exact .refl s
      · split
        · exact (headBecameActive_changes _ _).mono (by decide)
        · exact headBecameInactive_changes _ _
    · exact .refl s
  · exact .refl s

theorem handOn_changes (s : State) (i : Nat) (old : Point) (c : Change) :
    OnlyChanges handingFields s (handOn s i old c) :=
  ((announce_changes _ _ _).mono (by decide)).trans (groupTold_changes _ _ _)

/-- The fields the engine can change. -/
def engineFields : List Field := [.points, .serial, .groups, .loads, .records, .queues, .journal]

theorem setSerial_changes (s : State) (x : Word32) :
    OnlyChanges [.serial] s { s with serial := x } := by
  intro f hf; cases f <;> first | rfl | simp at hf

theorem annunciate_changes (s : State) (i : Nat) (old p : Point) :
    OnlyChanges engineFields s (annunciate s i old p) := by
  unfold annunciate
  dsimp only
  have start : OnlyChanges engineFields s (weightedRaise
      ({ s with serial := s.serial + 1 }.setPoint i
        { p with state := .unackActive, raiseSerial := s.serial + 1 })
      p.cfg.area p.cfg.priority) :=
    ((setSerial_changes _ _).mono (by decide)).trans (((setPoint_changes _ _ _).mono (by decide)).trans
      ((weightedRaise_changes _ _ _).mono (by decide)))
  split
  · exact start.trans (((countMuted_changes _ _).mono (by decide)).trans
      (((setPoint_changes _ _ _).mono (by decide)).trans ((handOn_changes _ _ _ _).mono (by decide))))
  · exact start.trans ((handOn_changes _ _ _ _).mono (by decide))

theorem quietRaise_changes (s : State) (i : Nat) (old p : Point) :
    OnlyChanges handingFields s (quietRaise s i old p) :=
  ((setPoint_changes _ _ _).mono (by decide)).trans (handOn_changes _ _ _ _)

theorem freshRaise_changes (s : State) (i : Nat) (p : Point) (t : Time) :
    OnlyChanges engineFields s (freshRaise s i p t) := by
  unfold freshRaise
  dsimp only
  split
  · exact (quietRaise_changes _ _ _ _).mono (by decide)
  · exact annunciate_changes _ _ _ _

theorem foldRaise_changes (s : State) (i : Nat) (p : Point) :
    OnlyChanges handingFields s (foldRaise s i p) :=
  ((setPoint_changes _ _ _).mono (by decide)).trans (handOn_changes _ _ _ _)

theorem engineRaise_changes (s : State) (i : Nat) (t : Time) :
    OnlyChanges engineFields s (engineRaise s i t) := by
  unfold engineRaise
  split
  · split
    · exact (foldRaise_changes _ _ _).mono (by decide)
    · exact freshRaise_changes _ _ _ _
  · exact .refl s

theorem engineReturn_changes (s : State) (i : Nat) (t : Time) (b : Bool) :
    OnlyChanges handingFields s (engineReturn s i t b) := by
  unfold engineReturn
  split
  · dsimp only
    split
    · exact (setPoint_changes _ _ _).mono (by decide)
    · exact ((setPoint_changes _ _ _).mono (by decide)).trans (handOn_changes _ _ _ _)
  · exact .refl s

theorem acknowledge_changes (s : State) (i : Nat) (p : Point) (a : AckRecord) :
    OnlyChanges handingFields s (acknowledge s i p a) :=
  ((setPoint_changes _ _ _).mono (by decide)).trans (handOn_changes _ _ _ _)

theorem escalate_changes (s : State) (i : Nat) (p : Point) :
    OnlyChanges engineFields s (escalate s i p) :=
  ((setSerial_changes _ _).mono (by decide)).trans (((setPoint_changes _ _ _).mono (by decide)).trans
    ((handOn_changes _ _ _ _).mono (by decide)))

theorem deliverEvent_changes (s : State) (i : Nat) (raise : Bool) (t : Time) (b : Bool) :
    OnlyChanges engineFields s (deliverEvent s i raise t b) := by
  unfold deliverEvent
  split
  · dsimp only
    split
    · exact ((setPoint_changes _ _ _).mono (by decide)).trans (engineRaise_changes _ _ _)
    · exact ((setPoint_changes _ _ _).mono (by decide)).trans
        ((engineReturn_changes _ _ _ _).mono (by decide))
  · exact .refl s

/-! ## The evaluator -/

theorem handleCondition_changes (s : State) (i : Nat) (p : Point) (b : Bool) :
    OnlyChanges engineFields s (handleCondition s i p b) := by
  have put : ∀ q, OnlyChanges engineFields s (s.setPoint i q) :=
    fun q => (setPoint_changes _ _ _).mono (by decide)
  unfold handleCondition
  dsimp only
  split
  · exact .refl s
  · split
    · exact put _
    · split
      · exact put _
      · generalize (if b = true then p.cfg.onDelay else p.cfg.offDelay) = delay
        split
        · exact (put _).trans (deliverEvent_changes _ _ _ _ _)
        · exact put _

theorem evaluatePoint_changes (s : State) (v : Word16) (i : Nat) :
    OnlyChanges engineFields s (evaluatePoint s v i) := by
  unfold evaluatePoint
  split
  · exact handleCondition_changes _ _ _ _
  · exact .refl s

theorem loseInput_changes (s : State) (i : Nat) :
    OnlyChanges [.points, .queues] s (loseInput s i) := by
  unfold loseInput
  split
  · exact ((setPoint_changes _ _ _).mono (by decide)).trans
      ((pointNotice_changes _ _ _ _).mono (by decide))
  · exact .refl s

theorem regainInput_changes (s : State) (v : Word16) (i : Nat) :
    OnlyChanges engineFields s (regainInput s v i) := by
  unfold regainInput
  split
  · exact ((setPoint_changes _ _ _).mono (by decide)).trans ((evaluatePoint_changes _ _ _).trans
      ((pointNotice_changes _ _ _ _).mono (by decide)))
  · exact .refl s

theorem losePoints_changes (s : State) (c : Nat) :
    OnlyChanges [.points, .queues] s (losePoints s c) := .foldl loseInput_changes _ _

/-- The fields an entry of a channel report can change. -/
def reportFields : List Field :=
  [.channels, .points, .serial, .groups, .loads, .records, .queues, .journal]

theorem applyGood_changes (s : State) (c : Nat) (x : Channel) (v : Word16) :
    OnlyChanges reportFields s (applyGood s c x v) := by
  have put : ∀ t c y, OnlyChanges reportFields t (State.setChannel t c y) :=
    fun t c y => (setChannel_changes t c y).mono (by decide)
  unfold applyGood
  dsimp only
  cases x.quality
  case bad => exact (put _ _ _).trans (.foldl (fun t i => (regainInput_changes t _ i).mono (by decide)) _ _)
  case stale => exact (put _ _ _).trans (.foldl (fun t i => (regainInput_changes t _ i).mono (by decide)) _ _)
  case good => exact (put _ _ _).trans (.foldl (fun t i => (evaluatePoint_changes t _ i).mono (by decide)) _ _)
  case never => exact (put _ _ _).trans (.foldl (fun t i => (evaluatePoint_changes t _ i).mono (by decide)) _ _)

theorem applyBad_changes (s : State) (c : Nat) (x : Channel) :
    OnlyChanges [.channels, .points, .queues] s (applyBad s c x) := by
  have put : ∀ t c y, OnlyChanges [.channels, .points, .queues] t (State.setChannel t c y) :=
    fun t c y => (setChannel_changes t c y).mono (by decide)
  unfold applyBad
  dsimp only
  cases x.quality
  case good => exact (put _ _ _).trans ((losePoints_changes _ _).mono (by decide))
  case never => exact (put _ _ _).trans ((losePoints_changes _ _).mono (by decide))
  case bad => exact put _ _ _
  case stale => exact put _ _ _

theorem applyEntry_changes (x : State × Nat × Nat) (e : ReportEntry) :
    OnlyChanges reportFields x.1 (applyEntry x e).1 := by
  unfold applyEntry
  split
  · exact .refl x.1
  · dsimp only
    split
    · exact applyGood_changes _ _ _ _
    · exact (applyBad_changes _ _ _).mono (by decide)

theorem markStale_changes (s : State) (c : Nat) (x : Channel) :
    OnlyChanges [.channels, .points, .queues] s (markStale s c x) :=
  ((setChannel_changes _ _ _).mono (by decide)).trans ((losePoints_changes _ _).mono (by decide))

theorem escalationCheck_changes (s : State) (i : Nat) :
    OnlyChanges engineFields s (escalationCheck s i) := by
  unfold escalationCheck
  split
  · split
    · exact escalate_changes _ _ _
    · exact .refl s
  · exact .refl s

theorem stalenessCheck_changes (s : State) (i : Nat) (b : Bool) :
    OnlyChanges [.channels, .points, .queues] s (stalenessCheck s i b) := by
  unfold stalenessCheck
  split
  · split
    · split
      · exact markStale_changes _ _ _
      · exact .refl s
    · exact .refl s
  · exact .refl s

theorem chatterCheck_changes (s : State) (i : Nat) :
    OnlyChanges handingFields s (chatterCheck s i) := by
  have put : ∀ q, OnlyChanges handingFields s (s.setPoint i q) :=
    fun q => (setPoint_changes _ _ _).mono (by decide)
  unfold chatterCheck
  split
  · split
    · exact put _
    · dsimp only
      split
      · exact (put _).trans (handOn_changes _ _ _ _)
      · exact put _
  · exact .refl s

theorem visitPoint_changes (s : State) (i : Nat) (b : Bool) :
    OnlyChanges reportFields s (visitPoint s i b) :=
  ((escalationCheck_changes _ _).mono (by decide)).trans
    (((stalenessCheck_changes _ _ _).mono (by decide)).trans ((chatterCheck_changes _ _).mono (by decide)))

/-! ## Sessions, ports and gateways -/

theorem sessionChanged_changes (s : State) (d : Desk) (b : Badge) (x y : Option Presence) (c : Cause) :
    OnlyChanges endingFields s (sessionChanged s d b x y c) :=
  ((rederive_changes _ _ _ _).mono (by decide)).trans ((sessionTold_changes _ _ _ _).trans
    (((deliver_changes _ _ _).mono (by decide)).trans ((enter_changes _ _ _).mono (by decide))))

/-- The fields a change of a session can change. -/
def sessionFields : List Field := [.desks, .map, .records, .queues, .journal]

theorem interact_changes (s : State) (d : Desk) : OnlyChanges sessionFields s (interact s d) := by
  unfold interact
  split
  · exact .refl s
  · dsimp only
    split
    · exact (setDesk_changes _ _ _).mono (by decide)
    · exact ((setDesk_changes _ _ _).mono (by decide)).trans
        ((sessionChanged_changes _ _ _ _ _ _).mono (by decide))

theorem fadeSession_changes (s : State) (d : Desk) (x : Session) (dest : Presence) (c : Cause) :
    OnlyChanges sessionFields s (fadeSession s d x dest c) :=
  ((setDesk_changes _ _ _).mono (by decide)).trans
    ((sessionChanged_changes _ _ _ _ _ _).mono (by decide))

theorem endSession_changes (s : State) (d : Desk) (c : Cause) :
    OnlyChanges sessionFields s (endSession s d c) := by
  unfold endSession
  split
  · exact .refl s
  · exact ((setDesk_changes _ _ _).mono (by decide)).trans
      ((sessionChanged_changes _ _ _ _ _ _).mono (by decide))

theorem removeCredential_changes (s : State) (b : Badge) :
    OnlyChanges [.creds] s (removeCredential s b) := by
  unfold removeCredential
  split
  · intro f hf; cases f <;> first | rfl | simp at hf
  · exact .refl s

theorem endRevoked_changes (s : State) (b : Badge) :
    OnlyChanges sessionFields s (endRevoked s b) := by
  unfold endRevoked
  split
  · exact endSession_changes _ _ _
  · exact .refl s

theorem exchangeRoles_changes (s : State) (g : Gateway) (c : Byte) :
    OnlyChanges [.gateways, .journal] s (exchangeRoles s g c) :=
  ((setGateway_changes _ _ _).mono (by decide)).trans
    (((setGateway_changes _ _ _).mono (by decide)).trans ((enter_changes _ _ _).mono (by decide)))

theorem judgeRoles_changes (s : State) : OnlyChanges [.gateways, .journal] s (judgeRoles s) := by
  unfold judgeRoles
  split
  · split
    · exact exchangeRoles_changes _ _ _
    · exact .refl s
  · exact .refl s

/-- The fields a port's being heard can change. -/
def hearFields : List Field := [.ports, .gateways, .map, .queues, .journal]

theorem hear_changes (s : State) (p : Port) : OnlyChanges hearFields s (hear s p) := by
  unfold hear
  dsimp only
  split
  · exact (setPort_changes _ _ _).mono (by decide)
  · split
    · exact ((setPort_changes _ _ _).mono (by decide)).trans ((rederive_changes _ _ _ _).mono (by decide))
    · exact ((setPort_changes _ _ _).mono (by decide)).trans ((judgeRoles_changes _).mono (by decide))

theorem changeHealth_changes (s : State) (g : Gateway) (y : GatewayState) :
    OnlyChanges [.ports, .gateways, .journal] s (changeHealth s g y) := by
  unfold changeHealth
  dsimp only
  split
  · exact (setGateway_changes _ _ _).mono (by decide)
  · have drop : OnlyChanges [.ports, .gateways, .journal] s
        (if y.health = .failed then
          (s.setGateway g y).setPort (gatewayPort g)
            { (s.setGateway g y).port (gatewayPort g) with slot := none }
        else s.setGateway g y) := by
      split
      · exact ((setGateway_changes _ _ _).mono (by decide)).trans ((setPort_changes _ _ _).mono (by decide))
      · exact (setGateway_changes _ _ _).mono (by decide)
    exact drop.trans (((judgeRoles_changes _).mono (by decide)).trans
      ((enter_changes _ _ _).mono (by decide)))

theorem beginTransaction_changes (s : State) (p : Port) (ev : FrameEvent) :
    OnlyChanges hearFields s (beginTransaction s p ev) := by
  unfold beginTransaction
  cases splitPort p with
  | inl d => exact hear_changes _ _
  | inr g =>
    dsimp only
    have both := (hear_changes s p).trans ((changeHealth_changes (hear s p) g
      (((hear s p).gateway g).next s.elapsed ev)).mono (U := hearFields) (by decide))
    split
    · exact both
    · exact both.trans ((gatewayNotice_changes _).mono (by decide))

theorem heardAt_changes (s : State) (p : Port) : OnlyChanges hearFields s (heardAt s p) :=
  beginTransaction_changes _ _ _

/-- The fields an operator request changes before its rule goes on. -/
def actingFields : List Field := [.ports, .gateways, .desks, .map, .records, .queues, .journal]

theorem actingAt_changes (s : State) (d : Desk) : OnlyChanges actingFields s (actingAt s d) :=
  ((heardAt_changes _ _).mono (by decide)).trans ((interact_changes _ _).mono (by decide))

theorem becomeSilent_changes (s : State) (p : Port) :
    OnlyChanges [.ports, .gateways, .desks, .map, .records, .queues, .journal] s (becomeSilent s p) := by
  have start : OnlyChanges [.ports, .gateways, .desks, .map, .records, .queues, .journal] s
      (s.setPort p { s.port p with link := .silent, liveness := none }) :=
    (setPort_changes _ _ _).mono (by decide)
  unfold becomeSilent
  dsimp only
  split
  · exact start.trans (((endSession_changes _ _ _).mono (by decide)).trans
      ((rederive_changes _ _ _ _).mono (by decide)))
  · exact start.trans (((judgeRoles_changes _).mono (by decide)).trans
      ((gatewayNotice_changes _).mono (by decide)))

end Sys2Proof.Machine
end

