-- ==== Sys2Proof/Laws/Basic.lean ====
section
/-! SUPPORT. Small lemmas of the tables, the journal, the queues and the ports. -/

namespace Sys2Proof.Machine

/-! ## Ports -/

@[simp] theorem splitPort_deskPort (d : Desk) : splitPort (deskPort d) = .inl d := by
  revert d; decide

@[simp] theorem splitPort_gatewayPort (g : Gateway) : splitPort (gatewayPort g) = .inr g := by
  revert g; decide

theorem deskPort_injective {d e : Desk} (h : deskPort d = deskPort e) : d = e :=
  Fin.ext (congrArg (fun p : Port => p.val) h)

theorem deskConsole_consoleDesk (c : Console) : deskConsole (consoleDesk c) = some c := by
  revert c; decide

theorem consoleDesk_injective {c e : Console} (h : consoleDesk c = consoleDesk e) : c = e :=
  Fin.ext (congrArg (fun d : Desk => d.val) h)

/-! ## Keyed lists -/

theorem tableGet_tableModify {α : Type} (t : List (Nat × α)) (q : Nat) (f : α → α) :
    tableGet (tableModify t q f) q = (tableGet t q).map f := by
  induction t with
  | nil => rfl
  | cons e rest ih =>
    obtain ⟨k, x⟩ := e
    by_cases h : k = q
    · simp [tableModify, tableGet, h]
    · simpa [tableModify, tableGet, h] using ih

theorem tableGet_tableModify_ne {α : Type} (t : List (Nat × α)) {q j : Nat} (h : j ≠ q) (f : α → α) :
    tableGet (tableModify t q f) j = tableGet t j := by
  induction t with
  | nil => rfl
  | cons e rest ih =>
    obtain ⟨k, x⟩ := e
    by_cases hk : k = q
    · subst hk
      simpa [tableModify, tableGet, Ne.symm h] using ih
    · by_cases hj : k = j
      · simp [tableModify, tableGet, hj, h]
      · simpa [tableModify, tableGet, hk, hj] using ih

theorem tableModify_keys {α : Type} (t : List (Nat × α)) (q : Nat) (f : α → α) :
    (tableModify t q f).map (·.1) = t.map (·.1) := by
  induction t with
  | nil => rfl
  | cons e rest ih =>
    by_cases h : e.1 = q <;> simpa [tableModify, h] using ih

theorem KeysRise.modify {α : Type} {t : List (Nat × α)} (h : KeysRise t) (q : Nat) (f : α → α) :
    KeysRise (tableModify t q f) := by
  have keys : ∀ u : List (Nat × α), KeysRise u ↔ (u.map (·.1)).Pairwise (· < ·) := fun u => by
    simp [KeysRise, List.pairwise_map]
  rw [keys, tableModify_keys, ← keys]
  exact h

theorem tableGet_tablePut {α : Type} (t : List (Nat × α)) (q : Nat) (x : α) :
    tableGet (tablePut t q x) q = some x := by
  induction t with
  | nil => simp [tablePut, tableGet]
  | cons e rest ih =>
    obtain ⟨k, y⟩ := e
    by_cases h1 : q < k
    · simp [tablePut, tableGet, h1]
    · by_cases h2 : q = k
      · simp [tablePut, tableGet, h2]
      · simpa [tablePut, tableGet, h1, h2, Ne.symm h2] using ih

theorem tablePut_mem_key {α : Type} {t : List (Nat × α)} {q : Nat} {x : α} {e : Nat × α}
    (h : e ∈ tablePut t q x) : e.1 = q ∨ e ∈ t := by
  induction t with
  | nil => simp [tablePut] at h; simp [h]
  | cons f rest ih =>
    obtain ⟨k, y⟩ := f
    by_cases h1 : q < k
    · simp [tablePut, h1] at h
      rcases h with h | h | h <;> simp [h]
    · by_cases h2 : q = k
      · simp [tablePut, h2] at h
        rcases h with h | h <;> simp [h, h2]
      · simp [tablePut, h1, h2] at h
        rcases h with h | h
        · simp [h]
        · rcases ih h with h | h <;> simp [h]

theorem KeysRise.put {α : Type} {t : List (Nat × α)} (h : KeysRise t) (q : Nat) (x : α) :
    KeysRise (tablePut t q x) := by
  induction t with
  | nil => simp [KeysRise, tablePut]
  | cons f rest ih =>
    obtain ⟨k, y⟩ := f
    have hk : ∀ e ∈ rest, k < e.1 := (List.pairwise_cons.1 h).1
    have hr : KeysRise rest := (List.pairwise_cons.1 h).2
    by_cases h1 : q < k
    · simp only [tablePut, h1, if_true]
      refine List.pairwise_cons.2 ⟨?_, h⟩
      intro e he
      rcases List.mem_cons.1 he with rfl | he
      · exact h1
      · exact Nat.lt_trans h1 (hk e he)
    · by_cases h2 : q = k
      · subst h2
        simp only [tablePut, Nat.lt_irrefl, if_false, if_true]
        exact List.pairwise_cons.2 ⟨hk, hr⟩
      · simp only [tablePut, h1, h2, if_false]
        refine List.pairwise_cons.2 ⟨?_, ih hr⟩
        intro e he
        rcases tablePut_mem_key he with he | he
        · show k < e.1
          omega
        · exact hk e he

theorem KeysRise.get {α : Type} {t : List (Nat × α)} (h : KeysRise t) {e : Nat × α} (he : e ∈ t) :
    tableGet t e.1 = some e.2 := by
  induction t with
  | nil => simp at he
  | cons f rest ih =>
    obtain ⟨k, y⟩ := f
    rcases List.mem_cons.1 he with rfl | he
    · simp [tableGet]
    · have hk : k < e.1 := (List.pairwise_cons.1 h).1 e he
      have : k ≠ e.1 := by omega
      simpa [tableGet, this] using ih (List.pairwise_cons.1 h).2 he

/-! ## Points and channels -/

theorem setPoint_point (s : State) (i : Nat) (x : Point) :
    (s.setPoint i x).point i = (s.point i).map (fun _ => x) := by
  exact tableGet_tableModify s.points i (fun _ => x)

theorem setPoint_point_of {s : State} {i : Nat} {p : Point} (h : s.point i = some p) (x : Point) :
    (s.setPoint i x).point i = some x := by
  rw [setPoint_point, h]; rfl

theorem setPoint_point_ne (s : State) {i j : Nat} (x : Point) (h : j ≠ i) :
    (s.setPoint i x).point j = s.point j := by
  exact tableGet_tableModify_ne s.points h (fun _ => x)

theorem setChannel_channel (s : State) (c : Nat) (x : Channel) :
    (s.setChannel c x).channel c = (s.channel c).map (fun _ => x) := by
  exact tableGet_tableModify s.channels c (fun _ => x)

theorem setChannel_channel_ne (s : State) {c j : Nat} (x : Channel) (h : j ≠ c) :
    (s.setChannel c x).channel j = s.channel j := by
  exact tableGet_tableModify_ne s.channels h (fun _ => x)

/-! ## The journal -/

theorem Journal.append_last (j : Journal) (e : JournalEntry) :
    (j.append e).entries.getLast? = some e := by
  unfold Journal.append
  split <;> simp

theorem Journal.append_length {j : Journal} (e : JournalEntry)
    (h : j.entries.length ≤ Config.journalCapacity) :
    (j.append e).entries.length ≤ Config.journalCapacity := by
  unfold Journal.append
  split
  · simpa using by omega
  · have : 0 < j.entries.length := by
      unfold Config.journalCapacity at *; omega
    simp; omega

theorem enter_journal (s : State) (k : JournalKind) (f : EntryFields) (h : s.dev = .running) :
    (s.enter k f).journal = s.journal.append
      { mill := s.mill, kind := k, port := f.port, badge := f.badge, area := f.area
        point := f.point, occ := f.occ, detail := f.detail } := by
  simp [State.enter, h]

/-- An entry made while RUNNING is the latest of the journal. -/
theorem enter_last (s : State) (k : JournalKind) (f : EntryFields) (h : s.dev = .running) :
    LastEntry (s.enter k f) k f := by
  unfold LastEntry
  rw [enter_journal s k f h, Journal.append_last]
  rfl

/-! ## The queues -/

theorem insertByClass_length (n : Notice) (l : List Notice) :
    (insertByClass n l).length = l.length + 1 := by
  induction l with
  | nil => rfl
  | cons e rest ih =>
    by_cases h : e.cls ≤ n.cls <;> simp [insertByClass, h, ih]

theorem removeOldest_length {c : Nat} {l : List Notice} (h : ∃ e ∈ l, e.cls = c) :
    (removeOldest c l).length + 1 = l.length := by
  induction l with
  | nil => simp at h
  | cons e rest ih =>
    by_cases hc : e.cls = c
    · simp [removeOldest, hc]
    · have : ∃ e ∈ rest, e.cls = c := by
        obtain ⟨x, hx, hxc⟩ := h
        rcases List.mem_cons.1 hx with rfl | hx
        · exact absurd hxc hc
        · exact ⟨x, hx, hxc⟩
      simp [removeOldest, hc, ih this]

/-- The least urgent class of a queue is the class of one of its entries. -/
theorem leastUrgent_mem {l : List Notice} (h : l ≠ []) : ∃ e ∈ l, e.cls = leastUrgent l := by
  have gen : ∀ (l : List Notice) (m : Nat),
      l.foldl (fun m e => max m e.cls) m = m ∨
        ∃ e ∈ l, e.cls = l.foldl (fun m e => max m e.cls) m := by
    intro l
    induction l with
    | nil => intro m; exact .inl rfl
    | cons e rest ih =>
      intro m
      rcases ih (max m e.cls) with h | ⟨x, hx, h⟩
      · simp only [List.foldl_cons]
        rw [h]
        by_cases hm : m ≤ e.cls
        · exact .inr ⟨e, List.mem_cons_self, by omega⟩
        · exact .inl (by omega)
      · exact .inr ⟨x, List.mem_cons_of_mem _ hx, h⟩
  rcases gen l 0 with h0 | h0
  · cases l with
    | nil => exact absurd rfl h
    | cons e rest =>
      have le : ∀ (l : List Notice) (m : Nat), m ≤ l.foldl (fun m e => max m e.cls) m := by
        intro l
        induction l with
        | nil => intro m; exact Nat.le_refl m
        | cons x xs ih => intro m; exact Nat.le_trans (Nat.le_max_left _ _) (ih _)
      have : e.cls ≤ leastUrgent (e :: rest) := by
        have := le rest (max 0 e.cls)
        simp only [leastUrgent, List.foldl_cons] at *
        omega
      refine ⟨e, List.mem_cons_self, ?_⟩
      unfold leastUrgent at *
      omega
  · exact h0

/-- A notice leaves a queue within its capacity. -/
theorem Queue.push_length {c : Nat} {q : Queue} (n : Notice) (hc : 0 < c) (h : q.entries.length ≤ c) :
    (q.push c n).entries.length ≤ c := by
  unfold Queue.push
  split
  · rename_i held
    unfold updateInPlace
    simp only
    split
    · simpa using h
    · rw [insertByClass_length]
      obtain ⟨e, he, hs⟩ : ∃ e ∈ q.entries, sameSubject n e = true := by
        simpa [Queue.holds] using held
      have : (q.entries.filter (fun e => !sameSubject n e)).length < q.entries.length :=
        List.length_filter_lt_length_iff_exists.2 ⟨e, he, by simp [hs]⟩
      omega
  · split
    · simp only [insertByClass_length]; omega
    · split
      · simp only [insertByClass_length]
        have ne : q.entries ≠ [] := by
          intro e; simp [e] at *; omega
        have := removeOldest_length (leastUrgent_mem ne)
        omega
      · exact h

/-! ## Requests -/

/-- What a port's being heard leaves of a console or supervisor port. -/
theorem hear_desk_changes (s : State) (d : Desk) :
    OnlyChanges [.ports, .map, .queues, .journal] s (hear s (deskPort d)) := by
  unfold hear
  rw [splitPort_deskPort]
  dsimp only
  split
  · exact (setPort_changes _ _ _).mono (by decide)
  · exact ((setPort_changes _ _ _).mono (by decide)).trans ((rederive_changes _ _ _ _).mono (by decide))

theorem heardAt_desk (s : State) (d : Desk) : heardAt s (deskPort d) = hear s (deskPort d) := by
  simp [heardAt, beginTransaction]

theorem heardAt_desk_changes (s : State) (d : Desk) :
    OnlyChanges [.ports, .map, .queues, .journal] s (heardAt s (deskPort d)) := by
  rw [heardAt_desk]; exact hear_desk_changes s d

theorem actingAt_desk_changes (s : State) (d : Desk) :
    OnlyChanges [.ports, .desks, .map, .records, .queues, .journal] s (actingAt s d) :=
  ((heardAt_desk_changes s d).mono (by decide)).trans ((interact_changes _ _).mono (by decide))

theorem hear_ports (s : State) (p : Port) :
    (hear s p).ports = s.ports.set p
      { s.ports[p] with
        link := .good, lastHeard := some s.elapsed
        liveness := some (after s.elapsed (10 * s.silenceLimit p + 1)) } := by
  unfold hear
  dsimp only
  split
  · rfl
  · split
    · rw [(rederive_changes _ _ _ _).ports]; rfl
    · rw [(judgeRoles_changes _).ports]; rfl

theorem hear_slot (s : State) (p q : Port) : ((hear s p).port q).slot = (s.port q).slot := by
  unfold State.port
  rw [hear_ports]
  by_cases h : q = p
  · subst h; simp
  · have h' : p.val ≠ q.val := fun e => h (Fin.ext e.symm)
    simp [h']

theorem heardAt_desk_slot (s : State) (d : Desk) (q : Port) :
    ((heardAt s (deskPort d)).port q).slot = (s.port q).slot := by
  rw [heardAt_desk]; exact hear_slot s _ q

theorem enabled_congr {s t : State} (h1 : t.dev = s.dev) (h2 : t.portCfg = s.portCfg) (d : Desk) :
    t.enabled d = s.enabled d := by
  simp [State.enabled, h1, h2]

/-- A request of a console or supervisor port that takes requests runs its rule, and its answer stands
in the slot (R165, R166). -/
theorem runRequest_desk {s : State} {d : Desk} (h : Taking s d) (k : Kind) (tag : Byte) {body : Body}
    (hb : body.length ≤ maxBody) (conf : Bool) (rule : DeskRule) :
    runRequest (deskPort d) k tag body (.desk conf rule) s =
      .next (settle
        ((rule d body (heardAt s (deskPort d))).1.setPort (deskPort d)
          { (rule d body (heardAt s (deskPort d))).1.port (deskPort d) with
            slot := some
              { kind := k.code, tag := tag
                reply := (rule d body (heardAt s (deskPort d))).2 } })) := by
  have hc := heardAt_desk_changes s d
  have hslot : ((beginTransaction s (deskPort d) .sound).port (deskPort d)).slot = none := by
    rw [← heardAt, heardAt_desk_slot]; exact h.slot
  have hen : (beginTransaction s (deskPort d) .sound).enabled d = true := by
    rw [← heardAt, enabled_congr hc.dev hc.portCfg]; exact h.enabled
  have hrun : (beginTransaction s (deskPort d) .sound).dev = .running := by
    rw [← heardAt, hc.dev]; exact h.running
  have hd : dispatch (some (.desk conf rule)) (deskPort d) body (beginTransaction s (deskPort d) .sound) =
      rule d body (beginTransaction s (deskPort d) .sound) := by
    unfold dispatch
    rw [splitPort_deskPort]
    simp only [hen, hrun, Bool.not_true, Bool.false_eq_true, if_false, ne_eq, not_true_eq_false,
      false_and]
  have hdeaf : (beginTransaction s (deskPort d) .sound).deaf (deskPort d) = false := by
    unfold State.deaf
    rw [splitPort_deskPort]
  unfold runRequest send
  rw [if_pos hb]
  unfold soundFrame heardAt
  simp only [hdeaf, hslot, hd, Option.isSome_none, Bool.false_eq_true, if_false]

/-- What an interaction leaves in the session records (R123). -/
theorem interact_desks {s : State} {d : Desk} {x : Session} (h : (s.desk d).session = some x) :
    (interact s d).desks = s.desks.set d { s.desk d with session := some (s.touched d x) } := by
  unfold interact
  rw [h]
  by_cases hp : x.presence = .active
  · simp only [hp, if_true]
    rfl
  · simp only [hp, if_false]
    rw [(sessionChanged_changes _ _ _ _ _ _).desks]
    rfl

/-- The session check of a rule passes where the desk holds a session. -/
theorem withSession_of {s : State} {d : Desk} {x : Session} (h : (s.desk d).session = some x)
    (k : State → Session → State × Reply) :
    withSession s d k = k (interact s d) (s.touched d x) := by
  have hs : ((interact s d).desk d).session = some (s.touched d x) := by
    unfold State.desk
    rw [interact_desks h]
    simp
  unfold withSession
  simp only [hs]

theorem heardAt_desk_session (s : State) (d e : Desk) :
    ((heardAt s (deskPort d)).desk e) = s.desk e := by
  simp only [State.desk]
  rw [(heardAt_desk_changes s d).desks]

/-- What the interaction leaves in the session record. -/
theorem touched_heardAt (s : State) (d : Desk) (x : Session) :
    (heardAt s (deskPort d)).touched d x = s.touched d x := by
  have hc := heardAt_desk_changes s d
  simp [State.touched, hc.elapsed, hc.portCfg]

/-- A rule whose first check is the session, at a desk that holds one. -/
theorem withSession_acting {s : State} {d : Desk} {x : Session} (h : (s.desk d).session = some x)
    (k : State → Session → State × Reply) :
    withSession (heardAt s (deskPort d)) d k = k (actingAt s d) (s.touched d x) := by
  have h' : ((heardAt s (deskPort d)).desk d).session = some x := by
    rw [heardAt_desk_session]; exact h
  rw [withSession_of h' k, touched_heardAt]
  rfl

end Sys2Proof.Machine
end

