-- ==== Sys2Proof/Laws/Requests.lean ====
section
/-! SUPPORT. How a request's statement is put together: what the records of an unchanged field read, and
what a request leaves once its rule has given its state and its answer. -/

namespace Sys2Proof.Machine

/-! ## Records of unchanged fields -/

theorem OnlyChanges.at_port {T : List Field} {s t : State} (h : OnlyChanges T s t) (q : Port)
    (n : Field.ports ∉ T := by decide) : t.port q = s.port q := by
  simp only [State.port, h.ports n]

theorem OnlyChanges.at_gateway {T : List Field} {s t : State} (h : OnlyChanges T s t) (g : Gateway)
    (n : Field.gateways ∉ T := by decide) : t.gateway g = s.gateway g := by
  simp only [State.gateway, h.gateways n]

theorem OnlyChanges.at_desk {T : List Field} {s t : State} (h : OnlyChanges T s t) (e : Desk)
    (n : Field.desks ∉ T := by decide) : t.desk e = s.desk e := by
  simp only [State.desk, h.desks n]

theorem OnlyChanges.at_queue {T : List Field} {s t : State} (h : OnlyChanges T s t) (e : Desk)
    (n : Field.queues ∉ T := by decide) : t.queue e = s.queue e := by
  simp only [State.queue, h.queues n]

theorem OnlyChanges.at_mark {T : List Field} {s t : State} (h : OnlyChanges T s t) (e : Desk)
    (n : Field.marks ∉ T := by decide) : t.mark e = s.mark e := by
  simp only [State.mark, h.marks n]

theorem OnlyChanges.at_area {T : List Field} {s t : State} (h : OnlyChanges T s t) (b : Area)
    (n : Field.map ∉ T := by decide) : t.area b = s.area b := by
  simp only [State.area, h.map n]

theorem OnlyChanges.at_load {T : List Field} {s t : State} (h : OnlyChanges T s t) (b : Area)
    (n : Field.loads ∉ T := by decide) : t.load b = s.load b := by
  simp only [State.load, h.loads n]

theorem OnlyChanges.at_group {T : List Field} {s t : State} (h : OnlyChanges T s t) (g : GroupIdx)
    (n : Field.groups ∉ T := by decide) : t.group g = s.group g := by
  simp only [State.group, h.groups n]

theorem OnlyChanges.at_record {T : List Field} {s t : State} (h : OnlyChanges T s t) (j : RecordIdx)
    (n : Field.records ∉ T := by decide) : t.record j = s.record j := by
  simp only [State.record, h.records n]

theorem OnlyChanges.at_point {T : List Field} {s t : State} (h : OnlyChanges T s t) (j : Nat)
    (n : Field.points ∉ T := by decide) : t.point j = s.point j := by
  simp only [State.point, h.points n]

theorem OnlyChanges.at_channel {T : List Field} {s t : State} (h : OnlyChanges T s t) (j : Nat)
    (n : Field.channels ∉ T := by decide) : t.channel j = s.channel j := by
  simp only [State.channel, h.channels n]

theorem OnlyChanges.at_param {T : List Field} {s t : State} (h : OnlyChanges T s t) (m : Fin 29)
    (n : Field.params ∉ T := by decide) : t.param m = s.param m := by
  simp only [State.param, h.params n]

theorem OnlyChanges.mill {T : List Field} {s t : State} (h : OnlyChanges T s t)
    (n : Field.elapsed ∉ T := by decide) (m : Field.offset ∉ T := by decide) : t.mill = s.mill := by
  simp only [State.mill, h.elapsed n, h.offset m]

theorem OnlyChanges.lastEntry {T : List Field} {s t : State} {k : JournalKind} {f : EntryFields}
    (h : OnlyChanges T s t) (e : LastEntry s k f) (n : Field.journal ∉ T := by decide)
    (n' : Field.elapsed ∉ T := by decide) (m : Field.offset ∉ T := by decide) : LastEntry t k f := by
  unfold LastEntry at *
  rw [h.journal n, h.mill n' m]
  exact e

/-! ## The end of a request -/

/-- The answer of a request is placed and the lines settle: nothing else of the rule's state changes. -/
theorem answer_changes (u : State) (p : Port) (x : PortState) :
    OnlyChanges answering u (settle (u.setPort p x)) :=
  ((setPort_changes _ _ _).mono (by decide)).trans ((settle_changes _).mono (by decide))

/-- A request whose rule gives the state `u` and the reply `r`, where `u` has the ports of `s1`: the reply
stands in the slot, and beside the slot and the lines the state is `u`. -/
theorem request_done {s s1 u : State} {d : Desk} {r : Reply} {body : Body} {T : List Field}
    (h : Taking s d) (k : Kind) (tag : Byte) (hb : body.length ≤ maxBody) (conf : Bool)
    (rule : DeskRule) (hr : rule d body (heardAt s (deskPort d)) = (u, r))
    (hT : OnlyChanges T s1 u) (hp : u.ports = s1.ports) :
    ∃ t, runRequest (deskPort d) k tag body (.desk conf rule) s = .next t ∧
      Replied s1 t (deskPort d) k tag r ∧ OnlyChanges (answering ++ T) s1 t ∧
      OnlyChanges answering u t := by
  refine ⟨_, runRequest_desk h k tag hb conf rule, ?_, ?_, ?_⟩
  · rw [hr]
    unfold Replied
    simp only [settle_ports, State.setPort, State.port, hp]
  · rw [hr]
    exact (hT.mono (by simp)).trans ((answer_changes _ _ _).mono (by simp))
  · rw [hr]
    exact answer_changes _ _ _

end Sys2Proof.Machine
end

