-- ==== Sys2Proof/Laws/Areas.lean ====
section
/-! SUPPORT. What the responsibility map and the handover unit's endings do to areas and records: one
lemma for each shared operation. -/

namespace Sys2Proof.Machine

/-! ## Area sets -/

theorem mem_allAreas (a : Area) : a ∈ allAreas := by revert a; decide

theorem mem_allRecords (i : RecordIdx) : i ∈ allRecords := by revert i; decide

theorem mem_areasOf (set : Word16) (a : Area) : a ∈ areasOf set ↔ inSet set a = true := by
  simp [areasOf, mem_allAreas]

theorem areasOf_nodup (set : Word16) : (areasOf set).Nodup :=
  List.Pairwise.filter _ (by decide : allAreas.Nodup)

/-- No area of a set fails a test when every one passes it. -/
theorem firstFailing_none {set : Word16} {ok : Area → Bool} (h : ∀ a, inSet set a = true → ok a = true) :
    firstFailing set ok = none := by
  unfold firstFailing
  rw [List.find?_eq_none]
  intro a ha
  simp [h a ((mem_areasOf _ _).1 ha)]

/-! ## The records of areas -/

theorem area_isSome_set {s : State} {a b : Area} {x r : AreaRecord} (h : s.area a = some r) :
    ((s.setArea a x).area b).isSome = (s.area b).isSome := by
  by_cases e : b = a
  · subst e
    rw [setArea_area, h]
    rfl
  · rw [setArea_area_ne _ _ e]

/-- A change of areas writes the record of each defined area of the set and no other (R132). -/
theorem changeAreas_area (s : State) (set : Word16) (f : AreaRecord → AreaRecord) (a : Area) :
    (changeAreas s set f).area a = if inSet set a = true then (s.area a).map f else s.area a := by
  have step : ∀ (l : List Area) (t : State), l.Nodup →
      (l.foldl (fun t a => match t.area a with
        | some r => t.setArea a (f r)
        | none => t) t).area a = if a ∈ l then (t.area a).map f else t.area a := by
    intro l
    induction l with
    | nil => intro t _; simp
    | cons b rest ih =>
      intro t hn
      rw [List.foldl_cons, ih _ (List.nodup_cons.1 hn).2]
      have hb := (List.nodup_cons.1 hn).1
      by_cases e : a = b
      · subst e
        simp only [hb, if_false, List.mem_cons, true_or, if_true]
        cases h : t.area a with
        | none => simp [h]
        | some r => simp
      · have hsame : State.area (match t.area b with
            | some r => t.setArea b (f r)
            | none => t) a = t.area a := by
          cases t.area b with
          | none => rfl
          | some r => exact setArea_area_ne _ _ e
        rw [hsame]
        simp [e]
  exact (step (areasOf set) s (areasOf_nodup set)).trans (by simp only [mem_areasOf])

/-- The re-derivation of one area writes the attendance its owner gives, and nothing else of any area's
record (R131, R132). -/
theorem rederiveArea_area (old : State) (c : Cause) (m : Word16) (s : State) (a b : Area) :
    (rederiveArea old c m s a).area b =
      if b = a then (s.area b).map (fun r => { r with attendance := s.deriveAttendance r.owner })
      else s.area b := by
  unfold rederiveArea
  cases h : s.area a with
  | none =>
    by_cases e : b = a
    · subst e
      simp [h]
    · simp [e]
  | some r =>
    dsimp only
    have base : (s.setArea a { r with attendance := s.deriveAttendance r.owner }).area b =
        if b = a then (s.area b).map (fun r => { r with attendance := s.deriveAttendance r.owner })
        else s.area b := by
      by_cases e : b = a
      · subst e
        simp [h]
      · rw [setArea_area_ne _ _ e, if_neg e]
    split
    · rw [enter_at_area, (areaNotice_changes _ _ _).at_area]
      exact base
    · split
      · rw [(areaNotice_changes _ _ _).at_area]
        exact base
      · exact base

/-- Attendance is derived from the sessions and the links, which a re-derivation does not change. -/
theorem deriveAttendance_congr {s t : State} (h1 : t.desks = s.desks) (h2 : t.ports = s.ports)
    (o : Option Party) : t.deriveAttendance o = s.deriveAttendance o := by
  have hd : ∀ d, t.desk d = s.desk d := fun d => by simp only [State.desk, h1]
  have hl : ∀ p, t.linkGood p = s.linkGood p := fun p => by
    simp only [State.linkGood, State.port, h2]
  have hp : ∀ d, t.present d = s.present d := fun d => by simp only [State.present, hd]
  unfold State.deriveAttendance
  simp only [hd, hl, hp]

/-- The re-derivation writes the attendance of every defined area and nothing else of its record
(R132). -/
theorem rederive_area (old : State) (c : Cause) (m : Word16) (s : State) (a : Area) :
    (rederive old c m s).area a =
      (s.area a).map (fun r => { r with attendance := s.deriveAttendance r.owner }) := by
  have step : ∀ (l : List Area) (t : State), l.Nodup → t.desks = s.desks → t.ports = s.ports →
      (l.foldl (rederiveArea old c m) t).area a =
        if a ∈ l then (t.area a).map (fun r => { r with attendance := s.deriveAttendance r.owner })
        else t.area a := by
    intro l
    induction l with
    | nil => intro t _ _ _; simp
    | cons b rest ih =>
      intro t hn hd hp
      have hc := rederiveArea_changes old c m t b
      rw [List.foldl_cons, ih _ (List.nodup_cons.1 hn).2 (hc.desks.trans hd) (hc.ports.trans hp),
        rederiveArea_area]
      have hb := (List.nodup_cons.1 hn).1
      simp only [deriveAttendance_congr hd hp]
      by_cases e : a = b
      · subst e
        simp [hb]
      · simp [e]
  unfold rederive
  rw [step allAreas s (by decide) rfl rfl]
  simp [mem_allAreas]

/-- What stays of every area's record at a re-derivation: its name, its owner and its link. -/
theorem rederive_ownersSame (old : State) (c : Cause) (m : Word16) (s : State) :
    OwnersSame s (rederive old c m s) := by
  intro a
  rw [rederive_area]
  cases s.area a <;> rfl

/-- After a re-derivation every area's attendance is the derived one (R131). -/
theorem rederive_derived (old : State) (c : Cause) (m : Word16) (s : State) :
    AttendanceDerived (rederive old c m s) := by
  intro a r h
  rw [rederive_area] at h
  have hc := rederive_changes old c m s
  rw [deriveAttendance_congr hc.desks hc.ports]
  cases hs : s.area a with
  | none => simp [hs] at h
  | some q =>
    simp only [hs, Option.map_some, Option.some.injEq] at h
    rw [← h]

theorem OwnersSame.trans {s t u : State} (h : OwnersSame s t) (k : OwnersSame t u) : OwnersSame s u :=
  fun a => (k a).trans (h a)

theorem OwnersSame.of_map {s t : State} (h : t.map = s.map) : OwnersSame s t := by
  intro a
  simp only [State.area, h]

/-- A change of owners: each area of the set takes its new record with the attendance that follows, and
every other area keeps its name, owner and link (R132). -/
theorem changeOwner_area (s : State) (set : Word16) (f : AreaRecord → AreaRecord) (a : Area) :
    (changeOwner s set f).area a =
      (if inSet set a = true then (s.area a).map f else s.area a).map
        (fun r => { r with attendance := s.deriveAttendance r.owner }) := by
  unfold changeOwner
  have hc := changeAreas_changes s set f
  rw [rederive_area, changeAreas_area]
  simp only [deriveAttendance_congr hc.desks hc.ports]

/-! ## The end of a record -/

theorem endRecord_record (s : State) (i j : RecordIdx) (r : Record) (o : HandoverOutcome)
    (p : Option Port) (b : Option Badge) :
    (endRecord s i r o p b).record j = if j = i then none else s.record j := by
  have hstart : ∀ j, State.record (if o.transfers then ownerTransfer s r
      else changeAreas s r.areas (fun x => { x with link := none })) j = s.record j := by
    intro j
    split
    · exact (changeOwner_changes _ _ _).at_record j
    · exact (changeAreas_changes _ _ _).at_record j
  unfold endRecord handoverEndEntry
  dsimp only
  rw [enter_at_record, (handoverNotice_changes _ _ _).at_record]
  by_cases e : j = i
  · subst e
    rw [setRecord_record, if_pos rfl]
  · rw [setRecord_record_ne _ _ e, hstart, if_neg e]

/-- An ending that transfers nothing takes the link from each area of the set, and changes no other field
of an area (R163). -/
theorem endRecord_area {o : HandoverOutcome} (ho : o.transfers = false) (s : State) (i : RecordIdx)
    (r : Record) (p : Option Port) (b : Option Badge) (a : Area) :
    (endRecord s i r o p b).area a =
      (s.area a).map (fun q => if inSet r.areas a then { q with link := none } else q) := by
  unfold endRecord handoverEndEntry
  dsimp only
  rw [enter_at_area, (handoverNotice_changes _ _ _).at_area, setRecord_at_area, ho]
  rw [if_neg (by decide), changeAreas_area]
  by_cases e : inSet r.areas a = true
  · simp [e]
  · simp [e]

/-- An ending that transfers gives each area of the set to the incoming party (R139, R163). -/
theorem endRecord_area_transfer {o : HandoverOutcome} (ho : o.transfers = true) (s : State)
    (i : RecordIdx) (r : Record) (p : Option Port) (b : Option Badge) (a : Area) :
    (endRecord s i r o p b).area a =
      (if inSet r.areas a = true then
        (s.area a).map (fun q => { q with owner := r.incoming, link := none })
      else s.area a).map (fun q => { q with attendance := s.deriveAttendance q.owner }) := by
  unfold endRecord handoverEndEntry
  dsimp only
  rw [enter_at_area, (handoverNotice_changes _ _ _).at_area, setRecord_at_area, ho]
  rw [if_pos rfl]
  unfold ownerTransfer
  rw [changeOwner_area]

/-- The last thing an ending does is its journal entry (R163). -/
theorem endRecord_last {s : State} (i : RecordIdx) (r : Record) (o : HandoverOutcome)
    (p : Option Port) (b : Option Badge) (h : s.dev = .running) :
    LastEntry (endRecord s i r o p b) .handoverEnd
      { port := p, badge := b, area := lowestArea r.areas
        detail := detail4 (byte i) (outcomeCode (some o)) (handoverCode (some r.state))
          (if o.transfers then portByte (r.incoming.map (·.console.val)) else 0xFF#8) } := by
  have hstart : State.dev (if o.transfers then ownerTransfer s r
      else changeAreas s r.areas (fun x => { x with link := none })) = s.dev := by
    split
    · exact (changeOwner_changes _ _ _).dev
    · exact (changeAreas_changes _ _ _).dev
  unfold endRecord handoverEndEntry
  dsimp only
  refine enter_last _ _ _ ?_
  rw [(handoverNotice_changes _ _ _).dev, setRecord_dev, hstart]
  exact h

/-! ## Changes of a session -/

/-- A session that becomes or stays ACTIVE or IDLE tells the handover unit nothing (R157, R158). -/
theorem sessionTold_present (s : State) (d : Desk) (b : Badge) {x : Presence} (h : x ≠ .absent) :
    sessionTold s d b (some x) = s := by
  unfold sessionTold
  suffices hs : ∀ l : List RecordIdx, l.foldl (fun t i => match t.record i with
      | some r =>
        if (some x).isNone && isParty d r.incoming && r.incoming.any (·.badge == b) then
          endRecord t i r .revoked (some (deskPort d)) (some b)
        else if ((some x).isNone || some x == some .absent) && isParty d (some r.outgoing) &&
            r.outgoing.badge == b && !r.outgoingLost then
          changeCauses t i { r with outgoingLost := true }
        else t
      | none => t) s = s from hs _
  intro l
  induction l with
  | nil => rfl
  | cons i rest ih =>
    rw [List.foldl_cons]
    have hx : (some x == some Presence.absent) = false := by simpa using h
    have : (match s.record i with
      | some r =>
        if (some x).isNone && isParty d r.incoming && r.incoming.any (·.badge == b) then
          endRecord s i r .revoked (some (deskPort d)) (some b)
        else if ((some x).isNone || some x == some .absent) && isParty d (some r.outgoing) &&
            r.outgoing.badge == b && !r.outgoingLost then
          changeCauses s i { r with outgoingLost := true }
        else s
      | none => s) = s := by
      cases s.record i with
      | none => rfl
      | some r => simp [hx]
    rw [this]
    exact ih

/-- The handing on of a session change ends with its journal entry (R126). -/
theorem sessionChanged_last {s : State} (d : Desk) (b : Badge) (x y : Option Presence) (c : Cause)
    (h : s.dev = .running) :
    LastEntry (sessionChanged s d b x y c) c.journalKind
      { port := some (deskPort d), badge := some b
        detail := detail4 (presenceCode x) (presenceCode y) c.code 0 } := by
  unfold sessionChanged
  dsimp only
  refine enter_last _ _ _ ?_
  rw [(sessionNotice_changes _ _ _ _ _).dev, (sessionTold_changes _ _ _ _).dev, (rederive_changes _ _ _ _).dev]
  exact h

/-- A session change that leaves a session ACTIVE or IDLE changes no record, owner or link. -/
theorem sessionChanged_present (s : State) (d : Desk) (b : Badge) (x : Option Presence) {y : Presence}
    (c : Cause) (h : y ≠ .absent) :
    OnlyChanges [.map, .queues, .journal] s (sessionChanged s d b x (some y) c) ∧
    OwnersSame s (sessionChanged s d b x (some y) c) := by
  unfold sessionChanged
  dsimp only
  rw [sessionTold_present _ _ _ h]
  refine ⟨(rederive_changes _ _ _ _).trans (((deliver_changes _ _ _).mono (by decide)).trans
    ((enter_changes _ _ _).mono (by decide))), ?_⟩
  exact (rederive_ownersSame _ _ _ _).trans
    (OwnersSame.of_map (by rw [enter_map, (sessionNotice_changes _ _ _ _ _).map]))

/-- An interaction changes no record, owner or link. -/
theorem interact_present (s : State) (d : Desk) :
    OnlyChanges [.desks, .map, .queues, .journal] s (interact s d) ∧ OwnersSame s (interact s d) := by
  unfold interact
  cases h : (s.desk d).session with
  | none => exact ⟨.refl s, .of_map rfl⟩
  | some x =>
    dsimp only
    split
    · exact ⟨(setDesk_changes _ _ _).mono (by decide), .of_map rfl⟩
    · have hp := sessionChanged_present (s.setDesk d { s.desk d with session := some (s.touched d x) })
        d x.badge (some x.presence) (y := .active) .interaction (by decide)
      exact ⟨((setDesk_changes _ _ _).mono (by decide)).trans (hp.1.mono (by decide)), hp.2⟩

theorem hear_ownersSame (s : State) (d : Desk) : OwnersSame s (hear s (deskPort d)) := by
  unfold hear
  rw [splitPort_deskPort]
  dsimp only
  split
  · exact .of_map rfl
  · exact (OwnersSame.of_map (setPort_map _ _ _)).trans (rederive_ownersSame _ _ _ _)

/-- What an operator request changes before its rule goes on. -/
theorem actingAt_present (s : State) (d : Desk) :
    OnlyChanges [.ports, .desks, .map, .queues, .journal] s (actingAt s d) ∧
    OwnersSame s (actingAt s d) := by
  refine ⟨((heardAt_desk_changes s d).mono (by decide)).trans
    ((interact_present _ _).1.mono (by decide)), ?_⟩
  have h : OwnersSame s (heardAt s (deskPort d)) := by
    rw [heardAt_desk]
    exact hear_ownersSame s d
  exact h.trans (interact_present _ _).2

theorem OwnersSame.owner {s t : State} (h : OwnersSame s t) (a : Area) : t.owner a = s.owner a := by
  have := h a
  unfold State.owner
  cases ht : t.area a <;> cases hs : s.area a <;> simp_all

theorem OwnersSame.linked {s t : State} (h : OwnersSame s t) (a : Area) : t.linked a = s.linked a := by
  have := h a
  unfold State.linked
  cases ht : t.area a <;> cases hs : s.area a <;> simp_all

theorem OwnersSame.defined {s t : State} (h : OwnersSame s t) (a : Area) :
    (t.area a).isSome = (s.area a).isSome := by
  have := h a
  cases ht : t.area a <;> cases hs : s.area a <;> simp_all

end Sys2Proof.Machine
end

