-- ==== Sys2Proof/Laws/Lists.lean ====
section
/-! SUPPORT. The ordered lists of the block: what a stable insertion and a stable sort give (R44, R138,
R147), what a push with room keeps, the bytes a FETCH clocks out, and runs of journal entries. -/

namespace Sys2Proof.Machine

/-! ## Stable insertion and sorting -/

/-- An insertion stands behind every element it does not come before, up to the first it does. -/
theorem insertBy_split {α : Type} (before : α → α → Bool) (x : α) (l : List α) :
    ∃ pre post, insertBy before x l = pre ++ x :: post ∧ pre ++ post = l ∧
      (∀ y ∈ pre, before x y = false) ∧ ∀ f, post.head? = some f → before x f = true := by
  induction l with
  | nil => exact ⟨[], [], rfl, rfl, by simp, by simp⟩
  | cons y rest ih =>
    unfold insertBy
    by_cases h : before x y = true
    · exact ⟨[], y :: rest, by simp [h], rfl, by simp, by simpa using h⟩
    · obtain ⟨pre, post, h1, h2, h3, h4⟩ := ih
      refine ⟨y :: pre, post, by simp [h, h1], by simp [h2], ?_, h4⟩
      intro z hz
      rcases List.mem_cons.1 hz with rfl | hz
      · simpa using h
      · exact h3 z hz

theorem insertBy_perm {α : Type} (before : α → α → Bool) (x : α) (l : List α) :
    (insertBy before x l).Perm (x :: l) := by
  obtain ⟨pre, post, h1, h2, _⟩ := insertBy_split before x l
  rw [h1, ← h2]
  exact List.perm_middle

theorem sortBy_perm {α : Type} (before : α → α → Bool) (l : List α) : (sortBy before l).Perm l := by
  have go : ∀ (l sorted : List α),
      (l.foldl (fun sorted x => insertBy before x sorted) sorted).Perm (sorted ++ l) := by
    intro l
    induction l with
    | nil => intro sorted; simp
    | cons x rest ih =>
      intro sorted
      refine (ih _).trans (((insertBy_perm before x sorted).append_right rest).trans ?_)
      simpa using (List.perm_middle (l₁ := sorted) (l₂ := rest) (a := x)).symm
  simpa [sortBy] using go l []

/-- A stable sort puts a list in the order of a transitive relation that `before` implies, when two
elements level by `before` already stand in that order. -/
theorem sortBy_ordered {α : Type} {before : α → α → Bool} {R : α → α → Prop}
    (trans : ∀ x y z, R x y → R y z → R x z) (strict : ∀ x y, before x y = true → R x y)
    {l : List α} (level : l.Pairwise (fun y x => before x y = false → R y x)) :
    (sortBy before l).Pairwise R := by
  have go : ∀ (l sorted : List α), sorted.Pairwise R →
      (∀ y ∈ sorted, ∀ x ∈ l, before x y = false → R y x) →
      l.Pairwise (fun y x => before x y = false → R y x) →
      (l.foldl (fun sorted x => insertBy before x sorted) sorted).Pairwise R := by
    intro l
    induction l with
    | nil => intro sorted h _ _; simpa using h
    | cons x rest ih =>
      intro sorted h hb hl
      obtain ⟨pre, post, h1, h2, h3, h4⟩ := insertBy_split before x sorted
      have hsorted : (insertBy before x sorted).Pairwise R := by
        subst h2
        rw [h1]
        have hp := List.pairwise_append.1 h
        refine List.pairwise_append.2 ⟨hp.1, List.pairwise_cons.2 ⟨?_, hp.2.1⟩, ?_⟩
        · intro z hz
          cases post with
          | nil => simp at hz
          | cons f post =>
            have hf := strict x f (h4 f rfl)
            rcases List.mem_cons.1 hz with rfl | hz
            · exact hf
            · exact trans x f z hf ((List.pairwise_cons.1 hp.2.1).1 z hz)
        · intro y hy z hz
          rcases List.mem_cons.1 hz with rfl | hz
          · exact hb y (List.mem_append_left _ hy) z List.mem_cons_self (h3 y hy)
          · exact hp.2.2 y hy z hz
      have hl' := List.pairwise_cons.1 hl
      have hmem : ∀ y ∈ insertBy before x sorted, ∀ z ∈ rest, before z y = false → R y z := by
        intro y hy z hz
        rcases List.mem_cons.1 ((insertBy_perm before x sorted).mem_iff.1 hy) with rfl | hy
        · exact hl'.1 z hz
        · exact hb y hy z (List.mem_cons_of_mem _ hz)
      exact ih _ hsorted hmem hl'.2
  exact go l [] .nil (by simp) level

/-! ## The orders of RELOCATE and ACCEPT -/

theorem StampPrecedes.trans {now : Time} (e f g : Nat × Point) (h : StampPrecedes now e f)
    (k : StampPrecedes now f g) : StampPrecedes now e g := by
  unfold StampPrecedes at *
  rcases h with ⟨h1, h2⟩ | ⟨h1, h2, h3⟩ | ⟨a, b, ha, hb, h⟩ <;>
  rcases k with ⟨k1, k2⟩ | ⟨k1, k2, k3⟩ | ⟨c, d, hc, hd, k⟩
  · simp [k1] at h2
  · simp [k1] at h2
  · exact .inl ⟨h1, by simp [hd]⟩
  · exact .inl ⟨h1, k2⟩
  · exact .inr (.inl ⟨h1, k2, by omega⟩)
  · simp [h2] at hc
  · simp [k1] at hb
  · simp [k1] at hb
  · obtain rfl : b = c := Option.some.inj (hb.symm.trans hc)
    exact .inr (.inr ⟨a, d, ha, hd, by omega⟩)

/-- One raise stamp comes before another: so does its point. -/
theorem stampBefore_precedes {now : Time} (e f : Nat × Point) (h : stampBefore now e.2 f.2 = true) :
    StampPrecedes now e f := by
  unfold stampBefore at h
  unfold StampPrecedes
  cases he : e.2.stamp with
  | none =>
    cases hf : f.2.stamp with
    | none => simp [he, hf] at h
    | some b => simp
  | some a =>
    cases hf : f.2.stamp with
    | none => simp [he, hf] at h
    | some b => simpa [he, hf] using .inl (by simpa [he, hf] using h)

/-- Neither stamp comes before the other, or the later one does not: the lower index decides. -/
theorem not_stampBefore_precedes {now : Time} (e f : Nat × Point) (h : stampBefore now f.2 e.2 = false)
    (hi : e.1 < f.1) : StampPrecedes now e f := by
  unfold stampBefore at h
  unfold StampPrecedes
  cases he : e.2.stamp with
  | none =>
    cases hf : f.2.stamp with
    | none => simpa using hi
    | some b => simp
  | some a =>
    cases hf : f.2.stamp with
    | none => simp [he, hf] at h
    | some b =>
      simp only [he, hf, decide_eq_false_iff_not] at h
      refine .inr (.inr ⟨a, b, rfl, rfl, ?_⟩)
      omega

theorem ItemPrecedes.trans {now : Time} (e f g : Nat × Point) (h : ItemPrecedes now e f)
    (k : ItemPrecedes now f g) : ItemPrecedes now e g := by
  unfold ItemPrecedes at *
  rcases h with h | ⟨h, h'⟩ <;> rcases k with k | ⟨k, k'⟩
  · exact .inl (by omega)
  · exact .inl (by omega)
  · exact .inl (by omega)
  · exact .inr ⟨by omega, h'.trans _ _ _ k'⟩

/-- The burst of a RELOCATE is the listable points by raise stamp (R138). -/
theorem burst_ordered {s : State} (h : TablesRise s) (set : Word16) :
    (s.burst set).Pairwise (StampPrecedes s.elapsed) :=
  sortBy_ordered StampPrecedes.trans stampBefore_precedes
    ((List.Pairwise.filter _ h.points).imp (fun hi hb => not_stampBefore_precedes _ _ hb hi))

/-- The gathering of an ACCEPT is the listable points by priority and raise stamp (R147). -/
theorem gathered_ordered {s : State} (h : TablesRise s) (set : Word16) :
    (s.gathered set).Pairwise (ItemPrecedes s.elapsed) := by
  refine sortBy_ordered ItemPrecedes.trans ?_ ((List.Pairwise.filter _ h.points).imp ?_)
  · intro e f hb
    simp only [itemBefore, Bool.or_eq_true, decide_eq_true_eq, Bool.and_eq_true, beq_iff_eq] at hb
    exact hb.imp id (fun hb => ⟨hb.1, stampBefore_precedes _ _ hb.2⟩)
  · intro e f hi hb
    simp only [itemBefore, Bool.or_eq_false_iff, decide_eq_false_iff_not, Bool.and_eq_false_iff,
      beq_eq_false_iff_ne] at hb
    by_cases hp : e.2.cfg.priority < f.2.cfg.priority
    · exact .inl hp
    · have he : e.2.cfg.priority = f.2.cfg.priority := by omega
      exact .inr ⟨he, not_stampBefore_precedes _ _ (hb.2.resolve_left (by simp [he])) hi⟩

/-! ## Queues with room -/

theorem mem_insertByClass {n e : Notice} {l : List Notice} : e ∈ insertByClass n l ↔ e = n ∨ e ∈ l := by
  induction l with
  | nil => simp [insertByClass]
  | cons y rest ih =>
    unfold insertByClass
    split
    · simp only [List.mem_cons, ih]
      tauto
    · simp only [List.mem_cons]

/-- A notice pushed with room stands in the queue, and so does every entry of another subject. -/
theorem Queue.push_room {c : Nat} {q : Queue} (n : Notice) (h : q.entries.length < c) :
    n ∈ (q.push c n).entries ∧
    ∀ e ∈ q.entries, sameSubject n e = false → e ∈ (q.push c n).entries := by
  unfold Queue.push
  by_cases hh : q.holds n = true
  · simp only [hh, if_true]
    unfold updateInPlace
    split
    · rename_i hu
      obtain ⟨e, he, hs⟩ := List.any_eq_true.1 hu
      simp only [Bool.and_eq_true] at hs
      refine ⟨List.mem_map.2 ⟨e, he, by simp [hs.1]⟩, ?_⟩
      intro e he hs
      exact List.mem_map.2 ⟨e, he, by simp [hs]⟩
    · refine ⟨mem_insertByClass.2 (.inl rfl), ?_⟩
      intro e he hs
      exact mem_insertByClass.2 (.inr (List.mem_filter.2 ⟨he, by simp [hs]⟩))
  · simp only [hh, Bool.false_eq_true, if_false, h, if_true]
    exact ⟨mem_insertByClass.2 (.inl rfl), fun e he _ => mem_insertByClass.2 (.inr he)⟩

/-! ## The bytes a FETCH clocks out (R167) -/

theorem clockedOut_length (frame : List Byte) (n : Nat) : (clockedOut frame n).length = n := by
  simp only [clockedOut, List.length_append, List.length_take, List.length_replicate]
  omega

/-! ## Runs of journal entries -/

theorem LastEntries.nil (s : State) : LastEntries s [] := ⟨s.journal.entries, by simp⟩

/-- An entry of a RUNNING device closes a run of fewer entries than the journal holds. -/
theorem LastEntries.enter {s : State} {l : List (JournalKind × EntryFields)} (h : LastEntries s l)
    (hd : s.dev = .running) (hl : l.length < 256) (k : JournalKind) (f : EntryFields) :
    LastEntries (s.enter k f) (l ++ [(k, f)]) := by
  obtain ⟨pre, hp⟩ := h
  unfold LastEntries
  rw [enter_journal s k f hd]
  unfold Journal.append
  have hm : (s.enter k f).mill = s.mill := rfl
  rw [hm]
  split
  · exact ⟨pre, by simp [hp]⟩
  · rename_i hlen
    cases pre with
    | nil =>
      simp only [hp, List.nil_append, List.length_map, Config.journalCapacity] at hlen
      omega
    | cons p pre => exact ⟨pre, by simp [hp]⟩

end Sys2Proof.Machine
end

