-- ==== Sys2Proof/WellFormed.lean ====
section
/-! DEFINITION. When a command is one its row of the table names. Port, desk, area, group, record and
gateway operands are bounded by their types; what is left is checked here. A command that fails a
check is still executed: it is then the other transaction its bytes or its frame make it
(log entries 4 and 5). -/

namespace Sys2Proof

/-- A frame's body is 0..250 bytes (R165). -/
def bodyFits (body : Body) : Bool := body.length ≤ Machine.maxBody

/-- The command is one its row names: a request's body fits a frame; a BAD_FRAME's bytes are no sound
transaction (R165); an UNKNOWN_REQUEST_KIND's kind is not in the catalogue (R166); a pending expiry
names a point 0..2047 (R6); a credential's badge is not 0 (R112); at least one reference cycle
passes. -/
def WellFormed : Instr → Bool
  | .powerOn => true
  | .resetPin => true
  | .timeReferenceTick cycles => 0 < cycles
  | .badFrame _ bytes => Machine.parseTransaction bytes == .bad
  | .overrun _ _ _ body => bodyFits body
  | .unknownRequestKind _ kind _ body => bodyFits body && (Machine.kindOf kind).isNone
  | .fetch _ => true
  | .linkReset _ => true
  | .login _ _ body => bodyFits body
  | .logout _ _ body => bodyFits body
  | .present _ _ body => bodyFits body
  | .endSession _ _ body => bodyFits body
  | .grant _ _ body => bodyFits body
  | .revoke _ _ body => bodyFits body
  | .ackPoint _ _ body => bodyFits body
  | .ackArea _ _ body => bodyFits body
  | .resetPoint _ _ body => bodyFits body
  | .silence _ _ body => bodyFits body
  | .queryList _ _ body => bodyFits body
  | .readJournal _ _ body => bodyFits body
  | .shelve _ _ body => bodyFits body
  | .unshelve _ _ body => bodyFits body
  | .setOutOfService _ _ body => bodyFits body
  | .returnToService _ _ body => bodyFits body
  | .claimArea _ _ body => bodyFits body
  | .releaseArea _ _ body => bodyFits body
  | .relocate _ _ body => bodyFits body
  | .offer _ _ body => bodyFits body
  | .accept _ _ body => bodyFits body
  | .decline _ _ body => bodyFits body
  | .withdraw _ _ body => bodyFits body
  | .confirmItem _ _ body => bodyFits body
  | .confirmPage _ _ body => bodyFits body
  | .queryItems _ _ body => bodyFits body
  | .take _ _ body => bodyFits body
  | .coSign _ _ body => bodyFits body
  | .forceCommit _ _ body => bodyFits body
  | .forceWithdraw _ _ body => bodyFits body
  | .timeSet _ _ body => bodyFits body
  | .swapGateways _ _ body => bodyFits body
  | .channelReport _ _ body => bodyFits body
  | .heartbeat _ _ body => bodyFits body
  | .loadStart _ _ body => bodyFits body
  | .configBlock _ _ body => bodyFits body
  | .loadEnd _ _ body => bodyFits body
  | .loadAbandon _ _ body => bodyFits body
  | .editPoint _ _ body => bodyFits body
  | .editParameters _ _ body => bodyFits body
  | .restart _ _ body => bodyFits body
  | .restartToLoad _ _ body => bodyFits body
  | .pendingExpiry point => point < 2048
  | .shelveExpiry => true
  | .releaseExpiry _ => true
  | .groupMemberReleaseEvent _ => true
  | .loadIntervalExpiry => true
  | .summaryExpiry _ => true
  | .sweepVisit => true
  | .passEnd => true
  | .idleExpiry _ => true
  | .absentExpiry _ => true
  | .lockoutExpiry _ => true
  | .credentialExpired badge => badge != 0#32
  | .offerExpiry _ => true
  | .overlapLimitExpiry _ => true
  | .livenessExpiry _ => true
  | .doubtExpiry _ => true

end Sys2Proof
end

