-- ==== Sys2Proof/Laws/PerInstr.lean ====
section
/-! SUPPORT. One lemma per command: what the frame it carries is. -/

namespace Sys2Proof.Laws

open Machine

/-- A SEND frame without its length and its check: where it came in and what it carries (R165). -/
structure Carried where
  port : Port
  kind : Byte
  tag : Byte
  body : Body
deriving DecidableEq, Repr

/-- The frame a command carries; none for a command that is no SEND frame. -/
def carried : Instr → Option Carried
  | .overrun p k tag body => some ⟨p, k, tag, body⟩
  | .unknownRequestKind p k tag body => some ⟨p, k, tag, body⟩
  | .login p tag body => some ⟨p, Kind.login.code, tag, body⟩
  | .logout p tag body => some ⟨p, Kind.logout.code, tag, body⟩
  | .present p tag body => some ⟨p, Kind.present.code, tag, body⟩
  | .endSession p tag body => some ⟨p, Kind.endSession.code, tag, body⟩
  | .grant p tag body => some ⟨p, Kind.grant.code, tag, body⟩
  | .revoke p tag body => some ⟨p, Kind.revoke.code, tag, body⟩
  | .ackPoint p tag body => some ⟨p, Kind.ackPoint.code, tag, body⟩
  | .ackArea p tag body => some ⟨p, Kind.ackArea.code, tag, body⟩
  | .resetPoint p tag body => some ⟨p, Kind.resetPoint.code, tag, body⟩
  | .silence p tag body => some ⟨p, Kind.silence.code, tag, body⟩
  | .queryList p tag body => some ⟨p, Kind.queryList.code, tag, body⟩
  | .readJournal p tag body => some ⟨p, Kind.readJournal.code, tag, body⟩
  | .shelve p tag body => some ⟨p, Kind.shelve.code, tag, body⟩
  | .unshelve p tag body => some ⟨p, Kind.unshelve.code, tag, body⟩
  | .setOutOfService p tag body => some ⟨p, Kind.setOutOfService.code, tag, body⟩
  | .returnToService p tag body => some ⟨p, Kind.returnToService.code, tag, body⟩
  | .claimArea p tag body => some ⟨p, Kind.claimArea.code, tag, body⟩
  | .releaseArea p tag body => some ⟨p, Kind.releaseArea.code, tag, body⟩
  | .relocate p tag body => some ⟨p, Kind.relocate.code, tag, body⟩
  | .offer p tag body => some ⟨p, Kind.offer.code, tag, body⟩
  | .accept p tag body => some ⟨p, Kind.accept.code, tag, body⟩
  | .decline p tag body => some ⟨p, Kind.decline.code, tag, body⟩
  | .withdraw p tag body => some ⟨p, Kind.withdraw.code, tag, body⟩
  | .confirmItem p tag body => some ⟨p, Kind.confirmItem.code, tag, body⟩
  | .confirmPage p tag body => some ⟨p, Kind.confirmPage.code, tag, body⟩
  | .queryItems p tag body => some ⟨p, Kind.queryItems.code, tag, body⟩
  | .take p tag body => some ⟨p, Kind.take.code, tag, body⟩
  | .coSign p tag body => some ⟨p, Kind.coSign.code, tag, body⟩
  | .forceCommit p tag body => some ⟨p, Kind.forceCommit.code, tag, body⟩
  | .forceWithdraw p tag body => some ⟨p, Kind.forceWithdraw.code, tag, body⟩
  | .timeSet p tag body => some ⟨p, Kind.timeSet.code, tag, body⟩
  | .swapGateways p tag body => some ⟨p, Kind.swapGateways.code, tag, body⟩
  | .channelReport p tag body => some ⟨p, Kind.channelReport.code, tag, body⟩
  | .heartbeat p tag body => some ⟨p, Kind.heartbeat.code, tag, body⟩
  | .loadStart p tag body => some ⟨p, Kind.loadStart.code, tag, body⟩
  | .configBlock p tag body => some ⟨p, Kind.configBlock.code, tag, body⟩
  | .loadEnd p tag body => some ⟨p, Kind.loadEnd.code, tag, body⟩
  | .loadAbandon p tag body => some ⟨p, Kind.loadAbandon.code, tag, body⟩
  | .editPoint p tag body => some ⟨p, Kind.editPoint.code, tag, body⟩
  | .editParameters p tag body => some ⟨p, Kind.editParameters.code, tag, body⟩
  | .restart p tag body => some ⟨p, Kind.restart.code, tag, body⟩
  | .restartToLoad p tag body => some ⟨p, Kind.restartToLoad.code, tag, body⟩
  | _ => none

/-- A well-formed command that carries a frame carries a body a frame can hold, and a frame of a kind in
the catalogue is carried by the command of that kind, or by OVERRUN. -/
def WireForm.Statement (i : Instr) : Prop :=
  ∀ f, carried i = some f → WellFormed i = true →
    f.body.length ≤ maxBody ∧
    ∀ k, kindOf f.kind = some k →
      i = requestCommand k f.port f.tag f.body ∨ i = .overrun f.port f.kind f.tag f.body

/-- A command that carries no frame has the wire form. -/
theorem wireForm_of_none {i : Instr} (h : carried i = none) : WireForm.Statement i := by
  intro f hf
  rw [h] at hf
  exact absurd hf (by simp)

/-- The command of a request kind has the wire form. -/
theorem wireForm_of_request {i : Instr} (k : Kind) (p : Port) (tag : Byte) (body : Body)
    (hi : i = requestCommand k p tag body) (hc : carried i = some ⟨p, k.code, tag, body⟩)
    (hw : WellFormed i = bodyFits body) (hk : kindOf k.code = some k) : WireForm.Statement i := by
  intro f hf wf
  have e : f = ⟨p, k.code, tag, body⟩ := Option.some.inj (hf.symm.trans hc)
  subst e
  refine ⟨by rw [hw] at wf; simpa [bodyFits] using wf, fun j hj => Or.inl ?_⟩
  have : j = k := Option.some.inj (hj.symm.trans hk)
  rw [this]
  exact hi

theorem WireForm.overrun (p : Port) (k tag : Byte) (body : Body) :
    WireForm.Statement (.overrun p k tag body) := by
  intro f hf wf
  have e : f = ⟨p, k, tag, body⟩ := Option.some.inj hf.symm
  subst e
  exact ⟨by simpa [WellFormed, bodyFits] using wf, fun _ _ => Or.inr rfl⟩

theorem WireForm.unknownRequestKind (p : Port) (k tag : Byte) (body : Body) :
    WireForm.Statement (.unknownRequestKind p k tag body) := by
  intro f hf wf
  have e : f = ⟨p, k, tag, body⟩ := Option.some.inj hf.symm
  subst e
  have wf' : body.length ≤ maxBody ∧ kindOf k = none := by
    simpa [WellFormed, bodyFits] using wf
  refine ⟨wf'.1, fun j hj => ?_⟩
  rw [wf'.2] at hj
  exact absurd hj (by simp)

theorem WireForm.powerOn :
    WireForm.Statement (.powerOn) := wireForm_of_none rfl
theorem WireForm.resetPin :
    WireForm.Statement (.resetPin) := wireForm_of_none rfl
theorem WireForm.timeReferenceTick (cycles : Nat) :
    WireForm.Statement (.timeReferenceTick cycles) := wireForm_of_none rfl
theorem WireForm.badFrame (port : Port) (bytes : List Byte) :
    WireForm.Statement (.badFrame port bytes) := wireForm_of_none rfl
theorem WireForm.fetch (clocking : Port × Nat) :
    WireForm.Statement (.fetch clocking) := wireForm_of_none rfl
theorem WireForm.linkReset (port : Port) :
    WireForm.Statement (.linkReset port) := wireForm_of_none rfl
theorem WireForm.login (p : Port) (tag : Byte) (body : Body) :
    WireForm.Statement (.login p tag body) :=
  wireForm_of_request .login p tag body rfl rfl rfl (by decide)
theorem WireForm.logout (p : Port) (tag : Byte) (body : Body) :
    WireForm.Statement (.logout p tag body) :=
  wireForm_of_request .logout p tag body rfl rfl rfl (by decide)
theorem WireForm.present (p : Port) (tag : Byte) (body : Body) :
    WireForm.Statement (.present p tag body) :=
  wireForm_of_request .present p tag body rfl rfl rfl (by decide)
theorem WireForm.endSession (p : Port) (tag : Byte) (body : Body) :
    WireForm.Statement (.endSession p tag body) :=
  wireForm_of_request .endSession p tag body rfl rfl rfl (by decide)
theorem WireForm.grant (p : Port) (tag : Byte) (body : Body) :
    WireForm.Statement (.grant p tag body) :=
  wireForm_of_request .grant p tag body rfl rfl rfl (by decide)
theorem WireForm.revoke (p : Port) (tag : Byte) (body : Body) :
    WireForm.Statement (.revoke p tag body) :=
  wireForm_of_request .revoke p tag body rfl rfl rfl (by decide)
theorem WireForm.ackPoint (p : Port) (tag : Byte) (body : Body) :
    WireForm.Statement (.ackPoint p tag body) :=
  wireForm_of_request .ackPoint p tag body rfl rfl rfl (by decide)
theorem WireForm.ackArea (p : Port) (tag : Byte) (body : Body) :
    WireForm.Statement (.ackArea p tag body) :=
  wireForm_of_request .ackArea p tag body rfl rfl rfl (by decide)
theorem WireForm.resetPoint (p : Port) (tag : Byte) (body : Body) :
    WireForm.Statement (.resetPoint p tag body) :=
  wireForm_of_request .resetPoint p tag body rfl rfl rfl (by decide)
theorem WireForm.silence (p : Port) (tag : Byte) (body : Body) :
    WireForm.Statement (.silence p tag body) :=
  wireForm_of_request .silence p tag body rfl rfl rfl (by decide)
theorem WireForm.queryList (p : Port) (tag : Byte) (body : Body) :
    WireForm.Statement (.queryList p tag body) :=
  wireForm_of_request .queryList p tag body rfl rfl rfl (by decide)
theorem WireForm.readJournal (p : Port) (tag : Byte) (body : Body) :
    WireForm.Statement (.readJournal p tag body) :=
  wireForm_of_request .readJournal p tag body rfl rfl rfl (by decide)
theorem WireForm.shelve (p : Port) (tag : Byte) (body : Body) :
    WireForm.Statement (.shelve p tag body) :=
  wireForm_of_request .shelve p tag body rfl rfl rfl (by decide)
theorem WireForm.unshelve (p : Port) (tag : Byte) (body : Body) :
    WireForm.Statement (.unshelve p tag body) :=
  wireForm_of_request .unshelve p tag body rfl rfl rfl (by decide)
theorem WireForm.setOutOfService (p : Port) (tag : Byte) (body : Body) :
    WireForm.Statement (.setOutOfService p tag body) :=
  wireForm_of_request .setOutOfService p tag body rfl rfl rfl (by decide)
theorem WireForm.returnToService (p : Port) (tag : Byte) (body : Body) :
    WireForm.Statement (.returnToService p tag body) :=
  wireForm_of_request .returnToService p tag body rfl rfl rfl (by decide)
theorem WireForm.claimArea (p : Port) (tag : Byte) (body : Body) :
    WireForm.Statement (.claimArea p tag body) :=
  wireForm_of_request .claimArea p tag body rfl rfl rfl (by decide)
theorem WireForm.releaseArea (p : Port) (tag : Byte) (body : Body) :
    WireForm.Statement (.releaseArea p tag body) :=
  wireForm_of_request .releaseArea p tag body rfl rfl rfl (by decide)
theorem WireForm.relocate (p : Port) (tag : Byte) (body : Body) :
    WireForm.Statement (.relocate p tag body) :=
  wireForm_of_request .relocate p tag body rfl rfl rfl (by decide)
theorem WireForm.offer (p : Port) (tag : Byte) (body : Body) :
    WireForm.Statement (.offer p tag body) :=
  wireForm_of_request .offer p tag body rfl rfl rfl (by decide)
theorem WireForm.accept (p : Port) (tag : Byte) (body : Body) :
    WireForm.Statement (.accept p tag body) :=
  wireForm_of_request .accept p tag body rfl rfl rfl (by decide)
theorem WireForm.decline (p : Port) (tag : Byte) (body : Body) :
    WireForm.Statement (.decline p tag body) :=
  wireForm_of_request .decline p tag body rfl rfl rfl (by decide)
theorem WireForm.withdraw (p : Port) (tag : Byte) (body : Body) :
    WireForm.Statement (.withdraw p tag body) :=
  wireForm_of_request .withdraw p tag body rfl rfl rfl (by decide)
theorem WireForm.confirmItem (p : Port) (tag : Byte) (body : Body) :
    WireForm.Statement (.confirmItem p tag body) :=
  wireForm_of_request .confirmItem p tag body rfl rfl rfl (by decide)
theorem WireForm.confirmPage (p : Port) (tag : Byte) (body : Body) :
    WireForm.Statement (.confirmPage p tag body) :=
  wireForm_of_request .confirmPage p tag body rfl rfl rfl (by decide)
theorem WireForm.queryItems (p : Port) (tag : Byte) (body : Body) :
    WireForm.Statement (.queryItems p tag body) :=
  wireForm_of_request .queryItems p tag body rfl rfl rfl (by decide)
theorem WireForm.take (p : Port) (tag : Byte) (body : Body) :
    WireForm.Statement (.take p tag body) :=
  wireForm_of_request .take p tag body rfl rfl rfl (by decide)
theorem WireForm.coSign (p : Port) (tag : Byte) (body : Body) :
    WireForm.Statement (.coSign p tag body) :=
  wireForm_of_request .coSign p tag body rfl rfl rfl (by decide)
theorem WireForm.forceCommit (p : Port) (tag : Byte) (body : Body) :
    WireForm.Statement (.forceCommit p tag body) :=
  wireForm_of_request .forceCommit p tag body rfl rfl rfl (by decide)
theorem WireForm.forceWithdraw (p : Port) (tag : Byte) (body : Body) :
    WireForm.Statement (.forceWithdraw p tag body) :=
  wireForm_of_request .forceWithdraw p tag body rfl rfl rfl (by decide)
theorem WireForm.timeSet (p : Port) (tag : Byte) (body : Body) :
    WireForm.Statement (.timeSet p tag body) :=
  wireForm_of_request .timeSet p tag body rfl rfl rfl (by decide)
theorem WireForm.swapGateways (p : Port) (tag : Byte) (body : Body) :
    WireForm.Statement (.swapGateways p tag body) :=
  wireForm_of_request .swapGateways p tag body rfl rfl rfl (by decide)
theorem WireForm.channelReport (p : Port) (tag : Byte) (body : Body) :
    WireForm.Statement (.channelReport p tag body) :=
  wireForm_of_request .channelReport p tag body rfl rfl rfl (by decide)
theorem WireForm.heartbeat (p : Port) (tag : Byte) (body : Body) :
    WireForm.Statement (.heartbeat p tag body) :=
  wireForm_of_request .heartbeat p tag body rfl rfl rfl (by decide)
theorem WireForm.loadStart (p : Port) (tag : Byte) (body : Body) :
    WireForm.Statement (.loadStart p tag body) :=
  wireForm_of_request .loadStart p tag body rfl rfl rfl (by decide)
theorem WireForm.configBlock (p : Port) (tag : Byte) (body : Body) :
    WireForm.Statement (.configBlock p tag body) :=
  wireForm_of_request .configBlock p tag body rfl rfl rfl (by decide)
theorem WireForm.loadEnd (p : Port) (tag : Byte) (body : Body) :
    WireForm.Statement (.loadEnd p tag body) :=
  wireForm_of_request .loadEnd p tag body rfl rfl rfl (by decide)
theorem WireForm.loadAbandon (p : Port) (tag : Byte) (body : Body) :
    WireForm.Statement (.loadAbandon p tag body) :=
  wireForm_of_request .loadAbandon p tag body rfl rfl rfl (by decide)
theorem WireForm.editPoint (p : Port) (tag : Byte) (body : Body) :
    WireForm.Statement (.editPoint p tag body) :=
  wireForm_of_request .editPoint p tag body rfl rfl rfl (by decide)
theorem WireForm.editParameters (p : Port) (tag : Byte) (body : Body) :
    WireForm.Statement (.editParameters p tag body) :=
  wireForm_of_request .editParameters p tag body rfl rfl rfl (by decide)
theorem WireForm.restart (p : Port) (tag : Byte) (body : Body) :
    WireForm.Statement (.restart p tag body) :=
  wireForm_of_request .restart p tag body rfl rfl rfl (by decide)
theorem WireForm.restartToLoad (p : Port) (tag : Byte) (body : Body) :
    WireForm.Statement (.restartToLoad p tag body) :=
  wireForm_of_request .restartToLoad p tag body rfl rfl rfl (by decide)
theorem WireForm.pendingExpiry (point : Nat) :
    WireForm.Statement (.pendingExpiry point) := wireForm_of_none rfl
theorem WireForm.shelveExpiry :
    WireForm.Statement (.shelveExpiry) := wireForm_of_none rfl
theorem WireForm.releaseExpiry (group : GroupIdx) :
    WireForm.Statement (.releaseExpiry group) := wireForm_of_none rfl
theorem WireForm.groupMemberReleaseEvent (group : GroupIdx) :
    WireForm.Statement (.groupMemberReleaseEvent group) := wireForm_of_none rfl
theorem WireForm.loadIntervalExpiry :
    WireForm.Statement (.loadIntervalExpiry) := wireForm_of_none rfl
theorem WireForm.summaryExpiry (area : Area) :
    WireForm.Statement (.summaryExpiry area) := wireForm_of_none rfl
theorem WireForm.sweepVisit :
    WireForm.Statement (.sweepVisit) := wireForm_of_none rfl
theorem WireForm.passEnd :
    WireForm.Statement (.passEnd) := wireForm_of_none rfl
theorem WireForm.idleExpiry (desk : Desk) :
    WireForm.Statement (.idleExpiry desk) := wireForm_of_none rfl
theorem WireForm.absentExpiry (desk : Desk) :
    WireForm.Statement (.absentExpiry desk) := wireForm_of_none rfl
theorem WireForm.lockoutExpiry (desk : Desk) :
    WireForm.Statement (.lockoutExpiry desk) := wireForm_of_none rfl
theorem WireForm.credentialExpired (badge : Badge) :
    WireForm.Statement (.credentialExpired badge) := wireForm_of_none rfl
theorem WireForm.offerExpiry (record : RecordIdx) :
    WireForm.Statement (.offerExpiry record) := wireForm_of_none rfl
theorem WireForm.overlapLimitExpiry (record : RecordIdx) :
    WireForm.Statement (.overlapLimitExpiry record) := wireForm_of_none rfl
theorem WireForm.livenessExpiry (port : Port) :
    WireForm.Statement (.livenessExpiry port) := wireForm_of_none rfl
theorem WireForm.doubtExpiry (gateway : Gateway) :
    WireForm.Statement (.doubtExpiry gateway) := wireForm_of_none rfl

end Sys2Proof.Laws
end

