-- ==== Sys2Proof/Laws/Points.lean ====
section
/-! SUPPORT. What the alarm state engine and the group unit do to points, groups and loads: one lemma for
each shared operation. -/

namespace Sys2Proof.Machine

/-! ## Handing on -/

/-- SUPPRESSED cleared. -/
def Point.released (p : Point) : Point := { p with suppressed := false }

theorem announce_point (s : State) (i j : Nat) (c : Change) : (announce s i c).point j = s.point j :=
  (announce_changes s i c).at_point j

theorem releaseMember_point (s : State) (m j : Nat) :
    (releaseMember s m).point j = if j = m then (s.point j).map Point.released else s.point j := by
  unfold releaseMember
  cases h : s.point m with
  | none => by_cases e : j = m <;> simp [e, h]
  | some p =>
    dsimp only
    by_cases hs : p.suppressed = true
    · simp only [hs, if_true]
      rw [announce_point]
      by_cases e : j = m
      · subst e
        rw [setPoint_point_of h, h]
        simp [Point.released]
      · rw [setPoint_point_ne _ _ e]
        simp [e]
    · simp only [hs]
      by_cases e : j = m
      · subst e
        simp only [h, if_true, Option.map_some, Point.released]
        cases p
        simp_all
      · simp [e]

theorem releaseMembers_point (l : List Nat) (s : State) (j : Nat) :
    (l.foldl releaseMember s).point j = if j ∈ l then (s.point j).map Point.released else s.point j := by
  induction l generalizing s with
  | nil => simp
  | cons m rest ih =>
    rw [List.foldl_cons, ih, releaseMember_point]
    by_cases e : j = m
    · subst e
      cases s.point j <;> simp [Point.released]
    · by_cases hr : j ∈ rest <;> simp [e, hr]

theorem releaseMembers_groups (l : List Nat) (s : State) : (l.foldl releaseMember s).groups = s.groups := by
  have h : OnlyChanges [.points, .records, .queues] s (l.foldl releaseMember s) :=
    .foldl releaseMember_changes _ _
  exact h.groups

/-- The members that a release finds SUPPRESSED. -/
def State.heldMembers (s : State) (x : Group) : List Nat :=
  x.members.filter (fun m => (s.point m).any (·.suppressed))

theorem releaseGroup_point (s : State) (g : GroupIdx) (x : Group) (j : Nat) :
    (releaseGroup s g x).point j =
      if j ∈ x.members then (s.point j).map Point.released else s.point j := by
  unfold releaseGroup
  dsimp only
  rw [releaseMembers_point]
  rw [setGroup_at_point]
  by_cases hm : j ∈ x.members
  · cases h : s.point j with
    | none => simp
    | some p =>
      by_cases hs : p.suppressed = true
      · simp [hm, h, hs]
      · have : p.released = p := by
          cases p
          simp_all [Point.released]
        simp [hm, h, hs, this]
  · simp [hm]

theorem releaseGroup_group (s : State) (g : GroupIdx) (x : Group) :
    (releaseGroup s g x).group g =
      some { x with state := .isOpen, expiry := none, owed := x.owed ++ s.heldMembers x } := by
  unfold releaseGroup
  dsimp only
  unfold State.group
  rw [releaseMembers_groups]
  simp [State.setGroup, State.heldMembers]

theorem releaseGroup_group_ne (s : State) {g h : GroupIdx} (x : Group) (e : h ≠ g) :
    (releaseGroup s g x).group h = s.group h := by
  have := setGroup_group_ne s (i := g) (j := h)
    { x with state := .isOpen, expiry := none, owed := x.owed ++ s.heldMembers x } e
  unfold releaseGroup
  dsimp only
  unfold State.group at *
  rw [releaseMembers_groups]
  exact this

/-- The SUPPRESSED members of a group, told from a state with the same members but for one that is known. -/
theorem heldMembers_at {s t : State} {i : Nat} {q : Point} (x : Group) (h : s.point i = some q)
    (hp : ∀ m, m ∈ x.members → t.point m = s.point m) :
    t.heldMembers x = x.members.filter (fun m =>
      if m = i then q.suppressed else (s.point m).any (·.suppressed)) := by
  unfold State.heldMembers
  refine List.filter_congr fun m hm => ?_
  rw [hp m hm]
  by_cases e : m = i
  · simp [e, h]
  · simp [e]

/-- A change of a point that leaves its activity as it was tells no group (R24). -/
theorem handOn_same {s : State} {i : Nat} {old q : Point} (c : Change) (h : s.point i = some q)
    (ha : q.active = old.active) : handOn s i old c = announce s i c := by
  unfold handOn groupTold
  rw [announce_point, h]
  dsimp only
  cases q.cfg.headOf with
  | none => rfl
  | some g => simp [ha]

theorem handOn_same_changes {s : State} {i : Nat} {old q : Point} (c : Change) (h : s.point i = some q)
    (ha : q.active = old.active) : OnlyChanges [.records, .queues] s (handOn s i old c) := by
  rw [handOn_same c h ha]
  exact announce_changes _ _ _

/-- A change of a point is handed on: the points of a group that its head releases apart, no point
changes (R24, R59, R60). -/
theorem handOn_point (s : State) (i j : Nat) (old : Point) (c : Change) :
    (handOn s i old c).point j = s.point j ∨
      (handOn s i old c).point j = (s.point j).map Point.released := by
  unfold handOn groupTold
  rw [announce_point]
  cases s.point i with
  | none => exact .inl (announce_point _ _ _ _)
  | some p =>
    dsimp only
    cases p.cfg.headOf with
    | none => exact .inl (announce_point _ _ _ _)
    | some g =>
      dsimp only
      split
      · exact .inl (announce_point _ _ _ _)
      · split
        · rw [(headBecameActive_changes _ _).at_point]
          exact .inl (announce_point _ _ _ _)
        · unfold headBecameInactive
          cases (announce s i c).group g with
          | none => exact .inl (announce_point _ _ _ _)
          | some x =>
            dsimp only
            split
            · split
              · rw [releaseGroup_point, announce_point]
                by_cases hm : j ∈ x.members <;> simp [hm]
              · rw [setGroup_at_point]
                exact .inl (announce_point _ _ _ _)
            · exact .inl (announce_point _ _ _ _)

/-- The point itself stands as it was when it is handed on, where its group's release cannot reach it: it is
no member of the group it heads, or is not SUPPRESSED. -/
theorem handOn_self {s : State} {i : Nat} {old q : Point} (c : Change) (h : s.point i = some q)
    (ha : (∀ g x, q.cfg.headOf = some g → s.group g = some x → i ∉ x.members) ∨
      q.suppressed = false) : (handOn s i old c).point i = some q := by
  have hann := announce_changes s i c
  have hi : (announce s i c).point i = some q := by rw [announce_point, h]
  unfold handOn groupTold
  rw [hi]
  dsimp only
  cases hh : q.cfg.headOf with
  | none => exact hi
  | some g =>
    dsimp only
    split
    · exact hi
    · split
      · rw [(headBecameActive_changes _ _).at_point]
        exact hi
      · unfold headBecameInactive
        rw [hann.at_group]
        cases hx : s.group g with
        | none => exact hi
        | some x =>
          dsimp only
          split
          · split
            · rw [releaseGroup_point, hi]
              rcases ha with ha | ha
              · rw [if_neg (ha g x hh hx)]
              · have : q.released = q := by
                  cases q
                  simp_all [Point.released]
                simp [this]
            · rw [setGroup_at_point]
              exact hi
          · exact hi

/-- A change that makes a point active, or leaves it as it was, changes no point and tells only the group
it heads (R59). -/
theorem handOn_rising {s : State} {i : Nat} {old q : Point} (c : Change) (h : s.point i = some q)
    (ha : old.active = true → q.active = true) :
    OnlyChanges [.groups, .records, .queues] s (handOn s i old c) ∧
    ∀ g, (handOn s i old c).group g =
      if q.cfg.headOf = some g ∧ q.active = true ∧ old.active = false then
        (s.group g).map (fun x => { x with state := .blocking, expiry := none })
      else s.group g := by
  have hann := announce_changes s i c
  by_cases he : q.active = old.active
  · rw [handOn_same c h he]
    refine ⟨hann.mono (by decide), fun g => ?_⟩
    rw [hann.at_group]
    by_cases hg : q.active = true
    · have : old.active = true := he ▸ hg
      simp [this]
    · simp [hg]
  · have hq : q.active = true := by
      cases hold : old.active with
      | true => exact ha hold
      | false =>
        cases hq : q.active with
        | true => rfl
        | false => exact absurd (hq.trans hold.symm) he
    have ho : old.active = false := by
      cases hold : old.active with
      | true => exact absurd (hq.trans hold.symm) he
      | false => rfl
    have hun : handOn s i old c = match q.cfg.headOf with
        | some g => headBecameActive (announce s i c) g
        | none => announce s i c := by
      unfold handOn groupTold
      rw [announce_point, h]
      dsimp only
      cases q.cfg.headOf with
      | none => rfl
      | some g => simp [hq, ho]
    rw [hun]
    cases hh : q.cfg.headOf with
    | none =>
      refine ⟨hann.mono (by decide), fun g => ?_⟩
      simp [hann.at_group]
    | some g =>
      dsimp only
      refine ⟨(hann.mono (by decide)).trans ((headBecameActive_changes _ _).mono (by decide)),
        fun k => ?_⟩
      unfold headBecameActive
      rw [hann.at_group]
      by_cases e : k = g
      · subst e
        cases hx : s.group k with
        | none => simp [hann.at_group, hx]
        | some x => simp [hq, ho]
      · have e' : ¬g = k := fun h => e h.symm
        cases hx : s.group g with
        | none => simp [hann.at_group, e']
        | some x =>
          dsimp only
          rw [setGroup_group_ne _ _ e, hann.at_group]
          simp [e']

/-- What a group does as its head falls reads the head itself only as it stands after. -/
theorem HeadHasFallen.of_setPoint {s t : State} {i : Nat} {p q : Point}
    (h : HeadHasFallen (s.setPoint i q) t i p q) : HeadHasFallen s t i p q := by
  refine ⟨fun g x h1 h2 h3 h4 h5 => ⟨(h.1 g x h1 h2 h3 h4 h5).1, fun hd => ?_⟩, h.2⟩
  rw [(h.1 g x h1 h2 h3 h4 h5).2 hd]
  have : ∀ m, (if m = i then q.suppressed else ((s.setPoint i q).point m).any (·.suppressed)) =
      if m = i then q.suppressed else (s.point m).any (·.suppressed) := by
    intro m
    by_cases e : m = i
    · simp [e]
    · simp [e, setPoint_point_ne _ _ e]
  simp only [this]

/-- A change that ends a point's activity, or leaves it as it was, tells only the group it heads
(R59). -/
theorem handOn_falling {s : State} {i : Nat} {old q : Point} (c : Change) (h : s.point i = some q)
    (hcfg : q.cfg = old.cfg) (ha : q.active = true → old.active = true) :
    HeadHasFallen s (handOn s i old c) i old q := by
  have hann := announce_changes s i c
  by_cases he : q.active = old.active
  · refine ⟨fun g x _ h1 h2 => ?_, fun g _ => ?_⟩
    · rw [← he, h2] at h1
      exact absurd h1 (by decide)
    · rw [handOn_same c h he, hann.at_group]
  · have hq : q.active = false := by
      cases hq : q.active with
      | false => rfl
      | true => exact absurd (hq.trans (ha hq).symm) he
    have ho : old.active = true := by
      cases hold : old.active with
      | true => rfl
      | false => exact absurd (hq.trans hold.symm) he
    have hun : handOn s i old c = match old.cfg.headOf with
        | some g => headBecameInactive (announce s i c) g
        | none => announce s i c := by
      unfold handOn groupTold
      rw [announce_point, h]
      dsimp only
      rw [hcfg]
      cases old.cfg.headOf with
      | none => rfl
      | some g => simp [hq, ho]
    rw [hun]
    cases hh : old.cfg.headOf with
    | none =>
      refine ⟨fun g x h1 => ?_, fun g _ => hann.at_group _⟩
      rw [hh] at h1
      exact absurd h1 (by simp)
    | some k =>
      dsimp only
      unfold headBecameInactive
      rw [hann.at_group]
      refine ⟨fun g x h1 _ _ hx hb => ?_, fun g hg => ?_⟩
      · rw [hh] at h1
        obtain rfl : k = g := Option.some.inj h1
        rw [hx]
        dsimp only
        rw [if_pos hb]
        constructor
        · intro hd
          rw [if_neg hd, setGroup_group, hann.elapsed]
        · intro hd
          rw [if_pos hd]
          rw [releaseGroup_group, heldMembers_at x h fun m _ => announce_point s i m c]
      · cases hx : s.group k with
        | none => exact hann.at_group _
        | some x =>
          dsimp only
          by_cases hb : x.state = .blocking
          · have hgk : g ≠ k := by
              rintro rfl
              rcases hg with h1 | h1 | h1
              · exact h1 hh
              · rw [hq, ho] at h1
                exact absurd h1 (by decide)
              · simp [hx, hb] at h1
            rw [if_pos hb]
            split
            · rw [releaseGroup_group_ne _ _ hgk, hann.at_group]
            · rw [setGroup_group_ne _ _ hgk, hann.at_group]
          · rw [if_neg hb]
            exact hann.at_group _

/-! ## Raises -/

theorem rising_head {s u : State} {p q : Point} (hcfg : q.cfg = p.cfg)
    (hser : q.inService = p.inService) (hq : q.state.inAlarm = true)
    (hg : ∀ g, u.group g =
      if q.cfg.headOf = some g ∧ q.active = true ∧ p.active = false then
        (s.group g).map (fun x => { x with state := .blocking, expiry := none })
      else s.group g) : HeadHasRisen s u p := by
  refine ⟨fun g h1 h2 h3 => ?_, fun g h1 => ?_⟩
  · rw [hg, if_pos]
    refine ⟨by rw [hcfg]; exact h1, ?_, ?_⟩
    · simp [Point.active, hser, h2, hq]
    · simp [Point.active, h3]
  · rw [hg, if_neg]
    rintro ⟨h2, h3, h4⟩
    rcases h1 with h1 | h1 | h1
    · exact h1 (by rw [← hcfg]; exact h2)
    · simp [Point.active, hser, h1] at h3
    · simp only [Point.active, hser, Bool.and_eq_true] at h3
      simp [Point.active, h3.1, h1] at h4

theorem rising_active {p q : Point} (hser : q.inService = p.inService) (hq : q.state.inAlarm = true) :
    p.active = true → q.active = true := by
  intro h
  simp only [Point.active, Bool.and_eq_true] at h ⊢
  exact ⟨hser ▸ h.1, hq⟩

theorem loadStateChanged_load (s : State) (a b : Area) (x : LoadState) :
    ((loadStateChanged s a x).load b).load = (s.load b).load ∧
    ((loadStateChanged s a x).load b).state = (s.load b).state ∧
    (b ≠ a → (loadStateChanged s a x).load b = s.load b) ∧
    ((s.load a).state = .flood → ((loadStateChanged s a x).load a).count = (s.load a).count) := by
  unfold loadStateChanged
  dsimp only
  simp only [enter_at_load, fun t o b => (areaNotice_changes t a o).at_load b]
  have told : ∀ b, State.load (if (s.load a).state = .flood then floodEntered s a
      else if x = .flood then floodLeft s a else s) b = s.load b := by
    intro b
    split
    · exact (floodEntered_changes _ _).at_load _
    · split
      · exact (floodLeft_changes _ _).at_load _
      · rfl
  generalize (if (s.load a).state = .flood then floodEntered s a
      else if x = .flood then floodLeft s a else s) = u at told
  have leave : ∀ b, ((leaveFlood u a).load b).load = (u.load b).load ∧
      ((leaveFlood u a).load b).state = (u.load b).state ∧
      (b ≠ a → (leaveFlood u a).load b = u.load b) := by
    intro b
    unfold leaveFlood
    dsimp only
    have hsum : ∀ b, State.load (if 0 < (u.load a).count then summaryNotice u a else u) b = u.load b := by
      intro b
      split
      · exact (summaryNotice_changes _ _).at_load _
      · rfl
    by_cases e : b = a
    · subst e
      simp
    · rw [setLoad_load_ne _ _ e, hsum]
      simp
  by_cases hf : (s.load a).state = .flood
  · simp only [hf, if_true]
    by_cases e : b = a
    · subst e
      simp [told, hf]
    · rw [setLoad_load_ne _ _ e]
      simp [told]
  · simp only [hf, if_false]
    by_cases hx : x = .flood
    · simp only [hx, if_true]
      have := leave b
      rw [told] at this
      exact ⟨this.1, this.2.1, this.2.2, fun h => absurd h (by trivial)⟩
    · simp only [hx, if_false]
      rw [told]
      exact ⟨rfl, rfl, fun _ => rfl, fun h => absurd h (by trivial)⟩

/-- A change of an area's load: the load and its evaluated state stand, and no other area's record
changes (R66, R71). -/
theorem applyLoad_load (s : State) (a : Area) (l : Nat) :
    ((applyLoad s a l).load a).load = l ∧
    ((applyLoad s a l).load a).state = s.evalLoad (s.load a).state l ∧
    (∀ b, b ≠ a → (applyLoad s a l).load b = s.load b) ∧
    (((applyLoad s a l).load a).state = .flood →
      ((applyLoad s a l).load a).count = (s.load a).count) := by
  unfold applyLoad
  dsimp only
  split
  · simp only [setLoad_load]
    exact ⟨trivial, trivial, fun b e => setLoad_load_ne _ _ e, fun _ => trivial⟩
  · generalize hu : s.setLoad a { s.load a with load := l, state := s.evalLoad (s.load a).state l } = u
    have hua : u.load a = { s.load a with load := l, state := s.evalLoad (s.load a).state l } := by
      rw [← hu, setLoad_load]
    have h := loadStateChanged_load u a a (s.load a).state
    refine ⟨by rw [h.1, hua], by rw [h.2.1, hua], fun b e => ?_, fun hf => ?_⟩
    · rw [(loadStateChanged_load u a b (s.load a).state).2.2.1 e, ← hu, setLoad_load_ne _ _ e]
    · rw [h.2.1] at hf
      rw [h.2.2.2 hf, hua]

theorem quietRaise_taken {s : State} {i : Nat} {p : Point} (time : Time) (h : s.point i = some p) :
    let u := quietRaise s i p (s.newOccurrence p time)
    QuietRaise s u i p time ∧ HeadHasRisen s u p ∧ OtherPointsSame s u i := by
  intro u
  let q : Point :=
    { s.newOccurrence p time with
      state := .ackActive, suppressed := (s.newOccurrence p time).suppressed || s.blocks p }
  have hu : u = handOn (s.setPoint i q) i p { fresh := true, noted := true } := rfl
  have hq : (s.setPoint i q).point i = some q := setPoint_point_of h _
  have hr := handOn_rising (old := p) { fresh := true, noted := true } hq
    (rising_active (q := q) (p := p) rfl rfl)
  rw [← hu] at hr
  refine ⟨⟨?_, ?_, ?_⟩, rising_head (q := q) rfl rfl rfl ?_, fun j e => ?_⟩
  · rw [hr.1.at_point, hq]
    rfl
  · rw [hr.1.serial]; rfl
  · rw [hr.1.loads]; rfl
  · exact hr.2
  · rw [hr.1.at_point, setPoint_point_ne _ _ e]

theorem foldRaise_taken {s : State} {i : Nat} {p : Point} (h : s.point i = some p) :
    let u := foldRaise s i p
    FoldedRaise s u i p ∧ HeadHasRisen s u p ∧ OtherPointsSame s u i := by
  intro u
  have hq : (s.setPoint i (s.folded p)).point i = some (s.folded p) := setPoint_point_of h _
  have hal : (s.folded p).state.inAlarm = true := by
    unfold State.folded
    dsimp only
    split <;> rfl
  have hr := handOn_rising (old := p)
    { noted := s.blocks p, chatter := (s.folded p).chattering && !p.chattering } hq (rising_active rfl hal)
  have hu : u = handOn (s.setPoint i (s.folded p)) i p
    { noted := s.blocks p, chatter := (s.folded p).chattering && !p.chattering } := rfl
  rw [← hu] at hr
  refine ⟨⟨?_, ?_, ?_⟩, rising_head (q := s.folded p) rfl rfl hal hr.2, fun j e => ?_⟩
  · rw [hr.1.at_point, hq]
    rfl
  · rw [hr.1.serial]; rfl
  · rw [hr.1.loads]; rfl
  · rw [hr.1.at_point, setPoint_point_ne _ _ e]

theorem annunciate_taken {s : State} {i : Nat} {p : Point} (time : Time) (h : s.point i = some p) :
    let u := annunciate s i p (s.newOccurrence p time)
    AnnunciatedRaise s u i p time ∧ HeadHasRisen s u p ∧ OtherPointsSame s u i := by
  intro u
  let raised : Point :=
    { s.newOccurrence p time with state := .unackActive, raiseSerial := s.serial + 1 }
  let s1 := { s with serial := s.serial + 1 }.setPoint i raised
  let s2 := weightedRaise s1 p.cfg.area p.cfg.priority
  have h1 : s1.point i = some raised := by
    have : ({ s with serial := s.serial + 1 } : State).point i = some p := h
    exact setPoint_point_of this _
  have h1j : ∀ j, j ≠ i → s1.point j = s.point j := fun j e => setPoint_point_ne _ _ e
  have hw := weightedRaise_changes s1 p.cfg.area p.cfg.priority
  have hl := applyLoad_load s1 p.cfg.area
    (min Config.saturation ((s1.load p.cfg.area).load + s1.weight p.cfg.priority))
  have h2 : s2.point i = some raised := by rw [hw.at_point, h1]
  have hm : s2.mutes p.cfg.area p.cfg.priority =
      ((s2.load p.cfg.area).state == .flood && decide (s.param 10 ≤ p.cfg.priority)) := by
    unfold State.mutes
    rw [hw.at_param]
    rfl
  have grp : ∀ (v : State) (g : GroupIdx), v.groups = s.groups → v.group g = s.group g := by
    intro v g hv
    simp only [State.group, hv]
  have hg2 : s2.groups = s.groups := hw.groups
  by_cases hmu : s2.mutes p.cfg.area p.cfg.priority = true
  · let q : Point := { raised with muted := true }
    let s3 := (countMuted s2 p.cfg.area).setPoint i q
    have hu : u = handOn s3 i p { fresh := true, withheld := true } := by
      show annunciate s i p (s.newOccurrence p time) = _
      unfold annunciate
      exact if_pos hmu
    have h3 : s3.point i = some q := by
      refine setPoint_point_of (p := raised) ?_ _
      rw [(countMuted_changes _ _).at_point, h2]
    have hr := handOn_rising (old := p) { fresh := true, withheld := true } h3
      (rising_active (q := q) rfl rfl)
    rw [← hu] at hr
    have hload : ∀ b, u.load b = (countMuted s2 p.cfg.area).load b := fun b => by
      rw [hr.1.at_load]; rfl
    have hfl : (s2.load p.cfg.area).state = .flood := by
      rw [hm] at hmu
      simpa using And.left (by simpa using hmu)
    have hua : u.load p.cfg.area =
        { s2.load p.cfg.area with
          count := min Config.saturation ((s2.load p.cfg.area).count + 1) } := by
      rw [hload]
      exact setLoad_load _ _ _
    refine ⟨⟨?_, ?_, ?_, ?_, ?_, ?_⟩, rising_head (q := q) rfl rfl rfl ?_, fun j e => ?_⟩
    · rw [hr.1.at_point, h3, hua]
      rw [hm] at hmu
      rw [hmu]
      rfl
    · rw [hr.1.serial]
      exact hw.serial
    · rw [hua]; exact hl.1
    · rw [hua]; exact hl.2.1
    · intro _
      rw [hua]
      have := hl.2.2.2 hfl
      show min 65535 ((s2.load p.cfg.area).count + 1) = _
      rw [show (s2.load p.cfg.area).count = (s.load p.cfg.area).count from this]
    · intro b e
      rw [hload]
      show (s2.setLoad p.cfg.area _).load b = _
      rw [setLoad_load_ne _ _ e]
      exact hl.2.2.1 b e
    · intro g
      rw [hr.2 g, grp s3 g hg2]
    · rw [hr.1.at_point]
      show ((countMuted s2 p.cfg.area).setPoint i q).point j = _
      rw [setPoint_point_ne _ _ e, (countMuted_changes _ _).at_point, hw.at_point, h1j j e]
  · have hu : u = handOn s2 i p { fresh := true } := by
      show annunciate s i p (s.newOccurrence p time) = _
      unfold annunciate
      exact if_neg hmu
    have hr := handOn_rising (old := p) { fresh := true } h2 (rising_active (q := raised) rfl rfl)
    rw [← hu] at hr
    have hload : ∀ b, u.load b = s2.load b := fun b => hr.1.at_load b
    refine ⟨⟨?_, ?_, ?_, ?_, ?_, ?_⟩, rising_head (q := raised) rfl rfl rfl ?_, fun j e => ?_⟩
    · rw [hr.1.at_point, h2, hload]
      rw [hm, Bool.not_eq_true] at hmu
      rw [hmu]
      rfl
    · rw [hr.1.serial]
      exact hw.serial
    · rw [hload]; exact hl.1
    · rw [hload]; exact hl.2.1
    · intro hc
      rw [hload] at hc
      rw [hm] at hmu
      exact absurd hc hmu
    · intro b e
      rw [hload]
      exact hl.2.2.1 b e
    · intro g
      rw [hr.2 g, grp s2 g hg2]
    · rw [hr.1.at_point, hw.at_point, h1j j e]

/-- The engine takes a raise (R26 to R31). -/
theorem engineRaise_taken {s : State} {i : Nat} {p : Point} (time : Time) (h : s.point i = some p) :
    RaiseTaken s (engineRaise s i time) i p time := by
  unfold engineRaise
  rw [h]
  dsimp only
  by_cases hf : p.folds time = true
  · rw [if_pos hf]
    have hu := foldRaise_taken h
    refine ⟨fun _ => hu.1, fun e => ?_, fun e => ?_, hu.2.1, hu.2.2⟩ <;>
      exact absurd (hf.symm.trans e) (by decide)
  · rw [if_neg hf]
    unfold freshRaise
    dsimp only
    by_cases hq : s.wouldBeQuiet p = true
    · rw [if_pos hq]
      have hu := quietRaise_taken time h
      exact ⟨fun e => absurd e hf, fun _ _ => hu.1,
        fun _ e => absurd (hq.symm.trans e) (by decide), hu.2.1, hu.2.2⟩
    · rw [if_neg hq]
      have hu := annunciate_taken time h
      exact ⟨fun e => absurd e hf, fun _ e => absurd e hq, fun _ _ => hu.1, hu.2.1, hu.2.2⟩

/-! ## Acknowledgement and returns -/

theorem acknowledged_active (p : Point) (a : AckRecord) : (p.acknowledged a).active = p.active := by
  have hs : (p.acknowledged a).state.inAlarm = p.state.inAlarm := by
    unfold Point.acknowledged
    cases p.state <;> first | rfl | (dsimp only; split <;> rfl)
  exact congrArg (p.inService && ·) hs

/-- The engine acknowledges a point: no other point and no group changes (R35). -/
theorem acknowledge_point {s : State} {i : Nat} {p : Point} (a : AckRecord) (h : s.point i = some p) :
    (acknowledge s i p a).point i = some (p.acknowledged a) ∧
    OtherPointsSame s (acknowledge s i p a) i ∧
    OnlyChanges [.points, .records, .queues] s (acknowledge s i p a) := by
  have hq := setPoint_point_of h (p.acknowledged a)
  have hc := handOn_same_changes (old := p) {} hq (acknowledged_active p a)
  refine ⟨?_, fun j e => ?_, ((setPoint_changes _ _ _).mono (by decide)).trans (hc.mono (by decide))⟩
  · exact (hc.at_point i).trans hq
  · exact (hc.at_point j).trans (setPoint_point_ne _ _ e)

theorem returned_active (p : Point) (t : Time) (b : Bool) : (p.returned t b).active = true → p.active = true := by
  have hs : (p.returned t b).state.inAlarm = false ∨ p.state.inAlarm = true := by
    cases h : p.state with
    | normal => left; simp [Point.returned, Point.returnState, h, AlarmState.inAlarm]
    | unackActive => right; rfl
    | ackActive => right; rfl
    | unackReturned => left; simp [Point.returned, Point.returnState, h, AlarmState.inAlarm]
    | latched => left; simp [Point.returned, Point.returnState, h, AlarmState.inAlarm]
  intro h
  have h1 : (p.inService && (p.returned t b).state.inAlarm) = true := h
  rw [Bool.and_eq_true] at h1
  show (p.inService && p.state.inAlarm) = true
  rcases hs with hs | hs
  · exact absurd (h1.2.symm.trans hs) (by decide)
  · rw [h1.1, hs]
    rfl

/-- The end of shelving leaves the activity of a point as it was (R49). -/
theorem unshelved_active (p : Point) : p.unshelved.active = p.active := rfl

/-- With its condition standing, the end of shelving clears SHELVED and nothing else of a point (R49). -/
theorem unshelved_of_standing {p : Point} (h : p.cond = .isTrue) :
    p.unshelved = { p with shelved := false } := by
  unfold Point.unshelved
  rw [if_neg]
  rintro ⟨e, _⟩
  exact absurd (h.symm.trans e) (by decide)

theorem releases_of_handOn (s : State) (i : Nat) (old : Point) (c : Change) (q : Point) :
    OnlyReleases s (handOn (s.setPoint i q) i old c) i := by
  intro j e
  have := handOn_point (s.setPoint i q) i j old c
  rw [setPoint_point_ne _ _ e] at this
  exact this

/-- The engine takes a return (R33, R49). -/
theorem engineReturn_taken {s : State} {i : Nat} {p : Point} (t : Time) (b : Bool) (h : s.point i = some p)
    (ha : ∀ g x, p.cfg.headOf = some g → s.group g = some x → i ∉ x.members) :
    (engineReturn s i t b).point i = some (p.returned t b) ∧ OnlyReleases s (engineReturn s i t b) i ∧
    HeadHasFallen s (engineReturn s i t b) i p (p.returned t b) := by
  have hq := setPoint_point_of h (p.returned t b)
  unfold engineReturn
  rw [h]
  dsimp only
  split
  · rename_i hb
    have hst : (p.returned t b).state = p.state := congrArg PointBody.state hb
    have hact : (p.returned t b).active = p.active := by
      show (p.inService && (p.returned t b).state.inAlarm) = (p.inService && p.state.inAlarm)
      rw [hst]
    refine ⟨hq, fun j e => .inl (setPoint_point_ne _ _ e), fun g x _ h1 h2 => ?_, fun g _ => rfl⟩
    rw [hact, h1] at h2
    exact absurd h2 (by decide)
  · have hf := handOn_falling (old := p) {} hq rfl (returned_active p t b)
    exact ⟨handOn_self {} hq (.inl ha), releases_of_handOn _ _ _ _ _, hf.of_setPoint⟩

end Sys2Proof.Machine
end

