-- ==== Sys2Proof/Tests/Slice0.lean ====
section
/-! SUPPORT. Tests: what WellFormed refuses, a few commands on a small running device, and for every
statement with hypotheses a state and operands that meet them. -/

namespace Sys2Proof.Tests

-- One test after another: each kernel evaluation otherwise holds a thread of its own.
set_option Elab.async false

open Machine

/-! ## WellFormed -/

/-- A body of 251 bytes. -/
def longBody : Body := List.replicate 251 0#8

theorem test_wf_body_refused : WellFormed (.login 0 0 longBody) = false := by decide +kernel
theorem test_wf_body_taken : WellFormed (.login 0 0 [1#8, 2#8]) = true := by decide +kernel
theorem test_wf_badFrame_sound_refused : WellFormed (.badFrame 3 (sendBytes 0x03#8 7#8 [])) = false := by
  decide +kernel
theorem test_wf_badFrame_fetch_refused : WellFormed (.badFrame 3 [0xA5#8]) = false := by decide +kernel
theorem test_wf_badFrame_taken : WellFormed (.badFrame 3 [0x5A#8, 0x03#8]) = true := by decide +kernel
theorem test_wf_unknown_in_catalogue_refused :
    WellFormed (.unknownRequestKind 0 0x01#8 0 []) = false := by decide +kernel
theorem test_wf_unknown_long_refused :
    WellFormed (.unknownRequestKind 0 0x7F#8 0 longBody) = false := by decide +kernel
theorem test_wf_unknown_taken : WellFormed (.unknownRequestKind 0 0x7F#8 0 []) = true := by decide +kernel
theorem test_wf_overrun_refused : WellFormed (.overrun 0 0x01#8 0 longBody) = false := by decide +kernel
theorem test_wf_point_refused : WellFormed (.pendingExpiry 2048) = false := by decide +kernel
theorem test_wf_point_taken : WellFormed (.pendingExpiry 2047) = true := by decide +kernel
theorem test_wf_badge_refused : WellFormed (.credentialExpired 0) = false := by decide +kernel
theorem test_wf_cycles_refused : WellFormed (.timeReferenceTick 0) = false := by decide

/-! ## Frames -/

/-- The check value of the CRC the spec names: 29B1h over the nine digits. -/
theorem test_crc : crc16 [0x31#8, 0x32#8, 0x33#8, 0x34#8, 0x35#8, 0x36#8, 0x37#8, 0x38#8, 0x39#8] =
    0x29B1#16 := by decide +kernel
theorem test_frame_read_back :
    parseTransaction (sendBytes 0x10#8 5#8 [0#8, 7#8, 0#8, 1#8]) =
      .send 0x10#8 5#8 [0#8, 7#8, 0#8, 1#8] := by decide +kernel

/-! ## A small running device -/

/-- A point's configuration in area 0 on channel 3. -/
def cfgA : PointCfg :=
  { area := 0, channel := 3, kind := .high, limit := 100#16, deadband := 10, priority := 1
    mode := .standard, onDelay := 0, offDelay := 0, chatterGap := 50, group := none, headOf := none }

/-- Points: 5 in alarm and not acknowledged, 6 latched, 7 shelved with its condition standing, 8 out of
service with its condition standing, 9 with a pending raise, 10 acknowledged with a pending return, the
head of group 0, 11 a suppressed member of group 0, 12 at rest. -/
def pointsA : List (Nat × Point) :=
  let rest := Point.fresh cfgA
  let raised : Point :=
    { rest with
      cond := .isTrue, lastKnown := some true, delivered := true, occ := 1
      stamp := some { elapsed := 400, mill := 400 } }
  [(5, { raised with state := .unackActive, raiseSerial := 1 }),
   (6, { rest with cfg := { cfgA with mode := .latching }, state := .latched, occ := 1, acked := true }),
   (7, { raised with state := .ackActive, shelved := true }),
   (8, { rest with inService := false, cond := .isTrue }),
   (9, { rest with cond := .isTrue, pendingPart := some { raise := true, expiry := 990 } }),
   (10, { raised with
          cfg := { cfgA with headOf := some 0 }, state := .ackActive, acked := true, cond := .isFalse
          pendingPart := some { raise := false, expiry := 995 } }),
   (11, { raised with cfg := { cfgA with group := some 0 }, state := .ackActive, suppressed := true }),
   (12, rest)]

def sessionOf (b : Badge) (role : Fin 8) : Session :=
  { presence := .active, badge := b, role := role, loginMill := 0, lastInteraction := 900
    idleExpiry := 3900, absentExpiry := 9900 }

def deskOf (b : Badge) (role : Fin 8) : DeskState :=
  { session := some (sessionOf b role), failures := [], lockout := none }

def goodPort : PortState :=
  { slot := none, overrun := false, link := .good, lastHeard := some 900, liveness := some 5000 }

/-- A role with every permission in every area and these rights. -/
def roleOf (rights : Byte) : Role := { perms := .replicate 16 0x1F#8, rights := rights }

def areaOwned (o : Option Party) (a : Attendance) (l : Option RecordIdx) : Option AreaRecord :=
  some { nameIndex := 7#8, owner := o, attendance := a, link := l }

/-- A device RUNNING at elapsed time 1000. Console 0 holds badge 1, console 1 badge 2, the supervisor port
badge 9. Area 0 is owned by console 0, area 1 by nobody, area 2 by console 0. -/
def base : State :=
  { State.reset with
    elapsed := 1000, dev := .running
    roles := #v[roleOf 0#8, roleOf 7#8, roleOf 0#8, roleOf 0#8, roleOf 0#8, roleOf 0#8, roleOf 0#8,
      roleOf 0#8]
    reach := .replicate 6 0xFFFF#16
    portCfg := .replicate 7 { enabled := true, hornFloor := 2, idleLimit := 300, absentLimit := 900 }
    channels := [(3, { kind := .analog, value := 150#16, quality := .good, lastReport := some 990 })]
    points := pointsA
    serial := 1
    shelf := [{ point := 7, badge := 1, desk := 0, expiry := 980, reason := 4#8 }]
    groups := State.reset.groups.set 0
      (some { head := 10, members := [11], state := .blocking, delay := 0, expiry := none, owed := [] })
    loadExpiry := some 1000
    sweep := { running := true, passStart := 900, period := 80, size := 8, position := 0
               firstPass := false }
    desks := #v[deskOf 1 0, deskOf 2 0, .fresh, .fresh, .fresh, .fresh, deskOf 9 1]
    map := State.reset.map.set 0 (areaOwned (some ⟨0, 1⟩) .attended none) |>.set 1
      (areaOwned none .covered none) |>.set 2 (areaOwned (some ⟨0, 1⟩) .attended none)
    creds := setWay (setWay (setWay State.reset.creds (rowOf 1) 0
        (some { badge := 1, check := 0xABCD#16, role := 0, temporary := none })) (rowOf 2) 0
        (some { badge := 2, check := 0xABCD#16, role := 0, temporary := some (1000, 9) })) (rowOf 3) 0
        (some { badge := 3, check := 0xABCD#16, role := 0, temporary := none })
    ports := .replicate 9 goodPort
    gateways := #v[{ health := .good, history := [], doubtExpiry := none, role := .primary, refresh := false },
      { health := .good, history := [], doubtExpiry := none, role := .secondary, refresh := false }] }

theorem operator0 : Operator base 0 (sessionOf 1 0) := ⟨⟨by decide, rfl, by decide⟩, by decide⟩
theorem operator1 : Operator base 1 (sessionOf 2 0) := ⟨⟨by decide, rfl, by decide⟩, by decide⟩
theorem supervisor6 (r : Right) : Supervisor base (sessionOf 9 1) r :=
  ⟨⟨⟨by decide, rfl, by decide⟩, by decide⟩, by cases r <;> decide⟩

theorem mayAct (perm : Permission) (i : Nat) (p : Point) (h : base.point i = some p)
    (ha : p.cfg.area = 0) : MayActOn base 0 (sessionOf 1 0) perm i p :=
  ⟨operator0, h, by rw [ha]; cases perm <;> decide, by rw [ha]; decide +kernel⟩

/-! ## Commands on it -/

/-- What a command leaves. -/
def after1 (c : Instr) (s : State) : State :=
  match exec c s with
  | .next t => t
  | .fault _ => s
  | .refused _ => s

theorem test_ack : (after1 (.ackPoint 0 1 [0#8, 5#8, 0#8, 1#8]) base).pointState 5 = .ackActive := by
  decide +kernel
theorem test_reset : (after1 (.resetPoint 0 1 [0#8, 6#8]) base).pointState 6 = .normal := by
  decide +kernel
theorem test_unshelve_raises :
    (after1 (.unshelve 0 1 [0#8, 7#8]) base).pointState 7 = .unackActive := by decide +kernel
theorem test_return_to_service_raises :
    (after1 (.returnToService 0 1 [0#8, 8#8]) base).pointState 8 = .unackActive := by decide +kernel
theorem test_pending_raise : (after1 (.pendingExpiry 9) base).pointState 9 = .unackActive := by
  decide +kernel
theorem test_head_returns_and_releases :
    ((after1 (.pendingExpiry 10) base).point 11).map (·.suppressed) = some false := by decide +kernel
theorem test_load_after_raise : ((after1 (.pendingExpiry 9) base).load 0).load = 64 := by
  decide +kernel
theorem test_claim : (after1 (.claimArea 1 1 [1#8]) base).owner 1 = some ⟨1, 2⟩ := by decide +kernel
theorem test_offer : ((after1 (.offer 0 1 [0#8, 1#8, 1#8]) base).record 0).map (·.areas) = some 1#16 := by
  decide +kernel
theorem test_silent_session_ends : ((after1 (.livenessExpiry 1) { base with elapsed := 5000 }).desk 1).session =
    none := by decide +kernel
theorem test_heartbeat_primary :
    ((after1 (.heartbeat 7 1 []) base).port 7).slot.map (·.reply.detail) = some [1#8, 1#8] := by
  decide +kernel
theorem test_channel_report :
    ((after1 (.channelReport 7 1 [0#8, 3#8, 0#8, 50#8, 1#8]) base).channel 3).map (·.value) =
      some 50#16 := by decide +kernel

/-- A latched member of a blocking group that has just returned: its raise is folded, and quiet by R61. -/
def foldingState : State :=
  base.setPoint 12 { Point.fresh { cfgA with group := some 0, mode := .latching } with
    state := .latched, acked := true, occ := 1, lastReturn := some 990 }

theorem test_quiet_fold_noted :
    (((after1 (.channelReport 7 1 [0#8, 3#8, 0#8, 150#8, 1#8]) foldingState).queue 0).entries.filterMap
      (fun n => match n.body with
        | .point b => if b.point = 12 then some (b.noted, b.suppressed, b.occ) else none
        | _ => none)) = [(true, true, 1#16)] := by decide +kernel
theorem test_relocate_burst : ((after1 (.relocate 6 1 [0#8, 1#8, 1#8]) base).queue 1).entries.map
    Notice.point? = [some 6, some 8, some 5, some 7, some 10, some 11, none] := by decide +kernel
theorem test_relocate_entry :
    ((after1 (.relocate 6 1 [0#8, 1#8, 1#8]) base).journal.entries.getLast?).map
      (fun e => (e.kind, e.detail)) = some (.relocate, detail16 0#8 1#8 6#16) := by decide +kernel
theorem test_fetch_padding :
    (after1 (.fetch (0, 8)) base).shiftedOut[(0 : Port)] = emptyFrame ++ [0#8, 0#8] := by decide +kernel
theorem test_fetch_cut : (after1 (.fetch (0, 2)) base).shiftedOut[(0 : Port)] = emptyFrame.take 2 := by
  decide +kernel
theorem test_sweep_after_reset : (after1 .passEnd State.reset).sweep = .atRest := by decide +kernel
theorem test_interaction_expiries :
    ((actingAt base 0).desk 0).session.map (fun x => (x.idleExpiry, x.absentExpiry)) =
      some (4000, 10000) := by decide +kernel
theorem test_heard : ((heardAt State.reset 7).port 7).liveness = some 51 ∧
    ((heardAt State.reset 0).port 0).liveness = some 201 ∧
    ((heardAt State.reset 7).gateway 0).health = .good := by decide +kernel

/-! ## Witnesses: transactions -/

/-- The device with gateway 0 in this state. -/
def withGateway (x : GatewayState) : State := base.setGateway 0 x

def doubtful (h : List Time) : GatewayState :=
  { health := .doubt, history := h, doubtExpiry := some 1000, role := .primary, refresh := false }

def failedGateway : GatewayState :=
  { health := .failed, history := [], doubtExpiry := none, role := .secondary, refresh := false }

/-- The device with this answer slot at a port. -/
def withSlot (p : Port) (a : Option Answer) : State := base.setPort p { goodPort with slot := a }

def anAnswer : Answer := { kind := 0x03#8, tag := 1, reply := done [] [] }

theorem witness_BadFrameDiscarded_bytes : parseTransaction [0x5A#8] = .bad := by decide
theorem witness_BadFrameDiscarded_absent : (State.reset.gateway 0).health = .absent := by decide
theorem witness_BadFrameDiscarded_good : (base.gateway 0).health = .good := by decide
theorem witness_BadFrameDiscarded_second :
    ((withGateway (doubtful [950])).gateway 0).health = .doubt ∧
    (([950] : List Time).filter (fun b => age 1000 b ≤ 99) ++ [1000]).length < 3 := by decide
theorem witness_BadFrameDiscarded_third :
    ((withGateway (doubtful [901, 950])).gateway 0).health = .doubt ∧
    3 ≤ (([901, 950] : List Time).filter (fun b => age 1000 b ≤ 99) ++ [1000]).length := by decide
theorem witness_BadFrameDiscarded_forgotten :
    ((withGateway (doubtful [900, 950])).gateway 0).health = .doubt ∧
    (([900, 950] : List Time).filter (fun b => age 1000 b ≤ 99) ++ [1000]).length < 3 := by decide
theorem witness_BadFrameDiscarded_failed :
    ((withGateway failedGateway).gateway 0).health = .failed := by decide
theorem witness_OverrunAndUnknownKind_overrun :
    (heardAt (withSlot 0 (some anAnswer)) 0).deaf 0 = false ∧
    ((heardAt (withSlot 0 (some anAnswer)) 0).port 0).slot.isSome = true := by decide +kernel
theorem witness_OverrunAndUnknownKind_unknown :
    kindOf 0x7F#8 = none ∧ (heardAt base 0).deaf 0 = false ∧
    ((heardAt base 0).port 0).slot = none := by decide +kernel
theorem witness_OverrunAndUnknownKind_gateway :
    (heardAt base 7).deaf 7 = false ∧ ((heardAt base 7).port 7).slot = none := by decide +kernel
theorem witness_FetchTakesFirstWaiting_answer :
    ((heardAt (withSlot 0 (some anAnswer)) 0).port 0).slot = some anAnswer := by decide +kernel
theorem witness_FetchTakesFirstWaiting_resync :
    ((heardAt (base.setQueue 0 { entries := [], resync := true }) 0).port 0).slot = none ∧
    ((heardAt (base.setQueue 0 { entries := [], resync := true }) 0).queue 0).resync = true := by
  decide +kernel
theorem witness_FetchTakesFirstWaiting_entry :
    ((heardAt (base.setQueue 0 { entries := [{ cls := 1, body := .timeSet 0 1 }], resync := false })
      0).queue 0).entries = [{ cls := 1, body := .timeSet 0 1 }] := by decide +kernel
theorem witness_FetchTakesFirstWaiting_empty :
    ((heardAt base 0).queue 0).entries = [] ∧ ((heardAt base 0).queue 0).resync = false := by
  decide +kernel
theorem witness_FetchTakesFirstWaiting_failed :
    ((beginTransaction (withGateway failedGateway) 7 .fetch).gateway 0).health = .failed := by
  decide +kernel
theorem witness_FetchTakesFirstWaiting_refresh :
    let s := withGateway
      { health := .good, history := [], doubtExpiry := none, role := .primary, refresh := true }
    ((beginTransaction s 7 .fetch).gateway 0).health ≠ .failed ∧
    ((beginTransaction s 7 .fetch).port 7).slot = none ∧
    ((beginTransaction s 7 .fetch).gateway 0).refresh = true := by decide +kernel
theorem witness_FetchTakesFirstWaiting_clocked :
    clockedOut emptyFrame 0 = [] ∧ clockedOut emptyFrame 8 = emptyFrame ++ [0#8, 0#8] ∧
    emptyFrame.length = 6 := by decide +kernel
theorem witness_LinkResetClearsThePort :
    base.dev = .running ∧ (0 : Port) = deskPort 0 ∧ (7 : Port) = gatewayPort 0 ∧
    ((withGateway failedGateway).gateway 0).health = .failed ∧ (base.gateway 0).health ≠ .failed := by
  decide
theorem witness_SentFrameIsReadBack : (List.replicate 250 0#8 : Body).length ≤ maxBody := by decide +kernel
theorem witness_DispatchRefuses_gateway :
    (heardAt base 7).deaf 7 = false ∧ ((heardAt base 7).port 7).slot = none ∧
    (7 : Port) = gatewayPort 0 := by decide +kernel
theorem witness_DispatchRefuses_desk :
    (heardAt base 0).deaf 0 = false ∧ ((heardAt base 0).port 0).slot = none ∧
    (0 : Port) = deskPort 0 := by decide +kernel
theorem witness_DispatchRefuses_disabled : (heardAt State.reset 0).enabled 0 = false := by decide +kernel
theorem witness_DispatchRefuses_notRunning :
    (heardAt State.reset 6).enabled 6 = true ∧ (heardAt State.reset 6).dev ≠ .running := by
  decide +kernel
theorem witness_DispatchRefuses_noSession : Taking base 2 ∧ (base.desk 2).session = none :=
  ⟨⟨by decide, rfl, by decide⟩, by decide⟩

/-- For each kind of operator request a body, at an end of its range where it has one, that passes the checks
before the session check at port 2, which holds no session. -/
def sessionBodies : List (Kind × Body) :=
  let record : List Byte := [7#8, 0#8, 5#8]
  [(.logout, []), (.present, []), (.silence, []), (.swapGateways, []), (.restart, []),
   (.restartToLoad, []), (.endSession, [0xFF#8]), (.revoke, be32 0), (.timeSet, be32 0),
   (.grant, be32 1 ++ be16 0 ++ [7#8] ++ be32 0), (.ackPoint, [0#8, 12#8, 0#8, 0#8]),
   (.resetPoint, [0#8, 5#8]), (.unshelve, [0#8, 5#8]), (.returnToService, [0#8, 5#8]),
   (.setOutOfService, [0#8, 5#8, 0#8]), (.shelve, [0#8, 5#8] ++ be32 1 ++ [0#8]),
   (.ackArea, 2#8 :: be32 0), (.queryList, [0#8, 7#8, 0xFF#8]), (.readJournal, [1#8]),
   (.readJournal, [8#8]), (.claimArea, [2#8]), (.releaseArea, [0#8]), (.relocate, [0#8, 7#8, 5#8]),
   (.offer, [0#8, 1#8, 0xFF#8]), (.offer, [0#8, 1#8, 5#8]), (.accept, record), (.decline, record),
   (.withdraw, record), (.take, record), (.coSign, record), (.forceCommit, record),
   (.forceWithdraw, record), (.confirmItem, record ++ [0#8, 0#8, 0#8]),
   (.confirmPage, record ++ [0#8, 1#8] ++ be32 0), (.confirmPage, record ++ [0#8, 16#8] ++ be32 0),
   (.queryItems, record ++ [0#8]), (.editPoint, [0#8, 5#8] ++ List.replicate 19 0#8),
   (.editParameters, [28#8, 1#8] ++ be32 0), (.editParameters, [32#8, 14#8] ++ List.replicate 56 0#8),
   (.editParameters, [0#8, 16#8] ++ List.replicate 64 0#8)]

theorem witness_DispatchRefuses_bodies : sessionBodies.all (fun e =>
    reachesSession base 2 e.1 e.2 && decide (e.2.length ≤ maxBody)) = true := by decide +kernel
theorem test_no_session : sessionBodies.all (fun e =>
    ((after1 (requestCommand e.1 2 1 e.2) base).port 2).slot ==
      some { kind := e.1.code, tag := 1, reply := refuse .noSession }) = true := by decide +kernel
theorem test_before_session :
    reachesSession base 2 .editParameters ([29#8, 1#8] ++ be32 0) = false ∧
    reachesSession base 2 .confirmPage ([7#8, 0#8, 5#8, 0#8, 17#8] ++ be32 0) = false ∧
    reachesSession base 2 .offer [0#8, 1#8, 2#8] = false ∧
    reachesSession base 2 .queryList [0#8, 8#8, 0#8] = false := by decide +kernel

/-! ## Witnesses: invariants -/

/-- A state other than the reset state, in which the invariants are easy to see. -/
def later : State := { State.reset with elapsed := 5, serial := 3 }

theorem later_step : step later = .next later := rfl
theorem witness_EveryStepSettlesLines : LinesSettled later := by
  unfold LinesSettled
  decide +kernel
theorem witness_EveryStepSettlesLines_lines : LinesSettled (settle base) ∧
    (settle base).horns[(0 : Desk)] = true ∧ (settle base).horns[(1 : Desk)] = false ∧
    (settle base).horns[supervisor] = false ∧ (settle base).attention[(0 : Port)] = false :=
  ⟨rfl, by decide +kernel, by decide +kernel, by decide +kernel, by decide +kernel⟩

/-- The device with point 5 escalated, console 0 silenced up to serial 1, and area 0 without its owner. -/
def uncovered : State :=
  (base.setPoint 5 { Point.fresh cfgA with
    state := .unackActive, raiseSerial := 1, escalated := true, escSerial := some 2 }).setMark 0 1

theorem test_horns :
    uncovered.hornLine 0 = false ∧ uncovered.hornLine supervisor = true ∧
    (uncovered.setMark supervisor 2).hornLine supervisor = false ∧
    { uncovered with dev := .loading }.hornLine supervisor = false ∧
    (uncovered.setPort 6 { goodPort with link := .silent }).hornLine supervisor = false := by
  decide +kernel
theorem test_attention :
    (withGateway { doubtful [] with refresh := true }).attentionLine 7 = true ∧
    (withGateway { failedGateway with refresh := true }).attentionLine 7 = false ∧
    (base.setQueue 0 { entries := [], resync := true }).attentionLine 0 = true := by decide +kernel
theorem witness_EveryStepKeepsCapacity : WithinCapacity later :=
  have h : ∀ d, (later.queue d).entries = [] := by decide +kernel
  have hr : ∀ i, later.record i = none := by decide +kernel
  ⟨fun d => ⟨by rw [h]; exact Nat.zero_le _, by rw [h]; exact .nil, by rw [h]; exact .nil⟩,
    by decide, by decide, by decide +kernel, by decide +kernel, fun i r e => by simp [hr i] at e⟩
theorem witness_EveryStepKeepsPointsSound : PointsSound later ∧ ShelfAgrees later :=
  ⟨fun i p e => by simp [later, State.reset, State.point, tableGet] at e,
    ⟨fun i p e => by simp [later, State.reset, State.point, tableGet] at e, by decide, .nil⟩⟩
theorem witness_EveryStepKeepsPointsSound_order :
    ShelfInOrder base ∧ ParamsInRange base ∧ step base = .next base ∧
    (∀ e ∈ base.shelf, (((base.refCycles.val + 100 * (2 ^ 30 - 20)) / 100 : Nat) : Int) ≤
      base.tenthsTo e.expiry + 2 ^ 30) :=
  ⟨⟨by simp [base], by decide +kernel⟩, by unfold ParamsInRange; decide +kernel, rfl,
    by decide +kernel⟩
theorem later_map (a : Area) : later.area a = none := by revert a; decide +kernel
theorem witness_EveryStepDerivesAttendance : AttendanceDerived later :=
  fun a r e => by simp [later_map] at e
theorem witness_EveryStepDerivesAttendance_table :
    base.deriveAttendance (some ⟨0, 1⟩) = .attended ∧ base.deriveAttendance (some ⟨0, 2⟩) = .covered ∧
    (base.setPort 0 { goodPort with link := .silent }).deriveAttendance (some ⟨0, 1⟩) = .covered ∧
    (base.setDesk supervisor .fresh).deriveAttendance none = .unattended := by decide +kernel
theorem witness_EveryStepHoldsFloodedRecords : HoldFollowsCauses later :=
  fun i r e => by
    have h : ∀ i, later.record i = none := by decide +kernel
    simp [h i] at e
theorem witness_EveryStepKeepsTables : TablesRise later ∧ HeadsApart later :=
  ⟨⟨List.Pairwise.nil, List.Pairwise.nil, fun k => by
      have h : ∀ k : Fin 9, later.staged.tables[k] = [] := by decide +kernel
      unfold KeysRise
      rw [h k]
      exact .nil⟩,
    fun i p g x e => by simp [later, State.reset, State.point, tableGet] at e⟩
theorem witness_EveryStepKeepsTables_blocked : SuppressedBlocked later ∧ UnloadedIsBare State.reset :=
  ⟨⟨fun i p g e => by simp [later, State.reset, State.point, tableGet] at e,
    fun i p e => by simp [later, State.reset, State.point, tableGet] at e⟩, fun _ => ⟨rfl, rfl⟩⟩
theorem witness_EveryStepKeepsBadgesApart : SessionsApart later ∧ CredentialsPlaced later :=
  ⟨fun d e x y h => by
      have hd : ∀ d, (later.desk d).session = none := by decide +kernel
      simp [hd d] at h,
    fun row w c h =>
      have hc : ∀ (row : Fin 64) (w : Fin 4), later.creds[row][w] = none := by decide +kernel
      absurd (h.symm.trans (hc row w)) (by simp)⟩
theorem witness_EveryStepKeepsLoadsAgreeing : LoadsAgree later ∧ ParamsInRange later :=
  ⟨⟨by decide, fun a h => by simp [later_map] at h⟩, by unfold ParamsInRange; decide +kernel⟩

/-! ## Witnesses: rules of one operation -/

theorem witness_LoadStateFollowsTable : thresholdsOrdered State.reset.params = true := by decide

def n1 : Notice := { cls := 2, body := .timeSet 0 1 }
def pt (cls : Nat) (i : Nat) : Notice :=
  { cls := cls, body := .point (Point.body i (Point.fresh cfgA) false false) }

theorem witness_NoticeReachesQueue_room : QueueLegal 2 { entries := [n1], resync := false } ∧
    ∀ e ∈ [n1], sameSubject n1 e = false := ⟨⟨by decide, by decide, by decide⟩, by decide⟩
theorem witness_NoticeReachesQueue_inPlace : QueueLegal 2 { entries := [pt 1 5, n1], resync := false } ∧
    sameSubject (pt 1 5) (pt 1 5) = true ∧ sameSubject (pt 3 5) (pt 1 5) = true ∧
    (pt 1 5).cls ≠ (pt 3 5).cls :=
  ⟨⟨by decide, by decide, by decide⟩, by decide, by decide, by decide⟩
theorem witness_NoticeReachesQueue_full : QueueLegal 2 { entries := [pt 1 5, n1], resync := false } ∧
    (∀ e ∈ [pt 1 5, n1], sameSubject (pt 2 6) e = false) ∧ (pt 2 6).cls ≤ n1.cls ∧
    n1.cls < (pt 3 6).cls := ⟨⟨by decide, by decide, by decide⟩, by decide, by decide, by decide⟩
theorem witness_EntryReachesJournal_full : ∃ (j : Journal) (o : JournalEntry) (rest : List JournalEntry),
    j.entries = o :: rest ∧ j.entries.length = 256 ∧ j.gap = 65535 :=
  let e : JournalEntry :=
    { mill := 0, kind := .ack, port := none, badge := none, area := none, point := none, occ := 0
      detail := 0 }
  ⟨{ entries := e :: List.replicate 255 e, gap := 65535 }, e, List.replicate 255 e, rfl,
    by rw [List.length_cons, List.length_replicate], rfl⟩
theorem witness_NoticeReachesItsPorts :
    base.dev = .running ∧ base.enabled 0 = true ∧ (base.port (deskPort 0)).link = .good ∧
    ((base.setPort 0 { goodPort with link := .silent }).port (deskPort 0)).link = .silent ∧
    State.reset.enabled 0 = false := by decide

theorem witness_NoticeReachesItsPorts_items :
    base.pointNames 0 false 0 = true ∧ base.pointNames 1 false 6 = true ∧
    base.pointNames 0 true 6 = true ∧ base.pointNames 0 false 1 = false ∧
    base.areaNoticeNames 0 none 5 = true ∧ base.routed 0 false 0 = true := by decide +kernel
theorem test_system_and_session_notices :
    (sessionNotice base 1 2 none .logout).queue 1 ≠ base.queue 1 ∧
    (sessionNotice base 1 2 none .logout).queue 0 = base.queue 0 ∧
    (timeSetNotice base 0 1).queue 5 = { entries := [{ cls := 1, body := .timeSet 0 1 }], resync := false } ∧
    (lockoutNotice base 2 5).queue 2 = base.queue 2 ∧
    (gatewayNotice base).queue supervisor ≠ base.queue supervisor := by decide +kernel
theorem witness_NoticeReachesItsPorts_announce : ∃ p r, base.point 5 = some p ∧
    base.area 0 = some r ∧ (announce base 5 {}).queue 0 ≠ base.queue 0 ∧
    (announce base 5 { withheld := true }).queue 0 = base.queue 0 :=
  ⟨_, _, rfl, rfl, by decide +kernel, by decide +kernel⟩

/-! ## Witnesses: sessions and credentials -/

/-- The device with this credential table entry for badge 3, which holds no session. -/
theorem credential3 : base.credential 3 = some
    { badge := 3, check := 0xABCD#16, role := 0, temporary := none } := by decide +kernel

theorem witness_LoginOpensSession :
    Taking base 2 ∧ (base.desk 2).session = none ∧ (base.desk 2).lockout = none ∧
    base.credential (read32 0#8 0#8 0#8 3#8) = some
      { badge := 3, check := 0xABCD#16, role := 0, temporary := none } ∧
    (0xABCD#16 : Word16) = read16 0xAB#8 0xCD#8 ∧ base.sessionOf 3 = none ∧ (2 : Desk) ≠ supervisor :=
  ⟨⟨by decide, rfl, by decide⟩, by decide, by decide, by decide +kernel, by decide, by decide +kernel,
    by decide⟩

/-- The device with this record of desk 2. -/
def withDesk2 (x : DeskState) : State := base.setDesk 2 x

theorem witness_LoginFailuresLockPort_fails :
    Taking base 2 ∧ (base.desk 2).session = none ∧ (base.desk 2).lockout = none ∧
    ∀ c, base.credential (read32 0#8 0#8 0#8 3#8) = some c → c.check ≠ read16 0xAB#8 0xCE#8 :=
  ⟨⟨by decide, rfl, by decide⟩, by decide, by decide, fun c h => by
    rw [show base.credential (read32 0#8 0#8 0#8 3#8) = some
      { badge := 3, check := 0xABCD#16, role := 0, temporary := none } by decide +kernel] at h
    rw [← Option.some.inj h]
    decide⟩
theorem witness_LoginFailuresLockPort_first :
    decide (3 ≤ ((base.desk 2).failures.filter (fun f => age 1000 f < 3000) ++ [1000]).length) = false := by
  decide
theorem witness_LoginFailuresLockPort_third :
    let s := withDesk2 { session := none, failures := [800, 900], lockout := none }
    decide (3 ≤ ((s.desk 2).failures.filter (fun f => age 1000 f < 3000) ++ [1000]).length) = true := by
  decide
theorem witness_LoginFailuresLockPort_locked :
    let s := withDesk2 { session := none, failures := [800, 900, 950], lockout := some 2150 }
    Taking s 2 ∧ (s.desk 2).session = none ∧ (s.desk 2).lockout = some 2150 :=
  ⟨⟨by decide, rfl, by decide⟩, by decide, by decide⟩
theorem witness_LogoutAndEndSessionEndIt_logout :
    Operator base 1 (sessionOf 2 0) ∧ (actingAt base 1).ownedBy 1 2 = 0#16 ∧
    (actingAt base 1).inHandover 1 2 = false := ⟨operator1, by decide +kernel, by decide +kernel⟩
theorem witness_LogoutAndEndSessionEndIt_end :
    Supervisor base (sessionOf 9 1) .supervise ∧ consoleOf 1#8 = some 1 ∧
    (base.desk (consoleDesk 1)).session = some (sessionOf 2 0) :=
  ⟨supervisor6 _, by decide, by decide⟩
theorem witness_QueriesOnlyAnswer_list :
    Operator base 0 (sessionOf 1 0) ∧ base.definedArea 0#8 = some 0 ∧ (read16 7#8 0xFF#8).toNat < 2048 ∧
    (base.roleOf (sessionOf 1 0)).permits .view 0 = true ∧
    (base.reaches 0 0 || isParty 0 (base.owner 0)) = true :=
  ⟨operator0, by decide, by decide, by decide, by decide⟩

/-- Console 0's handover of area 0 to console 1 in this state. -/
def recordIn (st : HandoverState) (incoming : Option Party) : Record :=
  { number := 5, state := st, flood := false, outgoingLost := false, areas := 1#16, outgoing := ⟨0, 1⟩
    target := some 1, incoming := incoming, offerExpiry := some 1000, accumulated := 3000
    resume := if st = .overlap then some 900 else none
    limitExpiry := if st = .overlap then some 1000 else none
    coSigned := none, incomplete := false
    items := [{ point := 5, reason := .unacked, occ := 1, status := .isOpen }] }

/-- The device with a record, linked from area 0. -/
def withRecord (r : Record) : State :=
  (base.setRecord 0 (some r)).setArea 0
    { nameIndex := 7#8, owner := some ⟨0, 1⟩, attendance := .attended, link := some 0 }

def offeredState : State := withRecord (recordIn .offered none)
def overlapState : State := withRecord (recordIn .overlap (some ⟨1, 2⟩))
def heldState : State :=
  withRecord { recordIn .held (some ⟨1, 2⟩) with outgoingLost := true }

theorem operatorIn (s : State) (d : Desk) (x : Session) (h1 : (s.port (deskPort d)).slot = none)
    (h2 : s.dev = .running) (h3 : s.enabled d = true) (h4 : (s.desk d).session = some x) :
    Operator s d x := ⟨⟨h1, h2, h3⟩, h4⟩
theorem overlap1 : Operator overlapState 1 (sessionOf 2 0) :=
  operatorIn _ _ _ (by decide) rfl (by decide) (by decide)
theorem overlap0 : Operator overlapState 0 (sessionOf 1 0) :=
  operatorIn _ _ _ (by decide) rfl (by decide) (by decide)
theorem overlap6 (r : Right) : Supervisor overlapState (sessionOf 9 1) r :=
  ⟨operatorIn _ _ _ (by decide) rfl (by decide) (by decide), by cases r <;> decide⟩

theorem witness_QueriesOnlyAnswer_items : ∃ r,
    Operator overlapState 1 (sessionOf 2 0) ∧ recordOf 0#8 = some 0 ∧
    (actingAt overlapState 1).record 0 = some r ∧ r.number = read16 0#8 5#8 ∧
    (r.names 1 || (1 : Desk) == supervisor) = true :=
  ⟨recordIn .overlap (some ⟨1, 2⟩), overlap1, by decide, by decide +kernel, by decide, by decide⟩
theorem witness_QueriesOnlyAnswer_heartbeat :
    ((heardAt base (gatewayPort 0)).gateway 0).health ≠ .failed ∧
    ((heardAt base (gatewayPort 0)).port (gatewayPort 0)).slot = none := by decide +kernel
theorem witness_GrantWritesCredential :
    Supervisor base (sessionOf 9 1) .grant ∧ roleIdx 0#8 = some 0 ∧
    base.roles[0].rights &&& ~~~(base.roleOf (sessionOf 9 1)).rights = 0#8 ∧
    base.credential 77 = none ∧ (actingAt base 6).sessionOf 77 = none :=
  ⟨supervisor6 _, by decide, by decide, by decide +kernel, by decide +kernel⟩
theorem witness_GrantWritesCredential_ways :
    wayOf base.creds[rowOf 2] 2 = some 0 ∧ wayOf base.creds[rowOf 77] 77 = none ∧
    freeWay base.creds[rowOf 77] = some 0 := by decide +kernel
theorem witness_GrantWritesCredential_full :
    let c := fun (b : Badge) =>
      some ({ badge := b, check := 0, role := 0, temporary := some (5000, 9) } : Credential)
    let row : CredRow := #v[c 1, c 65, c 129, c 193]
    wayOf row 257 = none ∧ freeWay row = none := by decide
theorem witness_CredentialRemovedWithItsSession :
    (base.roleOf (sessionOf 9 1)).holds .grant = true ∧
    base.credential (read32 0#8 0#8 0#8 2#8) = some
      { badge := 2, check := 0xABCD#16, role := 0, temporary := some (1000, 9) } ∧
    reached base.elapsed 1000 = true ∧ base.sessionOf 2 = some 1 := by decide +kernel
theorem witness_CredentialRemovedWithItsSession_none :
    (base.setDesk 1 .fresh).sessionOf 2 = none := by decide +kernel
theorem witness_SessionsFade_idle :
    let s := { base with elapsed := 3900 }
    (s.desk 0).session = some (sessionOf 1 0) ∧ (sessionOf 1 0).presence = .active ∧
    reached s.elapsed (sessionOf 1 0).idleExpiry = true := by decide
theorem witness_SessionsFade_absent :
    let x := { sessionOf 1 0 with presence := .idle }
    let s := { base with elapsed := 9900 }.setDesk 0 { session := some x, failures := [], lockout := none }
    (s.desk 0).session = some x ∧ reached s.elapsed x.absentExpiry = true := by decide
theorem witness_SessionsFade_interaction :
    (base.desk 0).session = some (sessionOf 1 0) ∧ (sessionOf 1 0).presence = .active ∧
    (base.desk 2).session = none ∧ { sessionOf 1 0 with presence := .idle }.presence ≠ .active := by
  decide
theorem witness_LockoutExpires :
    let s := withDesk2 { session := none, failures := [800], lockout := some 1000 }
    (s.desk 2).lockout = some 1000 ∧ reached s.elapsed 1000 = true := by decide

/-! ## Witnesses: alarms, shelving and service -/

theorem witness_AckAndResetMovePoint_ack : ∃ p,
    MayActOn base 0 (sessionOf 1 0) .ack (read16 0#8 5#8).toNat p ∧ p.occ = read16 0#8 1#8 ∧
    p.state = .unackActive := ⟨_, mayAct _ _ _ rfl (by decide), by decide, by decide⟩
theorem witness_AckAndResetMovePoint_reset : ∃ p,
    MayActOn base 0 (sessionOf 1 0) .ack (read16 0#8 6#8).toNat p ∧ p.state = .latched :=
  ⟨_, mayAct _ _ _ rfl (by decide), by decide⟩
theorem witness_AckAreaAcknowledgesSeenPoints : ∃ p,
    Operator base 0 (sessionOf 1 0) ∧ base.definedArea 0#8 = some 0 ∧
    (base.roleOf (sessionOf 1 0)).permits .ack 0 = true ∧ (actingAt base 0).entitled 0 0 = true ∧
    TablesRise base ∧ base.point 5 = some p ∧ (actingAt base 0).ackable 0 0 400 p = true ∧
    (actingAt base 0).ackable 0 0 399 p = false :=
  ⟨_, operator0, by decide, by decide, by decide +kernel,
    ⟨by unfold KeysRise; decide, by unfold KeysRise; decide, fun k => by
      have h : ∀ k : Fin 9, base.staged.tables[k] = [] := by decide +kernel
      unfold KeysRise
      rw [h k]
      exact .nil⟩, rfl, by decide +kernel, by decide +kernel⟩
theorem witness_SilenceAndReadJournal :
    Operator base 0 (sessionOf 1 0) ∧ Supervisor base (sessionOf 9 1) .supervise ∧
    1 ≤ (1#8 : Byte).toNat ∧ (8#8 : Byte).toNat ≤ 8 := ⟨operator0, supervisor6 _, by decide, by decide⟩
theorem witness_ShelvePlacesEntry_new : ∃ p,
    MayActOn base 0 (sessionOf 1 0) .shelve (read16 0#8 12#8).toNat p ∧ p.inService = true ∧
    p.shelved = false ∧ base.shelf.length < 96 ∧ (read32 0#8 0#8 0#8 60#8).toNat ≠ 0 :=
  ⟨_, mayAct _ _ _ rfl (by decide), by decide, by decide, by decide, by decide⟩
theorem witness_ShelvePlacesEntry_limit : ∃ s : State,
    s = { base with params := base.params.set 13 600 } ∧ 0 < s.maxShelve 1 := ⟨_, rfl, by decide⟩
theorem witness_ShelvePlacesEntry_again : ∃ p,
    base.point 7 = some p ∧ p.shelved = true ∧ p.inService = true := ⟨_, rfl, by decide, by decide⟩
theorem witness_ShelvingEnds : ∃ p e,
    MayActOn base 0 (sessionOf 1 0) .shelve (read16 0#8 7#8).toNat p ∧
    base.shelf.find? (·.point == 7) = some e ∧ base.shelf = [e] ∧
    reached base.elapsed e.expiry = true ∧ base.point e.point = some p ∧
    p.cond = .isTrue ∧ p.delivered = true ∧ p.suppressed = false :=
  ⟨_, _, mayAct _ _ _ rfl (by decide), rfl, rfl, by decide, rfl, rfl, rfl, rfl⟩
/-- The device whose point 7, LATCHING, acknowledged and with its condition gone, waits for its return in this
pending part. -/
def returning (shelved marked : Bool) : State :=
  base.setPoint 7 { Point.fresh { cfgA with mode := .latching } with
    cond := .isFalse, lastKnown := some false, delivered := true, state := .ackActive, occ := 1
    acked := true, shelved := shelved
    pendingPart := some { raise := false, expiry := 1000, afterShelving := marked } }

theorem witness_ShelvingEnds_false : ∃ p, (returning true false).point 7 = some p ∧
    ¬(p.cond = .isTrue ∧ p.delivered = true ∧ p.suppressed = false) ∧ p.cond = .isFalse ∧
    p.state = .ackActive := ⟨_, rfl, by decide, by decide, by decide⟩
theorem test_unshelve_marks_return :
    ((after1 (.unshelve 0 1 [0#8, 7#8]) (returning true false)).point 7).map
      (fun p => (p.shelved, p.state, p.pendingPart.map (·.afterShelving))) =
      some (false, .ackActive, some true) := by decide +kernel
theorem test_return_after_shelving :
    (engineReturn (returning false true) 7 1000 true).pointState 7 = .normal ∧
    (engineReturn (returning false true) 7 1000 false).pointState 7 = .latched ∧
    (after1 (.pendingExpiry 7) (returning false false)).pointState 7 = .latched := by decide +kernel
theorem witness_PendingPartDelivers_afterShelving : ∃ p part, (returning false true).point 7 = some p ∧
    p.pendingPart = some part ∧ part.raise = false ∧ part.afterShelving = true ∧
    reached (returning false true).elapsed part.expiry = true ∧ p.cfg.mode = .latching ∧
    p.acked = true := ⟨_, _, rfl, rfl, rfl, rfl, by decide, rfl, rfl⟩
theorem witness_ServiceIsSet_out : ∃ p,
    MayActOn base 0 (sessionOf 1 0) .service (read16 0#8 10#8).toNat p ∧ p.inService = true :=
  ⟨_, mayAct _ _ _ rfl (by decide), by decide⟩
theorem test_out_of_service_owes :
    ((after1 (.setOutOfService 0 1 [0#8, 10#8, 0#8]) base).group 0).map (fun x => (x.state, x.owed)) =
      some (.isOpen, [11]) := by decide +kernel
theorem tableGet_mem {α : Type} {l : List (Nat × α)} {i : Nat} {p : α} (h : tableGet l i = some p) :
    (i, p) ∈ l := by
  induction l with
  | nil => simp [tableGet] at h
  | cons e rest ih =>
    obtain ⟨k, x⟩ := e
    by_cases hk : k = i
    · simp [tableGet, hk] at h
      simp [hk, h]
    · simp [tableGet, hk] at h
      exact List.mem_cons_of_mem _ (ih h)
theorem base_points_sound : PointsSound base := by
  intro i p h
  have hall : ∀ e ∈ pointsA,
      (e.2.inService = false → e.2.state = .normal ∧ e.2.delivered = false ∧ e.2.pendingPart = none) ∧
      (e.2.escalated = true → e.2.state = .unackActive) ∧ e.2.escSerial.isSome = e.2.escalated ∧
      e.2.chatterCount ≤ 15 := by decide
  have := hall _ (tableGet_mem h)
  exact ⟨this.1, this.2.1, this.2.2.1, this.2.2.2⟩
theorem witness_ServiceIsSet_return : ∃ p,
    MayActOn base 0 (sessionOf 1 0) .service (read16 0#8 8#8).toNat p ∧ p.inService = false ∧
    PointsSound base ∧ p.cond = .isTrue :=
  ⟨_, mayAct _ _ _ rfl (by decide), by decide, base_points_sound, by decide⟩
theorem witness_PendingPartDelivers_raise : ∃ p part, base.point 9 = some p ∧
    p.pendingPart = some part ∧ reached base.elapsed part.expiry = true ∧ part.raise = true :=
  ⟨_, _, rfl, rfl, by decide, by decide⟩
theorem base_heads_apart : HeadsApart base := by
  intro i p g x h h2 h3
  have hall : ∀ e ∈ pointsA, ∀ g : GroupIdx, e.2.cfg.headOf = some g →
      (base.group g).all (fun x => !x.members.contains e.1) = true := by decide +kernel
  have := hall _ (tableGet_mem h) g h2
  rw [h3] at this
  simpa using this
theorem witness_PendingPartDelivers_return : ∃ p part, base.point 10 = some p ∧
    p.pendingPart = some part ∧ reached base.elapsed part.expiry = true ∧ part.raise = false ∧
    HeadsApart base := ⟨_, _, rfl, rfl, by decide, by decide, base_heads_apart⟩
theorem witness_GroupReleases_release :
    let x : Group := { head := 10, members := [11], state := .releasing, delay := 0
                       expiry := some 1000, owed := [] }
    (base.setGroup 0 x).group 0 = some x ∧ reached base.elapsed 1000 = true := by decide +kernel
theorem witness_GroupReleases_member : ∃ p, ∃ x : Group,
    (base.setGroup 0 { head := 10, members := [11], state := .isOpen, delay := 0
                       expiry := none, owed := [11] }).group 0 = some x ∧ x.owed = [11] ∧
    base.point 11 = some p ∧ p.cond = .isTrue ∧ p.delivered = true ∧ p.shelved = false ∧
    p.inService = true := ⟨_, _, rfl, rfl, rfl, rfl, rfl, rfl, rfl⟩

/-! ## Witnesses: areas and handover -/

theorem witness_ClaimAndReleaseMoveOwner_claim :
    Operator base 1 (sessionOf 2 0) ∧ base.definedArea 1#8 = some 1 ∧
    (base.roleOf (sessionOf 2 0)).permits .take 1 = true ∧
    (base.roleOf (sessionOf 2 0)).permits .view 1 = true ∧ base.reaches 1 1 = true ∧
    (actingAt base 1).linked 1 = false ∧ base.owner 1 = none :=
  ⟨operator1, by decide, by decide, by decide, by decide, by decide +kernel, by decide⟩
theorem witness_ClaimAndReleaseMoveOwner_release :
    Supervisor base (sessionOf 9 1) .supervise ∧ base.definedArea 0#8 = some 0 ∧
    (actingAt base supervisor).linked 0 = false ∧ base.owner 0 = some ⟨0, 1⟩ :=
  ⟨supervisor6 _, by decide, by decide +kernel, by decide⟩
theorem witness_RelocateMovesAreas :
    Supervisor base (sessionOf 9 1) .supervise ∧ read16 0#8 7#8 ≠ 0#16 ∧ consoleOf 1#8 = some 1 ∧
    base.allDefined 7#16 = true ∧ base.enabled (consoleDesk 1) = true ∧
    (∀ a, inSet 7#16 a = true → (actingAt base supervisor).linked a = false) ∧
    (base.desk (consoleDesk 1)).session = some (sessionOf 2 0) ∧
    (sessionOf 2 0).presence ≠ .absent ∧
    (∀ a, inSet 7#16 a = true → (base.roleOf (sessionOf 2 0)).permits .take a = true ∧
      (base.roleOf (sessionOf 2 0)).permits .view a = true) ∧
    ((actingAt base supervisor).queue 1).entries.length + (base.listableOf 7#16).length + 16 ≤ 64 ∧
    ((actingAt base supervisor).port (deskPort 1)).link = .good :=
  ⟨supervisor6 _, by decide, by decide, by decide, by decide, by decide +kernel, by decide, by decide,
    by decide +kernel, by decide +kernel, by decide +kernel⟩
theorem test_relocate_queues :
    let s1 := actingAt base supervisor
    let t := after1 (.relocate 6 1 [0#8, 3#8, 1#8]) base
    let burst := (s1.burst 3#16).foldl (burstStep 64)
      { queue := s1.queue 1, placed := [], overflowed := false }
    t.queues = ([0, 1] : List Area).foldl
      (fun queues a => (areaNotice { t with queues := queues } a (base.owner a)).queues)
      (s1.setQueue 1 burst.queue).queues ∧
    (t.queue 0).entries.length = 2 ∧ (t.queue 1).entries.length = 8 := by decide +kernel
theorem witness_OfferMakesRecord :
    Operator base (consoleDesk 0) (sessionOf 1 0) ∧ targetOf (consoleDesk 0) 1#8 = some (some 1) ∧
    base.allDefined 5#16 = true ∧
    (∀ a, inSet 5#16 a = true → (base.roleOf (sessionOf 1 0)).permits .take a = true ∧
      base.owner a = some ⟨0, 1⟩ ∧ (actingAt base 0).attendance a = some .attended ∧
      (actingAt base 0).linked a = false) ∧
    (actingAt base 0).canReceive 5#16 (some 1) = true ∧ (actingAt base 0).freeRecord = some 0 :=
  ⟨operator0, by decide, by decide, by decide +kernel, by decide +kernel, by decide +kernel⟩
theorem offered1 : Operator offeredState (consoleDesk 1) (sessionOf 2 0) :=
  operatorIn _ _ _ (by decide) rfl (by decide) (by decide)
theorem witness_AcceptStartsOverlap : ∃ r,
    Operator offeredState (consoleDesk 1) (sessionOf 2 0) ∧ recordOf 0#8 = some 0 ∧
    (actingAt offeredState 1).record 0 = some r ∧ r.number = read16 0#8 5#8 ∧ r.state = .offered ∧
    (1 : Console) ≠ r.outgoing.console ∧ r.target = some 1 ∧
    (∀ a, inSet r.areas a = true → (offeredState.roleOf (sessionOf 2 0)).permits .take a = true ∧
      (offeredState.roleOf (sessionOf 2 0)).permits .view a = true ∧ offeredState.reaches 1 a = true) ∧
    (areasOf r.areas).any (fun a => (offeredState.load a).state == .flood) = false ∧
    r.outgoingLost = false ∧ 0 < offeredState.param 26 :=
  ⟨recordIn .offered none, offered1, by decide, by decide +kernel, by decide, by decide, by decide,
    by decide, by decide +kernel, by decide +kernel, by decide, by decide⟩
theorem witness_AcceptStartsOverlap_flood :
    let s := offeredState.setLoad 0 { load := 400, state := .flood, count := 0, summaryExpiry := none }
    (areasOf 1#16).any (fun a => (s.load a).state == .flood) = true := by decide +kernel
theorem witness_EndingsTransferNothing_decline : ∃ r,
    Operator offeredState 1 (sessionOf 2 0) ∧ recordOf 0#8 = some 0 ∧
    (actingAt offeredState 1).record 0 = some r ∧ r.number = read16 0#8 5#8 ∧
    r.target = some 1 ∧ consoleDesk 1 = 1 ∧ r.state = .offered :=
  ⟨recordIn .offered none, offered1, by decide, by decide +kernel, by decide, by decide, by decide,
    by decide⟩
theorem witness_EndingsTransferNothing_withdraw : ∃ r,
    Operator overlapState 0 (sessionOf 1 0) ∧ (actingAt overlapState 0).record 0 = some r ∧
    r.number = read16 0#8 5#8 ∧ consoleDesk r.outgoing.console = 0 ∧ r.outgoing.badge = 1 ∧
    r.state ≠ .held :=
  ⟨recordIn .overlap (some ⟨1, 2⟩), overlap0, by decide +kernel, by decide, by decide, by decide,
    by decide⟩
theorem witness_EndingsTransferNothing_force : ∃ r,
    Supervisor overlapState (sessionOf 9 1) .supervise ∧
    (actingAt overlapState supervisor).record 0 = some r ∧ r.number = read16 0#8 5#8 :=
  ⟨recordIn .overlap (some ⟨1, 2⟩), overlap6 _, by decide +kernel, by decide⟩
theorem witness_EndingsTransferNothing_offer : ∃ r, offeredState.record 0 = some r ∧
    r.state = .offered ∧ r.offerExpiry = some 1000 ∧ reached offeredState.elapsed 1000 = true :=
  ⟨recordIn .offered none, by decide, by decide, by decide, by decide⟩
theorem witness_EndingsTransferNothing_limit : ∃ r, overlapState.record 0 = some r ∧
    r.state = .overlap ∧ r.limitExpiry = some 1000 ∧ reached overlapState.elapsed 1000 = true :=
  ⟨recordIn .overlap (some ⟨1, 2⟩), by decide, by decide, by decide, by decide⟩
theorem witness_ConfirmMarksItems_item : ∃ r item p,
    Operator overlapState (consoleDesk 1) (sessionOf 2 0) ∧ recordOf 0#8 = some 0 ∧
    (actingAt overlapState 1).record 0 = some r ∧ r.number = read16 0#8 5#8 ∧ r.accepted = true ∧
    r.incoming = some ⟨1, 2⟩ ∧ r.items[(0#8 : Byte).toNat]? = some item ∧
    overlapState.point item.point = some p ∧
    (overlapState.roleOf (sessionOf 2 0)).permits .view p.cfg.area = true ∧
    item.occ = read16 0#8 1#8 ∧ item.status = .isOpen :=
  ⟨recordIn .overlap (some ⟨1, 2⟩), _, _, overlap1, by decide, by decide +kernel, by decide, by decide,
    by decide, rfl, rfl, by decide, by decide, by decide⟩
theorem witness_ConfirmMarksItems_page : ∃ r,
    (actingAt overlapState 1).record 0 = some r ∧ (0#8 : Byte).toNat < r.items.length ∧
    1 ≤ (1#8 : Byte).toNat ∧ (16#8 : Byte).toNat ≤ 16 ∧
    (∀ a, inSet r.areas a = true → (overlapState.roleOf (sessionOf 2 0)).permits .view a = true) ∧
    overlapState.itemSeen 400
      { point := 5, reason := .unacked, occ := 1, status := .isOpen } = true ∧
    overlapState.itemSeen 399
      { point := 5, reason := .unacked, occ := 1, status := .isOpen } = false :=
  ⟨recordIn .overlap (some ⟨1, 2⟩), by decide +kernel, by decide, by decide, by decide,
    by decide +kernel, by decide, by decide⟩

theorem witness_ConfirmMarksItems_follow : ∃ p r, base.point 5 = some p ∧
    overlapState.record 0 = some r ∧ offeredState.record 0 ≠ none ∧ r.accepted = true ∧
    inSet r.areas p.cfg.area = true ∧ p.listable = true ∧ (∃ item ∈ r.items, item.point = 5) ∧
    (∀ item ∈ r.items, item.point ≠ 6) ∧ r.items.length < 64 ∧ inSet r.areas 1 = false :=
  ⟨_, recordIn .overlap (some ⟨1, 2⟩), rfl, by decide, by decide, by decide, by decide, by decide,
    by decide, by decide, by decide, by decide⟩

/-- The handover with its item confirmed. -/
def readyRecord : Record :=
  { recordIn .overlap (some ⟨1, 2⟩) with
    items := [{ point := 5, reason := .unacked, occ := 1, status := .confirmed }] }
def readyState : State := withRecord readyRecord

theorem witness_CommitTransfersAreas_take :
    Operator readyState (consoleDesk 1) (sessionOf 2 0) ∧ recordOf 0#8 = some 0 ∧
    (actingAt readyState 1).record 0 = some readyRecord ∧ readyRecord.number = read16 0#8 5#8 ∧
    readyRecord.incoming = some ⟨1, 2⟩ ∧ readyRecord.state = .overlap ∧
    (∀ a, inSet readyRecord.areas a = true →
      (readyState.roleOf (sessionOf 2 0)).permits .take a = true) ∧
    10 * readyState.param 25 ≤ (actingAt readyState 1).overlap readyRecord ∧
    (∀ item ∈ readyRecord.items, item.status ≠ .isOpen) ∧ readyRecord.incomplete = false ∧
    (∀ a, inSet readyRecord.areas a = true → (readyState.load a).state ≠ .busy) ∧
    (actingAt readyState 1).loadAfter 1 readyRecord.areas ≤ readyState.param 12 :=
  ⟨operatorIn _ _ _ (by decide) rfl (by decide) (by decide), by decide, by decide +kernel, by decide,
    by decide, by decide, by decide +kernel, by decide +kernel, by decide, by decide, by decide +kernel,
    by decide +kernel⟩
theorem witness_CommitTransfersAreas_force : ∃ r,
    Supervisor overlapState (sessionOf 9 1) .supervise ∧
    (actingAt overlapState supervisor).record 0 = some r ∧ r.accepted = true ∧
    (actingAt overlapState supervisor).incomingPresent r = true ∧ r.incoming = some ⟨1, 2⟩ :=
  ⟨recordIn .overlap (some ⟨1, 2⟩), overlap6 _, by decide +kernel, by decide, by decide +kernel,
    by decide⟩

/-- A device with one record satisfies the invariant of holds when that record does. -/
theorem holdsOf (r : Record) (h : r.flood = !(withRecord r).floodFree r.areas)
    (h2 : r.state = .held ↔ r.caused = true) : HoldFollowsCauses (withRecord r) := by
  intro i q hq _
  have hi : i = 0 := by
    by_cases e : i = 0
    · exact e
    · have h0 : (withRecord r).record i = base.record i := by
        have e' : ¬0 = i.val := fun h => e (Fin.ext h.symm)
        simp [withRecord, State.record, State.setRecord, State.setArea, e']
      have h1 : ∀ i, base.record i = none := by decide +kernel
      rw [h0, h1] at hq
      exact absurd hq (by simp)
  subst hi
  have : (withRecord r).record 0 = some r := by
    simp [withRecord, State.record, State.setRecord, State.setArea]
  rw [← Option.some.inj (this.symm.trans hq)]
  exact ⟨h, h2⟩

def lostRecord (flood : Bool) (accumulated : Nat) : Record :=
  { recordIn .held (some ⟨1, 2⟩) with
    flood := flood, outgoingLost := true, accumulated := accumulated }

theorem witness_CoSignLiftsOutgoingLost_overlap : ∃ r,
    Supervisor overlapState (sessionOf 9 1) .supervise ∧ recordOf 0#8 = some 0 ∧
    (actingAt overlapState supervisor).record 0 = some r ∧ r.number = read16 0#8 5#8 ∧
    r.accepted = true ∧ r.coSigned = none ∧ HoldFollowsCauses overlapState ∧ r.state = .overlap ∧
    r.limitExpiry.isSome = true :=
  ⟨recordIn .overlap (some ⟨1, 2⟩), overlap6 _, by decide, by decide +kernel, by decide, by decide,
    by decide, holdsOf _ (by decide +kernel) (by decide), by decide, by decide⟩
theorem witness_CoSignLiftsOutgoingLost_held :
    let r := lostRecord false 26999
    let s := withRecord r
    Supervisor s (sessionOf 9 1) .supervise ∧ (actingAt s supervisor).record 0 = some r ∧
    r.accepted = true ∧ r.outgoingLost = true ∧ HoldFollowsCauses s ∧ r.state = .held ∧
    r.flood = false ∧ r.accumulated < 10 * s.param 26 :=
  ⟨⟨operatorIn _ _ _ (by decide) rfl (by decide) (by decide), by decide⟩, by decide +kernel, by decide,
    by decide, holdsOf _ (by decide +kernel) (by decide), by decide, by decide, by decide⟩
theorem witness_CoSignLiftsOutgoingLost_limit :
    let r := lostRecord false 27000
    let s := withRecord r
    (actingAt s supervisor).record 0 = some r ∧ HoldFollowsCauses s ∧ r.state = .held ∧
    r.flood = false ∧ 10 * s.param 26 ≤ r.accumulated :=
  ⟨by decide +kernel, holdsOf _ (by decide +kernel) (by decide), by decide, by decide, by decide⟩
theorem witness_CoSignLiftsOutgoingLost_others (j : RecordIdx) (q : Record) (h : j ≠ 0) :
    (actingAt (withRecord (lostRecord false 27000)) supervisor).record j ≠ some q := by
  have : ∀ j : RecordIdx, j ≠ 0 →
      (actingAt (withRecord (lostRecord false 27000)) supervisor).record j = none := by decide +kernel
  simp [this j h]
theorem witness_CoSignLiftsOutgoingLost_flood :
    (lostRecord true 0).state = .held ∧ (lostRecord true 0).flood = true ∧
    (lostRecord true 0).caused = true ∧
    ((withRecord (lostRecord true 0)).setLoad 0
        { load := 400, state := .flood, count := 0, summaryExpiry := none }).floodFree 1#16 =
      false := by decide +kernel

theorem test_coSign_expires :
    (after1 (.coSign 6 1 [0#8, 0#8, 5#8]) (withRecord (lostRecord false 27000))).journal.entries.map
      (·.kind) = [.coSign, .handoverState, .handoverEnd] := by decide +kernel
theorem test_coSign_resumes :
    (after1 (.coSign 6 1 [0#8, 0#8, 5#8]) (withRecord (lostRecord false 26999))).journal.entries.map
      (·.kind) = [.coSign, .handoverState] := by decide +kernel

/-! ## Witnesses: gateways, configuration, timers -/

theorem witness_TimeSetAndSwapGateways :
    Supervisor base (sessionOf 9 1) .supervise ∧ base.primary = some 0 ∧
    base.linkGood (gatewayPort (otherGateway 0)) = true ∧
    (base.gateway (otherGateway 0)).health = .good :=
  ⟨supervisor6 _, by decide, by decide, by decide⟩
theorem witness_ChannelReportStoresEntries_primary : ∃ entries,
    ((heardAt base 7).gateway 0).health ≠ .failed ∧ ((heardAt base 7).port 7).slot = none ∧
    base.dev = .running ∧ parseEntries [3#8, 0xFF#8, 0#8, 1#8, 2#8] = some entries ∧ entries ≠ [] ∧
    entries.length ≤ 40 ∧ ((heardAt base 7).gateway 0).role = .primary ∧
    ∀ e ∈ entries, e.channel < 1024 ∧ (e.quality = 1#8 ∨ e.quality = 2#8) :=
  ⟨[{ channel := 1023, value := 1#16, quality := 2#8 }], by decide +kernel, by decide +kernel, rfl, rfl,
    by simp, by decide, by decide +kernel, by decide⟩
theorem witness_ChannelReportStoresEntries_forty :
    ((List.replicate 40 [0#8, 3#8, 0#8, 1#8, 1#8]).flatten : Body).length ≤ maxBody ∧
    (parseEntries ((List.replicate 40 [0#8, 3#8, 0#8, 1#8, 1#8]).flatten)).map (·.length) = some 40 := by
  decide +kernel
theorem witness_ChannelReportStoresEntries_secondary :
    ((heardAt base 8).gateway 1).role ≠ .primary ∧ ((heardAt base 8).gateway 1).health ≠ .failed ∧
    ((heardAt base 8).port 8).slot = none := by decide +kernel
theorem witness_ChannelReportStoresEntries_analog :
    base.channel (read16 0#8 3#8).toNat =
      some { kind := .analog, value := 150#16, quality := .good, lastReport := some 990 } := by decide
theorem witness_ChannelReportStoresEntries_discrete :
    (({ base with channels :=
        [(1023, { kind := .discrete, value := 1#16, quality := .stale, lastReport := none })] } :
      State).channel (read16 3#8 0xFF#8).toNat).map (·.kind) = some .discrete := by decide

theorem witness_ChannelReportStoresEntries_points : ∃ p q, base.point 12 = some p ∧
    p.cond ≠ conditionOf (evaluate p.cfg 150#16 p.cond p.lastKnown) ∧ p.inService = true ∧
    evaluate p.cfg 150#16 p.cond p.lastKnown ≠ p.delivered ∧ p.cfg.onDelay = 0 ∧
    base.point 10 = some q ∧ q.cond = conditionOf (evaluate q.cfg 50#16 q.cond q.lastKnown) ∧
    HeadsApart base := ⟨_, _, rfl, by decide, by decide, by decide, by decide, rfl, by decide, base_heads_apart⟩

/-- A device in LOADING with these tables. -/
def loadingWith (st : Staged) : State := { State.reset with dev := .loading, staged := st }

theorem witness_LoadingFillsTables_start :
    (State.reset.port (deskPort supervisor)).slot = none ∧ State.reset.dev = .unconfigured := by decide
theorem witness_LoadingFillsTables_block :
    ((loadingWith .empty).port (deskPort supervisor)).slot = none ∧ (loadingWith .empty).dev = .loading ∧
    blockKind 6#8 = some kindChannels ∧ ([1#8, 2#8] : List Byte).length =
      (2#8 : Byte).toNat * entrySizes[kindChannels] ∧
    (read16 3#8 0xFE#8).toNat + (2#8 : Byte).toNat ≤ tableSizes[kindChannels] := by decide +kernel
theorem witness_LoadEndChecksTables_fault : (loadingWith .empty).staged.fault = some (1, 1) := by
  decide +kernel

theorem test_abandon_clears_serial :
    (after1 (.loadAbandon 6 1 []) { loadingWith .empty with serial := 7 }).serial = 0 := by decide +kernel

/-- A small load that passes every check: area 0, role 0 with every right, channel 0, two points, the
first the head of group 0 and the second its member, and one credential. -/
def smallLoad : Staged :=
  let point : List Byte :=
    [1#8, 0#8, 0#8, 0#8, 0#8, 0#8, 100#8, 0#8, 10#8, 1#8, 0#8, 0#8, 0#8, 0#8, 0#8, 0#8, 50#8]
  { present := #v[true, true, true, false, true, true, true, true, true]
    tables := #v[[(28, [0#8, 0#8, 0#8, 5#8])], [(0, [1#8, 7#8])],
      [(0, List.replicate 16 0x1F#8 ++ [7#8])], [], [], [(0, [1#8])], [(0, point), (2047, point)],
      [(0, [1#8, 0#8, 0#8, 1#8, 7#8, 0xFF#8] ++ List.replicate 30 0#8 ++ [0#8, 0#8])],
      [(0, [0#8, 0#8, 0#8, 1#8, 0xAB#8, 0xCD#8, 0#8])]] }

theorem witness_LoadEndChecksTables_taken :
    ((loadingWith smallLoad).port (deskPort supervisor)).slot = none ∧
    (loadingWith smallLoad).dev = .loading ∧ (loadingWith smallLoad).staged.fault = none := by
  decide +kernel

theorem test_load_end : let t := after1 (.loadEnd 6 1 []) (loadingWith smallLoad)
    t.dev = .running ∧ t.primary = some 0 ∧ (t.area 0).map (·.nameIndex) = some 7#8 ∧
    (t.group 0).map (·.members) = some [2047] ∧ (t.credential 1).map (·.check) = some 0xABCD#16 ∧
    t.sweep.size = 2 := by decide +kernel

/-- The bytes of the points of the small device, and with another limit. -/
def editBytes (limit : Byte) : List Byte :=
  [1#8, 0#8, 0#8, 3#8, 0#8, 0#8, limit, 0#8, 10#8, 1#8, 0#8, 0#8, 0#8, 0#8, 0#8, 0#8, 50#8]

theorem witness_EditPointReplacesConfiguration (limit : Byte) : ∃ raw p,
    Supervisor base (sessionOf 9 1) .engineer ∧ base.point (read16 0#8 5#8).toNat = some p ∧
    (editBytes limit).length = 17 ∧ rawPoint (editBytes limit) = some raw ∧
    groupField 0xFF#8 = some none ∧ none = p.cfg.group ∧ none = p.cfg.headOf ∧
    raw.configured = 1#8 ∧ raw.inRanges = true ∧
    raw.fits (fun c => (base.channel c).map (·.kind)) (fun a => (base.area a).isSome) = true :=
  ⟨_, _, supervisor6 _, rfl, rfl, rfl, by decide, rfl, rfl, rfl, rfl, rfl⟩
theorem witness_EditPointReplacesConfiguration_same :
    (rawPoint (editBytes 100#8)).map (fun raw => raw.cfg none none) =
      (base.point 5).map (·.cfg) := by decide

/-- The small device with a channel 4 of this quality beside channel 3 of that one. -/
def twoChannels (q q3 : Quality) : State :=
  { base with channels := [(3, { kind := .analog, value := 150#16, quality := q3, lastReport := none }),
      (4, { kind := .analog, value := 50#16, quality := q, lastReport := none })] }

/-- The bytes of the points of the small device, bound to channel 4, in this area with this priority. -/
def rebindBytes (area priority : Byte) : List Byte :=
  [1#8, area, 0#8, 4#8, 0#8, 0#8, 100#8, 0#8, 10#8, priority, 0#8, 0#8, 0#8, 0#8, 0#8, 0#8, 50#8]

theorem witness_EditPointReplacesConfiguration_rebound (q : Quality) : ∃ raw p y,
    (twoChannels q .good).point 5 = some p ∧ rawPoint (rebindBytes 1#8 2#8) = some raw ∧
    raw.inRanges = true ∧ raw.fits (fun c => ((twoChannels q .good).channel c).map (·.kind))
      (fun a => ((twoChannels q .good).area a).isSome) = true ∧
    (raw.cfg none none).channel ≠ p.cfg.channel ∧ (raw.cfg none none).area ≠ p.cfg.area ∧
    (raw.cfg none none).priority ≠ p.cfg.priority ∧ p.badInput = false ∧
    (twoChannels q .good).channel (raw.cfg none none).channel = some y ∧ y.quality = q :=
  ⟨_, _, _, rfl, rfl, rfl, rfl, by decide, by decide, by decide, rfl, rfl, rfl⟩

/-- The point of an edit in a state: its condition, its alarm state and BAD_INPUT. -/
def editLeaves (s : State) (bytes : List Byte) : Option (Condition × AlarmState × Bool) :=
  ((after1 (.editPoint 6 1 ([0#8, 5#8] ++ bytes ++ [0xFF#8, 0xFF#8])) s).point 5).map
    (fun p => (p.cond, p.state, p.badInput))

theorem test_edit_rebinds :
    editLeaves (twoChannels .good .good) (rebindBytes 0#8 1#8) = some (.isFalse, .unackReturned, false) ∧
    editLeaves (twoChannels .bad .good) (rebindBytes 0#8 1#8) = some (.unknown, .unackActive, true) ∧
    editLeaves (twoChannels .stale .bad) (rebindBytes 0#8 1#8) = some (.isTrue, .unackActive, false) ∧
    editLeaves (twoChannels .never .good) (rebindBytes 0#8 1#8) = some (.unknown, .unackActive, false) :=
  by decide +kernel
theorem test_edit_limit :
    editLeaves base (editBytes 200#8) = some (.isFalse, .unackReturned, false) ∧
    editLeaves (twoChannels .good .bad) (editBytes 200#8) = some (.isTrue, .unackActive, false) := by
  decide +kernel
theorem witness_EditParametersStoresValues : ∃ vs,
    Supervisor base (sessionOf 9 1) .engineer ∧
    values (num32 64 ++ num32 32) = some vs ∧ vs.length = (2#8 : Byte).toNat ∧ 1 ≤ vs.length ∧
    vs.length ≤ 16 ∧ ∀ e ∈ numbered (0#8 : Byte).toNat vs, ∃ slot, base.editable e.1 = some slot ∧
      inRange slot.range e.2 = true ∧
      orderBroken (storeValues base (numbered (0#8 : Byte).toNat vs)) slot = false := by
  refine ⟨[64, 32], supervisor6 _, by decide +kernel, by decide, by decide, by decide, ?_⟩
  intro e he
  have : e = (0, 64) ∨ e = (1, 32) := by
    simpa [numbered] using he
  rcases this with rfl | rfl
  · exact ⟨.param 0, by decide +kernel, by decide, by decide +kernel⟩
  · exact ⟨.param 1, by decide +kernel, by decide, by decide +kernel⟩
theorem witness_EditParametersStoresValues_group : ∃ slot,
    base.editable 48 = some slot ∧ inRange slot.range 6000 = true := ⟨.release 0, by decide +kernel, by decide⟩
theorem witness_RestartsClear : Supervisor base (sessionOf 9 1) .engineer := supervisor6 _
theorem witness_RestartsClear_queues :
    Supervisor overlapState (sessionOf 9 1) .engineer ∧
    (actingAt overlapState supervisor).record 0 = some (recordIn .overlap (some ⟨1, 2⟩)) ∧
    (recordIn .overlap (some ⟨1, 2⟩)).names 0 = true ∧ (recordIn .overlap (some ⟨1, 2⟩)).names 2 = false ∧
    (∀ i, (actingAt base supervisor).record i = none) ∧ State.reset.enabled 0 = false :=
  ⟨overlap6 _, by decide +kernel, by decide, by decide, by decide +kernel, by decide⟩
theorem test_restart_queues :
    let s := (overlapState.setPort 1 { goodPort with link := .silent }).setQueue 2
      { entries := [pt 1 5], resync := true }
    let n : Notice :=
      { cls := 2, body := .handover ((recordIn .overlap (some ⟨1, 2⟩)).endBody 0 .restarted) }
    let t := after1 (.restart 6 1 []) s
    t.queue 0 = { entries := [n], resync := false } ∧ t.queue 1 = { entries := [], resync := true } ∧
    t.queue 2 = .empty ∧ t.queue 6 = { entries := [n], resync := false } := by decide +kernel

/-- The device in FLOOD in area 0, its summary due. -/
def floodState (count : Nat) : State :=
  base.setLoad 0 { load := 400, state := .flood, count := count, summaryExpiry := some 1000 }

theorem witness_LoadTimersDecayAndSum :
    base.loadExpiry = some 1000 ∧ reached base.elapsed 1000 = true ∧
    ((floodState 0).load 0).summaryExpiry = some 1000 ∧ ((floodState 0).load 0).state = .flood ∧
    0 < ((floodState 1).load 0).count ∧ (floodState 0).elapsed = 1000 := by decide

theorem tablesRiseBase : TablesRise base :=
  ⟨by unfold KeysRise; decide +kernel, by unfold KeysRise; decide +kernel,
    fun k => by unfold KeysRise; revert k; decide +kernel⟩
theorem witness_SweepVisitsPoints_visit : ∃ w i p,
    base.sweep = w ∧ w.running = true ∧ w.position < w.size ∧
    reached base.elapsed (after w.passStart (w.position * w.period / w.size)) = true ∧
    base.points[w.position]? = some (i, p) ∧ TablesRise base ∧ p.foldSince = false ∧
    (∀ y, base.channel p.cfg.channel = some y → base.staleDue y w.firstPass = false) ∧
    base.escalationDue p = true := by
  refine ⟨_, _, _, rfl, rfl, by decide, by decide +kernel, rfl, tablesRiseBase, rfl, ?_,
    by decide +kernel⟩
  intro y hy
  cases hy
  decide +kernel
theorem witness_SweepVisitsPoints_notEscalated : ∃ i p,
    ({ base with elapsed := 999 } : State).points[0]? = some (i, p) ∧
    ({ base with elapsed := 999 } : State).escalationDue p = false := ⟨_, _, rfl, by decide +kernel⟩
theorem witness_SweepVisitsPoints_stale : ∃ p y,
    base.points[0]? = some (5, p) ∧ base.channel p.cfg.channel = some y ∧
    ({ base with elapsed := 2000 } : State).staleDue y false = true :=
  ⟨_, _, rfl, rfl, by decide +kernel⟩

/-- The device with its pass at its end. -/
def passDone : State :=
  { base with sweep := { running := true, passStart := 920, period := 80, size := 8, position := 8
                         firstPass := false } }

theorem witness_SweepVisitsPoints_passEnd : ∃ w,
    passDone.sweep = w ∧ w.running = true ∧ w.size ≤ w.position ∧
    reached passDone.elapsed (after w.passStart w.period) = true := ⟨_, rfl, rfl, by decide, by decide⟩

/-- The device once its ports' liveness expiries are reached, and with a gateway in DOUBT. -/
def silentTime : State := { base with elapsed := 5000 }

theorem witness_PortsFallSilent_desk :
    (silentTime.port (deskPort 0)).liveness = some 5000 ∧ reached silentTime.elapsed 5000 = true := by
  decide
theorem witness_PortsFallSilent_gateway :
    (silentTime.port (gatewayPort 0)).liveness = some 5000 ∧ silentTime.primary = some 0 ∧
    silentTime.eligible (otherGateway 0) = true ∧
    silentTime.linkGood (gatewayPort (otherGateway 1)) = true ∧
    (silentTime.gateway (otherGateway 1)).health ≠ .failed := by decide
theorem witness_PortsFallSilent_alone :
    (silentTime.setGateway 1 failedGateway).primary = some 0 ∧
    (silentTime.setGateway 1 failedGateway).eligible (otherGateway 0) = false := by decide
theorem witness_PortsFallSilent_heard :
    (base.port (deskPort 0)).link = .good ∧ (State.reset.port (deskPort 0)).link = .silent ∧
    (State.reset.gateway 0).health = .absent ∧ (base.gateway 0).health ≠ .absent ∧
    (base.port (gatewayPort 0)).link = .good := by decide
theorem witness_PortsFallSilent_doubt :
    ((withGateway (doubtful [])).gateway 0).health = .doubt ∧
    ((withGateway (doubtful [])).gateway 0).doubtExpiry = some 1000 ∧
    reached (withGateway (doubtful [])).elapsed 1000 = true ∧
    (withGateway (doubtful [])).dev = .running := by decide
theorem witness_TimersActOnlyWhenDue :
    reached (base.elapsed - 1) 1000 = false ∧ reached base.elapsed 1001 = false ∧
    (base.load 0).state ≠ .flood ∧ (base.port 0).liveness = some 5000 ∧
    reached base.elapsed 5000 = false := by decide

theorem witness_TimersActOnlyWhenDue_sweep :
    State.reset.sweep.running = false ∧ ¬passDone.sweep.position < passDone.sweep.size := by decide

/-! ## Boundary values of the condition rule -/

theorem witness_ConditionFollowsItsRule_high :
    (100#16).toInt < (101#16).toInt ∧ (90#16).toInt ≤ max (-32768) ((100#16).toInt - 10) ∧
    evaluate cfgA 101#16 .isFalse none = true ∧ evaluate cfgA 90#16 .isTrue none = false ∧
    evaluate cfgA 91#16 .isTrue none = true ∧ evaluate cfgA 100#16 .isFalse none = false ∧
    evaluate cfgA 100#16 .unknown (some true) = true ∧ evaluate cfgA 100#16 .unknown none = false := by
  decide +kernel
theorem witness_ConditionFollowsItsRule_low :
    evaluate { cfgA with kind := .low } 99#16 .isFalse none = true ∧
    evaluate { cfgA with kind := .low } 110#16 .isTrue none = false ∧
    evaluate { cfgA with kind := .low } 109#16 .isTrue none = true ∧
    evaluate { cfgA with kind := .low } 100#16 .isFalse none = false := by decide +kernel
theorem witness_ConditionFollowsItsRule_clamp :
    evaluate { cfgA with limit := 0x8000#16 } 0x8000#16 .isTrue none = false ∧
    evaluate { cfgA with limit := 0x7FFF#16 } 0x7FFF#16 .isFalse none = false ∧
    evaluate { cfgA with limit := 0x8000#16, kind := .low } 0x8000#16 .isFalse none = false ∧
    evaluate { cfgA with limit := 0x7FFF#16, kind := .low } 0x7FFF#16 .isTrue none = false := by
  decide +kernel
theorem witness_ConditionFollowsItsRule_discrete :
    evaluate { cfgA with kind := .on } 1#16 .isFalse none = true ∧
    evaluate { cfgA with kind := .off } 1#16 .isTrue none = false := by decide +kernel
theorem witness_RequestIsItsFrame_longest :
    (List.replicate 250 0#8 : Body).length ≤ maxBody := by decide +kernel

end Sys2Proof.Tests
end

/-! PROOFS. The condition a point's rule gives for a stored value (spec/01, 1.4: R10, R11, R12). -/

section
namespace Sys2Proof.Proofs

open Machine

/-! ## The range of a word and the band edges -/

theorem neg32768_le_toInt (w : Word16) : -32768 ≤ w.toInt := BitVec.le_toInt w

theorem toInt_le_32767 (w : Word16) : w.toInt ≤ 32767 := by
  have h := BitVec.toInt_lt (x := w)
  omega

/-- The clamp at -32768 does not lift the edge of a HIGH point past its limit (R10). -/
theorem lowerEdge_le_limit (limit : Word16) (deadband : Nat) :
    lowerEdge limit deadband ≤ limit.toInt :=
  max_le (neg32768_le_toInt limit) (by omega)

/-- The clamp at 32767 does not push the edge of a LOW point below its limit (R11). -/
theorem limit_le_upperEdge (limit : Word16) (deadband : Nat) :
    limit.toInt ≤ upperEdge limit deadband :=
  le_min (toInt_le_32767 limit) (by omega)

/-- With deadband 0 the hold band of a HIGH point is empty (R10). -/
@[simp] theorem lowerEdge_zero (limit : Word16) : lowerEdge limit 0 = limit.toInt := by
  simp [lowerEdge, neg32768_le_toInt]

/-- With deadband 0 the hold band of a LOW point is empty (R11). -/
@[simp] theorem upperEdge_zero (limit : Word16) : upperEdge limit 0 = limit.toInt := by
  simp [upperEdge, toInt_le_32767]

/-! ## The hold band -/

/-- The cases of R10 inside a hold band, as the obligation lists them. -/
theorem holdBand_follows_cases (previous : Condition) (lastKnown : Option Bool) :
    (previous = .isTrue → holdBand previous lastKnown = true) ∧
    (previous = .isFalse → holdBand previous lastKnown = false) ∧
    (∀ k, previous = .unknown → lastKnown = some k → holdBand previous lastKnown = k) ∧
    (previous = .unknown → lastKnown = none → holdBand previous lastKnown = false) := by
  refine ⟨?_, ?_, ?_, ?_⟩
  · rintro rfl; rfl
  · rintro rfl; rfl
  · rintro k rfl rfl; rfl
  · rintro rfl rfl; rfl

/-! ## What `evaluate` answers, per kind and range of the value -/

section
variable {c : PointCfg} {v : Word16} {previous : Condition} {lastKnown : Option Bool}

theorem evaluate_high_above (hk : c.kind = .high) (hv : c.limit.toInt < v.toInt) :
    evaluate c v previous lastKnown = true := by
  simp [evaluate, hk, hv]

theorem evaluate_high_atOrBelowEdge (hk : c.kind = .high)
    (hv : v.toInt ≤ lowerEdge c.limit c.deadband) :
    evaluate c v previous lastKnown = false := by
  have hlimit : ¬c.limit.toInt < v.toInt := (hv.trans (lowerEdge_le_limit _ _)).not_gt
  simp [evaluate, hk, hv, hlimit]

theorem evaluate_high_inBand (hk : c.kind = .high)
    (hlow : lowerEdge c.limit c.deadband < v.toInt) (hup : v.toInt ≤ c.limit.toInt) :
    evaluate c v previous lastKnown = holdBand previous lastKnown := by
  simp [evaluate, hk, hlow.not_ge, hup.not_gt]

theorem evaluate_low_below (hk : c.kind = .low) (hv : v.toInt < c.limit.toInt) :
    evaluate c v previous lastKnown = true := by
  simp [evaluate, hk, hv]

theorem evaluate_low_atOrAboveEdge (hk : c.kind = .low)
    (hv : upperEdge c.limit c.deadband ≤ v.toInt) :
    evaluate c v previous lastKnown = false := by
  have hlimit : ¬v.toInt < c.limit.toInt := ((limit_le_upperEdge _ _).trans hv).not_gt
  simp [evaluate, hk, hv, hlimit]

theorem evaluate_low_inBand (hk : c.kind = .low)
    (hlow : c.limit.toInt ≤ v.toInt) (hup : v.toInt < upperEdge c.limit c.deadband) :
    evaluate c v previous lastKnown = holdBand previous lastKnown := by
  simp [evaluate, hk, hlow.not_gt, hup.not_ge]

theorem evaluate_on (hk : c.kind = .on) :
    evaluate c v previous lastKnown = (v == 1#16) := by
  simp [evaluate, hk]

theorem evaluate_off (hk : c.kind = .off) :
    evaluate c v previous lastKnown = (v == 0#16) := by
  simp [evaluate, hk]

end

/-! ## The obligation -/

/-- Settles O21: each kind takes its answer from the range the value lies in, and the clamped edge never
passes the limit, so the ranges of R10 and R11 do not overlap. -/
theorem conditionFollowsItsRule : Obligations.ConditionFollowsItsRule := by
  unfold Obligations.ConditionFollowsItsRule
  intro c v previous lastKnown
  refine ⟨fun hHigh => ?high, fun hLow => ?low, fun hOn => ?on, fun hOff => ?off⟩
  case high =>
    refine ⟨evaluate_high_above hHigh, evaluate_high_atOrBelowEdge hHigh, ?_, ?_, ?_⟩
    · intro hlow hup
      rw [evaluate_high_inBand hHigh hlow hup]
      exact holdBand_follows_cases previous lastKnown
    · rintro hzero rfl
      exact evaluate_high_atOrBelowEdge hHigh (by simp [hzero])
    · intro hlimit
      exact hlimit ▸ (toInt_le_32767 v).not_gt
  case low =>
    refine ⟨evaluate_low_below hLow, evaluate_low_atOrAboveEdge hLow, ?_, ?_, ?_⟩
    · intro hlow hup
      rw [evaluate_low_inBand hLow hlow hup]
      exact holdBand_follows_cases previous lastKnown
    · rintro hzero rfl
      exact evaluate_low_atOrAboveEdge hLow (by simp [hzero])
    · intro hlimit
      exact hlimit ▸ (neg32768_le_toInt v).not_gt
  case on =>
    rw [evaluate_on hOn]
    constructor <;> rintro rfl <;> rfl
  case off =>
    rw [evaluate_off hOff]
    constructor <;> rintro rfl <;> rfl

end Sys2Proof.Proofs
end

/-! PROOFS. How a notice reaches a queue: in place, in its class, over a displaced entry, or not at all
(spec/06: R97 to R100). -/

section
namespace Sys2Proof.Proofs

open Machine

/-! ## The subject of a notice -/

theorem sameSubject_iff {n e : Notice} :
    sameSubject n e = true ↔ n.point?.isSome = true ∧ n.point? = e.point? := by
  simp [sameSubject]

/-- Two notices for one point are matched by the same notices. -/
theorem sameSubject_congr {n e : Notice} (h : sameSubject n e = true) (f : Notice) :
    sameSubject n f = sameSubject e f := by
  obtain ⟨_, hpoint⟩ := sameSubject_iff.1 h
  simp only [sameSubject, hpoint]

theorem sameSubject_comm (e f : Notice) : sameSubject e f = sameSubject f e := by
  rw [Bool.eq_iff_iff, sameSubject_iff, sameSubject_iff]
  constructor
  · rintro ⟨hsome, heq⟩
    exact ⟨heq ▸ hsome, heq.symm⟩
  · rintro ⟨hsome, heq⟩
    exact ⟨heq ▸ hsome, heq.symm⟩

theorem holds_iff {q : Queue} {n : Notice} :
    q.holds n = true ↔ ∃ e ∈ q.entries, sameSubject n e = true := List.any_eq_true

theorem holds_eq_false_of_new {l : List Notice} {n : Notice}
    (new : ∀ e ∈ l, sameSubject n e = false) (resync : Bool) :
    Queue.holds ⟨l, resync⟩ n = false := by
  simpa [Queue.holds] using new

/-! ## The place of a notice in the order of classes (R98) -/

/-- `t` is `l` with `n` last among the entries of its class: behind every class at or before its own,
before every later one. -/
def PlacedByClass (n : Notice) (l t : List Notice) : Prop :=
  ∃ pre post, l = pre ++ post ∧ t = pre ++ n :: post ∧
    (∀ e ∈ pre, e.cls ≤ n.cls) ∧ (∀ e ∈ post, n.cls < e.cls)

/-- In a queue that stands in the order of classes an insertion puts the notice in its place. -/
theorem insertByClass_placed (n : Notice) {l : List Notice}
    (ordered : l.Pairwise (fun e f => e.cls ≤ f.cls)) : PlacedByClass n l (insertByClass n l) := by
  induction l with
  | nil => exact ⟨[], [], rfl, rfl, by simp, by simp⟩
  | cons e rest ih =>
    obtain ⟨first, restOrdered⟩ := List.pairwise_cons.1 ordered
    by_cases h : e.cls ≤ n.cls
    · obtain ⟨pre, post, hrest, hinsert, hpre, hpost⟩ := ih restOrdered
      refine ⟨e :: pre, post, by simp [hrest], by simp [insertByClass, h, hinsert], ?_, hpost⟩
      exact List.forall_mem_cons.2 ⟨h, hpre⟩
    · have later : n.cls < e.cls := not_le.1 h
      refine ⟨[], e :: rest, rfl, by simp [insertByClass, h], by simp, ?_⟩
      exact List.forall_mem_cons.2 ⟨later, fun f hf => later.trans_le (first f hf)⟩

/-! ## The oldest entry of the least urgent class (R100) -/

theorem removeOldest_append {c : Nat} {pre post : List Notice} {e : Notice}
    (hpre : ∀ f ∈ pre, f.cls ≠ c) (he : e.cls = c) :
    removeOldest c (pre ++ e :: post) = pre ++ post := by
  induction pre with
  | nil => simp [removeOldest, he]
  | cons f rest ih =>
    obtain ⟨hf, hrest⟩ := List.forall_mem_cons.1 hpre
    simp [removeOldest, hf, ih hrest]

/-- The first entry of a class that a list holds. -/
theorem exists_oldest {c : Nat} {l : List Notice} (h : ∃ e ∈ l, e.cls = c) :
    ∃ pre e post, l = pre ++ e :: post ∧ e.cls = c ∧ ∀ f ∈ pre, f.cls ≠ c := by
  induction l with
  | nil => simp at h
  | cons x rest ih =>
    by_cases hx : x.cls = c
    · exact ⟨[], x, rest, rfl, hx, by simp⟩
    · obtain ⟨pre, e, post, hrest, he, hpre⟩ := ih (by simpa [hx] using h)
      exact ⟨x :: pre, e, post, by simp [hrest], he, List.forall_mem_cons.2 ⟨hx, hpre⟩⟩

theorem cls_le_leastUrgent {l : List Notice} {e : Notice} (he : e ∈ l) : e.cls ≤ leastUrgent l := by
  have fold : leastUrgent l = (l.map Notice.cls).foldr max 0 := by
    rw [leastUrgent, ← List.foldl_eq_foldr, List.foldl_map]
  rw [fold]
  exact List.le_max_of_le' 0 (List.mem_map_of_mem he) le_rfl

/-- A full queue has an entry to displace: the oldest of the least urgent class. -/
theorem exists_displaced {l : List Notice} (h : l ≠ []) :
    ∃ pre e post, l = pre ++ e :: post ∧ e.cls = leastUrgent l ∧ ∀ f ∈ pre, f.cls ≠ e.cls := by
  obtain ⟨pre, e, post, hl, he, hpre⟩ := exists_oldest (leastUrgent_mem h)
  exact ⟨pre, e, post, hl, he, fun f hf => he ▸ hpre f hf⟩

/-! ## What one entry more or less leaves of a legal queue -/

section
variable {capacity : Nat} {resync : Bool} {pre post : List Notice} {n e : Notice}

theorem queueLegal_anyResync {q : Queue} (legal : QueueLegal capacity q) (marker : Bool) :
    QueueLegal capacity { q with resync := marker } :=
  ⟨legal.fits, legal.ordered, legal.once⟩

/-- A queue stays legal without one of its entries, and then has room. -/
theorem queueLegal_without (legal : QueueLegal capacity ⟨pre ++ e :: post, resync⟩) :
    QueueLegal capacity ⟨pre ++ post, resync⟩ ∧ (pre ++ post).length < capacity := by
  have sub : (pre ++ post).Sublist (pre ++ e :: post) :=
    (List.sublist_cons_self e post).append_left pre
  have fits : (pre ++ e :: post).length ≤ capacity := legal.fits
  have room : (pre ++ post).length < capacity := by
    simp only [List.length_append, List.length_cons] at fits ⊢
    omega
  exact ⟨⟨room.le, legal.ordered.sublist sub, legal.once.sublist sub⟩, room⟩

/-- A queue with room stays legal under a notice of a new subject that stands between the classes of its
neighbours. -/
theorem queueLegal_with (legal : QueueLegal capacity ⟨pre ++ post, resync⟩)
    (room : (pre ++ post).length < capacity) (new : ∀ f ∈ pre ++ post, sameSubject n f = false)
    (hpre : ∀ f ∈ pre, f.cls ≤ n.cls) (hpost : ∀ f ∈ post, n.cls ≤ f.cls) :
    QueueLegal capacity ⟨pre ++ n :: post, resync⟩ := by
  obtain ⟨_, ordered, once⟩ := legal
  refine ⟨?fits, ?ordered, ?once⟩
  case fits =>
    simp only [List.length_append, List.length_cons] at room ⊢
    omega
  case ordered =>
    obtain ⟨orderedPre, orderedPost, across⟩ := List.pairwise_append.1 ordered
    refine List.pairwise_append.2 ⟨orderedPre, List.pairwise_cons.2 ⟨hpost, orderedPost⟩, ?_⟩
    exact fun f hf => List.forall_mem_cons.2 ⟨hpre f hf, across f hf⟩
  case once =>
    refine (List.pairwise_middle fun {f g} h => ?_).2 (List.pairwise_cons.2 ⟨new, once⟩)
    rw [sameSubject_comm, h]

/-- An insertion by class leaves a queue with room legal, when the subject is new to it. -/
theorem queueLegal_insertByClass {l : List Notice} (legal : QueueLegal capacity ⟨l, resync⟩)
    (room : l.length < capacity) (new : ∀ f ∈ l, sameSubject n f = false) :
    QueueLegal capacity ⟨insertByClass n l, resync⟩ := by
  obtain ⟨pre, post, rfl, hinsert, hpre, hpost⟩ := insertByClass_placed n legal.ordered
  rw [hinsert]
  exact queueLegal_with legal room new hpre fun f hf => (hpost f hf).le

/-- A legal queue holds no second entry for the point of a notice (R97). -/
theorem others_not_sameSubject (legal : QueueLegal capacity ⟨pre ++ e :: post, resync⟩)
    (hsame : sameSubject n e = true) : ∀ f ∈ pre ++ post, sameSubject n f = false := by
  have once := (List.pairwise_middle fun {f g} h => by rw [sameSubject_comm, h]).1 legal.once
  intro f hf
  rw [sameSubject_congr hsame]
  exact (List.pairwise_cons.1 once).1 f hf

end

/-! ## What a push does, case by case -/

section
variable {capacity : Nat} {resync : Bool} {l pre post : List Notice} {n e : Notice}

/-- An update of the same class takes the place of the entry (R99). -/
theorem push_sameClass (legal : QueueLegal capacity ⟨pre ++ e :: post, resync⟩)
    (hsame : sameSubject n e = true) (hcls : e.cls = n.cls) :
    Queue.push capacity ⟨pre ++ e :: post, resync⟩ n = ⟨pre ++ n :: post, resync⟩ := by
  obtain ⟨othersPre, othersPost⟩ := List.forall_mem_append.1 (others_not_sameSubject legal hsame)
  have keep : ∀ m : List Notice, (∀ f ∈ m, sameSubject n f = false) →
      m.map (fun f => if sameSubject n f then n else f) = m := fun m hm =>
    (List.map_congr_left fun f hf => by simp [hm f hf]).trans (List.map_id m)
  simp [Queue.push, Queue.holds, updateInPlace, hsame, hcls, keep pre othersPre, keep post othersPost]

/-- An update of another class leaves its place and goes to the end of its new class (R99). -/
theorem push_otherClass (legal : QueueLegal capacity ⟨pre ++ e :: post, resync⟩)
    (hsame : sameSubject n e = true) (hcls : e.cls ≠ n.cls) :
    Queue.push capacity ⟨pre ++ e :: post, resync⟩ n = ⟨insertByClass n (pre ++ post), resync⟩ := by
  obtain ⟨othersPre, othersPost⟩ := List.forall_mem_append.1 (others_not_sameSubject legal hsame)
  have held : Queue.holds ⟨pre ++ e :: post, resync⟩ n = true := by simp [Queue.holds, hsame]
  have noneOfClass : (pre ++ e :: post).any (fun f => sameSubject n f && f.cls == n.cls) = false := by
    simp +contextual [hcls, othersPre, othersPost]
  have rest : (pre ++ e :: post).filter (fun f => !sameSubject n f) = pre ++ post := by
    have keepPre : pre.filter (fun f => !sameSubject n f) = pre := by simpa using othersPre
    have keepPost : post.filter (fun f => !sameSubject n f) = post := by simpa using othersPost
    simp [hsame, keepPre, keepPost]
  simp [Queue.push, held, updateInPlace, noneOfClass, rest]

/-- A new notice goes to the end of its class where there is room (R98). -/
theorem push_room (new : ∀ f ∈ l, sameSubject n f = false) (room : l.length < capacity) :
    Queue.push capacity ⟨l, resync⟩ n = ⟨insertByClass n l, resync⟩ := by
  simp [Queue.push, holds_eq_false_of_new new, room]

/-- A new notice at a full queue displaces the oldest entry of the least urgent class, unless that class
is more urgent than its own (R100). -/
theorem push_displaces (new : ∀ f ∈ pre ++ e :: post, sameSubject n f = false)
    (full : capacity ≤ (pre ++ e :: post).length)
    (least : e.cls = leastUrgent (pre ++ e :: post)) (oldest : ∀ f ∈ pre, f.cls ≠ e.cls)
    (hcls : n.cls ≤ e.cls) :
    Queue.push capacity ⟨pre ++ e :: post, resync⟩ n = ⟨insertByClass n (pre ++ post), true⟩ := by
  rw [Queue.push, if_neg (by simp [holds_eq_false_of_new new]), if_neg full.not_gt, ← least, if_pos hcls,
    removeOldest_append oldest rfl]

/-- A new notice less urgent than every entry of a full queue is dropped (R100). -/
theorem push_drops (new : ∀ f ∈ l, sameSubject n f = false) (full : capacity ≤ l.length)
    (hcls : leastUrgent l < n.cls) : Queue.push capacity ⟨l, resync⟩ n = ⟨l, true⟩ := by
  simp [Queue.push, holds_eq_false_of_new new, full.not_gt, hcls.not_ge]

end

/-! ## The queue stays legal -/

theorem queueLegal_push {capacity : Nat} {q : Queue} (n : Notice) (hc : 0 < capacity)
    (legal : QueueLegal capacity q) : QueueLegal capacity (q.push capacity n) := by
  obtain ⟨l, resync⟩ := q
  by_cases held : Queue.holds ⟨l, resync⟩ n = true
  case pos =>
    obtain ⟨e, he, hsame⟩ := holds_iff.1 held
    obtain ⟨pre, post, rfl⟩ := List.append_of_mem he
    obtain ⟨without, room⟩ := queueLegal_without legal
    have new := others_not_sameSubject legal hsame
    by_cases hcls : e.cls = n.cls
    · rw [push_sameClass legal hsame hcls]
      obtain ⟨_, orderedPost, across⟩ := List.pairwise_append.1 legal.ordered
      refine queueLegal_with without room new (fun f hf => ?_) (fun f hf => ?_)
      · exact hcls ▸ across f hf e List.mem_cons_self
      · exact hcls ▸ (List.pairwise_cons.1 orderedPost).1 f hf
    · rw [push_otherClass legal hsame hcls]
      exact queueLegal_insertByClass without room new
  case neg =>
    have new : ∀ e ∈ l, sameSubject n e = false := fun e he =>
      Bool.eq_false_iff.2 fun hsame => held (holds_iff.2 ⟨e, he, hsame⟩)
    rcases lt_or_ge l.length capacity with room | full
    · rw [push_room new room]
      exact queueLegal_insertByClass legal room new
    · obtain ⟨pre, e, post, rfl, least, oldest⟩ :=
        exists_displaced (List.ne_nil_of_length_pos (hc.trans_le full))
      rcases le_or_gt n.cls e.cls with hcls | hcls
      · rw [push_displaces new full least oldest hcls]
        obtain ⟨without, room⟩ := queueLegal_without legal
        have newRest : ∀ f ∈ pre ++ post, sameSubject n f = false := fun f hf =>
          new f (((List.sublist_cons_self e post).append_left pre).mem hf)
        exact queueLegal_anyResync (queueLegal_insertByClass without room newRest) true
      · rw [push_drops new full (least ▸ hcls)]
        exact queueLegal_anyResync legal true

/-! ## The obligation -/

/-- Settles O23: each clause reads off what a push does in its case, and every case inserts into a legal
queue that has room for the notice. -/
theorem noticeReachesQueue : Obligations.NoticeReachesQueue := by
  unfold Obligations.NoticeReachesQueue
  rintro capacity ⟨l, resync⟩ n hc legal
  refine ⟨queueLegal_push n hc legal, ?inPlace, ?room, ?full⟩
  case inPlace =>
    rintro pre e post rfl hsame
    by_cases hcls : e.cls = n.cls
    · rw [push_sameClass legal hsame hcls]
      exact ⟨rfl, by simp, fun _ => rfl, fun h => absurd hcls h⟩
    · rw [push_otherClass legal hsame hcls]
      obtain ⟨without, _⟩ := queueLegal_without legal
      refine ⟨rfl, ?_, fun h => absurd h hcls, fun _ => insertByClass_placed n without.ordered⟩
      simp only [insertByClass_length, List.length_append, List.length_cons]
      omega
  case room =>
    intro new room
    rw [push_room new room]
    exact ⟨rfl, insertByClass_placed n legal.ordered⟩
  case full =>
    intro new full
    obtain ⟨pre, e, post, rfl, least, oldest⟩ :=
      exists_displaced (List.ne_nil_of_length_pos (hc.trans_eq full.symm))
    obtain ⟨without, _⟩ := queueLegal_without legal
    have atMost : ∀ f ∈ pre ++ e :: post, f.cls ≤ e.cls := fun f hf => least ▸ cls_le_leastUrgent hf
    rcases le_or_gt n.cls e.cls with hcls | hcls
    · rw [push_displaces new full.ge least oldest hcls]
      exact ⟨rfl, pre, e, post, rfl, atMost, oldest,
        fun _ => insertByClass_placed n without.ordered, fun h => absurd hcls h.not_ge⟩
    · rw [push_drops new full.ge (least ▸ hcls)]
      exact ⟨rfl, pre, e, post, rfl, atMost, oldest, fun h => absurd h hcls.not_ge, fun _ => rfl⟩

end Sys2Proof.Proofs
end

/-! PROOFS. What a command does to the state, said once: the acts from which the effect of every command is
put together. An invariant that every act keeps is kept by every step. -/

section
namespace Sys2Proof.Proofs

open Machine

/-! ## Acts -/

/-- The fields that no invariant of the points, queues, areas, records, sessions, tables and loads reads. -/
def inertFields : List Field :=
  [.roles, .reach, .preferred, .loadExpiry, .sweep, .marks, .handoverCounter, .gateways, .shiftedOut,
   .freeCount, .offset, .horns, .attention]

/-- The fields a command that takes a configuration into use or clears it can change. -/
def bulkFields : List Field :=
  [.dev, .staged, .params, .roles, .reach, .portCfg, .preferred, .channels, .points, .serial, .shelf,
   .groups, .loads, .loadExpiry, .sweep, .queues, .marks, .journal, .creds, .desks, .map, .records,
   .handoverCounter, .ports, .gateways, .shiftedOut, .freeCount, .offset]

/-- Every field, as a reset changes them. -/
def allFields : List Field := [.pending, .elapsed, .refCycles, .horns, .attention] ++ bulkFields

/-- The fields an EDIT PARAMETERS can change before its entry. -/
def editFields : List Field := [.params, .portCfg, .groups, .loads, .map, .records, .queues, .journal]

/-- What the write of a point in place of another keeps, whichever invariant of points is asked of. -/
structure Follows (s : State) (p q : Point) : Prop where
  group : q.cfg.group = p.cfg.group
  headOf : q.cfg.headOf = p.cfg.headOf
  sound : PointSound p → PointSound q
  suppressed : (p.suppressed = true → p.state = .ackActive ∧ s.blocks p = true) →
    q.suppressed = true → q.state = .ackActive ∧ s.blocks p = true

/-- A record that is in OVERLAP or HELD has its FLOOD cause and its state in agreement (R157). -/
def HoldsByCause (s : State) (r : Record) : Prop :=
  r.accepted = true → r.flood = !s.floodFree r.areas ∧ (r.state = .held ↔ r.caused = true)

/-- The state of a session as attendance and the badges read it. -/
def sessionView (x : Option Session) : Option (Presence × Badge) := x.map (fun y => (y.presence, y.badge))

/-- The values an EDIT PARAMETERS carries have slots, lie in their ranges and break no order once stored
(R179). -/
structure Carried (t : State) (vs : List (Nat × Nat)) : Prop where
  inRange : ∀ e ∈ vs, ∃ slot, slotOf e.1 = some slot ∧ Machine.inRange slot.range e.2 = true
  ordered : ∀ e ∈ vs, ∀ slot, slotOf e.1 = some slot → orderBroken t slot = false

/-- The state once the values are stored and, after a change of a threshold, the areas re-evaluated
(R77, R179). -/
def edited (s : State) (vs : List (Nat × Nat)) : State :=
  if thresholdsChanged s (storeValues s vs) then allAreas.foldl reevaluateArea (storeValues s vs)
  else storeValues s vs

/-- One act on the state and the fields it can change. `whole` says that a change of thresholds is one act
with the re-evaluation of the areas that follows it, as the agreement of loads and load states asks. -/
inductive Act (whole : Bool) : List Field → State → State → Prop
  | inert {s t : State} (h : OnlyChanges inertFields s t) : Act whole inertFields s t
  | enter (s : State) (k : JournalKind) (f : EntryFields) : Act whole [.journal] s (s.enter k f)
  | drain (s : State) (n : Nat) :
      Act whole [.journal] s { s with journal := { entries := s.journal.entries.drop n, gap := 0 } }
  | deliver (s : State) (n : Notice) (names : Desk → Bool) :
      Act whole [.queues] s (Machine.deliver s n names)
  | setQueue (s : State) (d : Desk) (q : Queue)
      (legal : QueueLegal (queueCapacity d) (s.queue d) → QueueLegal (queueCapacity d) q) :
      Act whole [.queues] s (s.setQueue d q)
  | setPort (s : State) (p : Port) (x : PortState) (link : ∀ d, p = deskPort d → x.link = (s.port p).link) :
      Act whole [.ports] s (s.setPort p x)
  | setDesk (s : State) (d : Desk) (x : DeskState)
      (same : sessionView x.session = sessionView (s.desk d).session) : Act whole [.desks] s (s.setDesk d x)
  | rederived {s u : State} (h : OnlyChanges [.ports, .desks, .map] s u)
      (defined : ∀ a, (u.area a).isSome = (s.area a).isSome) (apart : SessionsApart s → SessionsApart u)
      (old : State) (c : Cause) (m : Word16) :
      Act whole [.ports, .desks, .map, .queues, .journal] s (rederive old c m u)
  | changeAreas (s : State) (set : Word16) (f : AreaRecord → AreaRecord)
      (same : ∀ r, (f r).owner = r.owner ∧ (f r).attendance = r.attendance) :
      Act whole [.map] s (Machine.changeAreas s set f)
  | setRecord (s : State) (i : RecordIdx) (x : Option Record)
      (items : (∀ r, s.record i = some r → r.items.length ≤ Config.itemCapacity) →
        ∀ r, x = some r → r.items.length ≤ Config.itemCapacity)
      (holds : (∀ r, s.record i = some r → HoldsByCause s r) → ∀ r, x = some r → HoldsByCause s r) :
      Act whole [.records] s (s.setRecord i x)
  | handItems (s : State) (i : Nat) (p : Point) (fresh : Bool) :
      Act whole [.records] s (Machine.handItems s i p fresh)
  | resolveMoved (s : State) (i : Nat) (old new : Area) :
      Act whole [.records] s (Machine.resolveMoved s i old new)
  | applyLoad (s : State) (a : Area) (l : Nat) (bound : l ≤ max Config.saturation (s.load a).load) :
      Act whole loadFields s (Machine.applyLoad s a l)
  | setLoad (s : State) (a : Area) (x : AreaLoad) (load : x.load = (s.load a).load)
      (state : x.state = (s.load a).state) (count : x.count ≤ max Config.saturation (s.load a).count) :
      Act whole [.loads] s (s.setLoad a x)
  | setPoint (s : State) (i : Nat) (p q : Point) (h : s.point i = some p) (follows : Follows s p q)
      (shelved : q.shelved = p.shelved) : Act whole [.points] s (s.setPoint i q)
  | setSerial (s : State) (i : Nat) (p : Point) (h : s.point i = some p) (n : Word32) :
      Act whole [.serial] s { s with serial := n }
  | reshelve (s : State) (i : Nat) (p : Point) (e : ShelveEntry) (n : Nat) (h : s.point i = some p)
      (shelved : p.shelved = true) (he : e.point = i) (hn : n ≤ s.maxShelve p.cfg.priority)
      (expiry : e.expiry = after s.elapsed (10 * n)) :
      Act whole [.shelf] s { s with shelf := insertShelve e (withoutEntry s.shelf i) }
  | shelve (s : State) (i : Nat) (p q : Point) (e : ShelveEntry) (n : Nat) (h : s.point i = some p)
      (follows : Follows s p q) (before : p.shelved = false) (shelved : q.shelved = true)
      (room : s.shelf.length < Config.shelveCapacity) (he : e.point = i)
      (hn : n ≤ s.maxShelve p.cfg.priority) (expiry : e.expiry = after s.elapsed (10 * n)) :
      Act whole [.points, .shelf] s
        ({ s with shelf := insertShelve e (withoutEntry s.shelf i) }.setPoint i q)
  | unshelve (s : State) (i : Nat) (p q : Point) (h : s.point i = some p) (follows : Follows s p q)
      (shelved : q.shelved = false) :
      Act whole [.points, .shelf] s ({ s with shelf := withoutEntry s.shelf i }.setPoint i q)
  | dropEntry (s : State) (i : Nat) (h : s.point i = none) :
      Act whole [.shelf] s { s with shelf := withoutEntry s.shelf i }
  | setGroup (s : State) (g : GroupIdx) (x y : Group) (h : s.group g = some x) (members : y.members = x.members)
      (blocks : x.state ≠ .isOpen → y.state ≠ .isOpen) : Act whole [.groups] s (s.setGroup g y)
  | releaseGroup (s : State) (g : GroupIdx) (x : Group) (h : s.group g = some x) :
      Act whole handingFields s (Machine.releaseGroup s g x)
  | setChannel (s : State) (c : Nat) (x : Channel) : Act whole [.channels] s (s.setChannel c x)
  | setCreds (s : State) (c : Vector CredRow 64)
      (placed : CredentialsPlaced s → CredentialsPlaced { s with creds := c }) :
      Act whole [.creds] s { s with creds := c }
  | load (s : State) (x : Staged) (dev : DeviceState) (h : s.dev ≠ .running) (hd : dev ≠ .running)
      (rise : TablesRise s → ∀ k : Fin 9, KeysRise x.tables[k]) :
      Act whole [.dev, .staged] s { s with dev := dev, staged := x }
  | takeIntoUse (s : State) (h : s.staged.fault = none) : Act whole bulkFields s (Machine.takeIntoUse s)
  | reset {s t : State}
      (h : OnlyChanges [.pending, .elapsed, .refCycles, .offset, .dev, .journal, .ports, .gateways,
        .shiftedOut, .freeCount] State.reset t)
      (dev : t.dev ≠ .running) (journal : t.journal = s.journal ∨ t.journal = State.reset.journal)
      (pending : t.pending = s.pending) :
      Act whole allFields s t
  | cleared (s : State) : Act whole bulkFields s (Machine.cleared s)
  | store (s : State) (vs : List (Nat × Nat)) (h : Carried (storeValues s vs) vs) (part : whole = false) :
      Act whole [.params, .portCfg, .groups] s (storeValues s vs)
  | edit (s : State) (vs : List (Nat × Nat)) (h : Carried (storeValues s vs) vs) (w : whole = true) :
      Act whole editFields s (edited s vs)

/-- A run of acts. -/
def Acts (whole : Bool) : State → State → Prop :=
  Relation.ReflTransGen (fun s t => ∃ F, Act whole F s t)

section
variable {w : Bool}

theorem Acts.refl (s : State) : Acts w s s := Relation.ReflTransGen.refl

theorem Acts.trans {s t u : State} (h : Acts w s t) (k : Acts w t u) : Acts w s u :=
  Relation.ReflTransGen.trans h k

theorem Act.acts {F : List Field} {s t : State} (h : Act w F s t) : Acts w s t := .single ⟨F, h⟩

theorem Acts.act {F : List Field} {s t u : State} (h : Acts w s t) (k : Act w F t u) : Acts w s u :=
  h.tail ⟨F, k⟩

theorem Acts.foldl {α : Type} {step : State → α → State} (h : ∀ s a, Acts w s (step s a)) (l : List α)
    (s : State) : Acts w s (l.foldl step s) := by
  induction l generalizing s with
  | nil => exact .refl s
  | cons a rest ih => exact (h s a).trans (ih _)

/-- The same for a fold that carries something beside the state. -/
theorem Acts.foldl_with {α β : Type} {step : State × β → α → State × β}
    (h : ∀ x a, Acts w x.1 (step x a).1) (l : List α) (x : State × β) : Acts w x.1 (l.foldl step x).1 := by
  induction l generalizing x with
  | nil => exact .refl x.1
  | cons a rest ih => exact (h x a).trans (ih _)

/-! ## What a write of a point keeps -/

theorem Follows.of_sameState {s : State} {p q : Point} (hc : q.cfg.group = p.cfg.group)
    (hh : q.cfg.headOf = p.cfg.headOf) (hs : PointSound p → PointSound q) (hq : q.state = p.state)
    (hu : q.suppressed = p.suppressed) : Follows s p q :=
  ⟨hc, hh, hs, fun h k => hq ▸ h (hu ▸ k)⟩

theorem setPoint_setPoint (s : State) (i : Nat) (p q : Point) :
    (s.setPoint i p).setPoint i q = s.setPoint i q := by
  have twice : ∀ l : List (Nat × Point),
      tableModify (tableModify l i (fun _ => p)) i (fun _ => q) = tableModify l i (fun _ => q) := by
    intro l
    simp only [tableModify, List.map_map]
    refine List.map_congr_left fun e _ => ?_
    by_cases h : e.1 = i <;> simp [h]
  simp only [State.setPoint, twice]

/-! ## Notices and items -/

theorem pointNotice_acts (s : State) (i : Nat) (n c : Bool) : Acts w s (pointNotice s i n c) := by
  unfold pointNotice
  split
  · exact (Act.deliver _ _ _).acts
  · exact .refl s

theorem areaNotice_acts (s : State) (a : Area) (b : Option Party) : Acts w s (areaNotice s a b) := by
  unfold areaNotice
  split
  · exact .refl s
  · exact (Act.deliver _ _ _).acts

theorem announce_acts (s : State) (i : Nat) (c : Change) : Acts w s (announce s i c) := by
  unfold announce
  split
  · refine Acts.act ?_ (.handItems _ _ _ _)
    split
    · exact .refl s
    · exact pointNotice_acts _ _ _ _
  · exact .refl s

/-! ## The group unit -/

theorem headBecameActive_acts (s : State) (g : GroupIdx) : Acts w s (headBecameActive s g) := by
  unfold headBecameActive
  split
  · rename_i x hx
    refine Act.acts (.setGroup s g x _ hx ?_ ?_)
    · rfl
    · simp
  · exact .refl s

theorem headBecameInactive_acts (s : State) (g : GroupIdx) : Acts w s (headBecameInactive s g) := by
  unfold headBecameInactive
  split
  · rename_i x hx
    split
    · split
      · exact (Act.releaseGroup s g x hx).acts
      · refine Act.acts (.setGroup s g x _ hx ?_ ?_)
        · rfl
        · simp
    · exact .refl s
  · exact .refl s

theorem groupTold_acts (s : State) (i : Nat) (b : Bool) : Acts w s (groupTold s i b) := by
  unfold groupTold
  split
  · split
    · split
      · exact .refl s
      · split
        · exact headBecameActive_acts _ _
        · exact headBecameInactive_acts _ _
    · exact .refl s
  · exact .refl s

theorem handOn_acts (s : State) (i : Nat) (old : Point) (c : Change) : Acts w s (handOn s i old c) :=
  (announce_acts _ _ _).trans (groupTold_acts _ _ _)

/-- A write of a point that is then handed on. -/
theorem setPoint_handOn_acts {s : State} {i : Nat} {p q : Point} (h : s.point i = some p)
    (hf : Follows s p q) (hs : q.shelved = p.shelved) (old : Point) (c : Change) :
    Acts w s (handOn (s.setPoint i q) i old c) :=
  (Act.setPoint s i p q h hf hs).acts.trans (handOn_acts _ _ _ _)

/-! ## The engine -/

theorem weightedRaise_acts (s : State) (a : Area) (n : Nat) : Acts w s (weightedRaise s a n) :=
  (Act.applyLoad _ _ _ (by omega)).acts

theorem countMuted_acts (s : State) (a : Area) : Acts w s (countMuted s a) := by
  refine Act.acts (.setLoad _ _ _ ?_ ?_ ?_)
  · rfl
  · rfl
  · simp only
    omega

/-- An annunciated raise comes only to a point that no group of its own blocks, and is deliverable. -/
theorem annunciate_acts {s : State} {i : Nat} {p : Point} (t : Time) (h : s.point i = some p)
    (hd : p.delivered = true ∨ p.inService = true) (hq : s.wouldBeQuiet p = false) :
    Acts w s (annunciate s i p (s.newOccurrence p t)) := by
  have unblocked : s.blocks p = false := by
    simp only [State.wouldBeQuiet, Bool.or_eq_false_iff] at hq
    exact hq.2
  unfold annunciate
  dsimp only
  generalize hr : ({ s.newOccurrence p t with state := .unackActive, raiseSerial := s.serial + 1 } : Point)
    = raised
  have follows : Follows s p raised := by
    subst hr
    refine ⟨rfl, rfl, fun k => ⟨fun e => ?_, fun e => rfl, rfl, k.chatter⟩, fun k e => ?_⟩
    · have e : p.inService = false := e
      obtain ⟨_, nd, _⟩ := k.idle e
      simp [nd, e] at hd
    · simp [unblocked] at k
      exact absurd e (by simp [State.newOccurrence, k])
  have shelved : raised.shelved = p.shelved := by subst hr; rfl
  have written : Acts w s ({ s with serial := s.serial + 1 }.setPoint i raised) :=
    (Act.setSerial s i p h _).acts.act
      (.setPoint { s with serial := s.serial + 1 } i p raised h
        ⟨follows.group, follows.headOf, follows.sound, follows.suppressed⟩ shelved)
  have loaded := written.trans (weightedRaise_acts _ (s.newOccurrence p t).cfg.area
    (s.newOccurrence p t).cfg.priority)
  split
  · have at_i : (countMuted (weightedRaise ({ s with serial := s.serial + 1 }.setPoint i raised)
        (s.newOccurrence p t).cfg.area (s.newOccurrence p t).cfg.priority)
        (s.newOccurrence p t).cfg.area).point i = some raised := by
      rw [(countMuted_changes _ _).at_point, (weightedRaise_changes _ _ _).at_point]
      exact setPoint_point_of (s := { s with serial := s.serial + 1 }) h raised
    refine (loaded.trans (countMuted_acts _ _)).trans (setPoint_handOn_acts at_i ?_ ?_ _ _)
    · subst hr
      exact .of_sameState rfl rfl (fun k => ⟨k.idle, k.escalated, k.serial, k.chatter⟩) rfl rfl
    · subst hr
      rfl
  · exact loaded.trans (handOn_acts _ _ _ _)

theorem quietRaise_acts {s : State} {i : Nat} {p : Point} (t : Time) (h : s.point i = some p)
    (hd : p.delivered = true ∨ p.inService = true) :
    Acts w s (quietRaise s i p (s.newOccurrence p t)) := by
  refine setPoint_handOn_acts h ?_ ?_ _ _
  case refine_2 => rfl
  refine ⟨rfl, rfl, fun k => ⟨fun e => ?_, fun e => ?_, rfl, k.chatter⟩, fun k e => ⟨rfl, ?_⟩⟩
  · have e : p.inService = false := e
    obtain ⟨_, nd, _⟩ := k.idle e
    simp [nd, e] at hd
  · exact absurd e (by simp [State.newOccurrence])
  · rcases (Bool.or_eq_true _ _).mp e with e | e
    · exact (k e).2
    · exact e

theorem folds_states {p : Point} {t : Time} (h : p.folds t = true) :
    p.state = .unackReturned ∨ p.state = .latched ∨ p.state = .normal := by
  unfold Point.folds at h
  split at h
  · simp at h
  · simp only [Bool.and_eq_true, Bool.or_eq_true, beq_iff_eq] at h
    tauto

theorem foldRaise_acts {s : State} {i : Nat} {p : Point} {t : Time} (h : s.point i = some p)
    (hd : p.delivered = true ∨ p.inService = true) (hf : p.folds t = true) :
    Acts w s (foldRaise s i p) := by
  have states := folds_states hf
  refine setPoint_handOn_acts h ?_ ?_ _ _
  case refine_2 => rfl
  refine ⟨rfl, rfl, fun k => ⟨fun e => ?_, fun e => ?_, k.serial, ?_⟩, fun k e => ?_⟩
  · have e : p.inService = false := e
    obtain ⟨_, nd, _⟩ := k.idle e
    simp [nd, e] at hd
  · have := k.escalated e
    simp [this] at states
  · simp only [State.folded]
    omega
  · rcases (Bool.or_eq_true _ _).mp e with e | e
    · have := (k e).1
      simp [this] at states
    · exact ⟨by simp [State.folded, State.wouldBeQuiet, e], e⟩

/-- The engine takes a raise of a point to which one can be delivered. -/
theorem engineRaise_acts {s : State} {i : Nat} {p : Point} (t : Time) (h : s.point i = some p)
    (hd : p.delivered = true ∨ p.inService = true) : Acts w s (engineRaise s i t) := by
  unfold engineRaise
  rw [h]
  dsimp only
  split
  · exact foldRaise_acts h hd ‹_›
  · unfold freshRaise
    dsimp only
    split
    · exact quietRaise_acts t h hd
    · rename_i hq
      exact annunciate_acts t h hd (by simpa using hq)

theorem returned_follows (s : State) (p : Point) (t : Time) (b : Bool) : Follows s p (p.returned t b) := by
  refine ⟨rfl, rfl, fun k => ⟨fun e => ?_, fun e => ?_, rfl, k.chatter⟩, fun k e => ?_⟩
  · obtain ⟨n, d, u⟩ := k.idle e
    exact ⟨by simp [Point.returned, Point.returnState, n], d, u⟩
  · exact absurd e (by simp [Point.returned])
  · simp only [Point.returned, Bool.and_eq_true, bne_iff_ne] at e
    exact absurd (k e.1).1 e.2

theorem engineReturn_acts (s : State) (i : Nat) (t : Time) (b : Bool) : Acts w s (engineReturn s i t b) := by
  unfold engineReturn
  split
  · rename_i p h
    dsimp only
    split
    · exact (Act.setPoint s i p _ h (returned_follows s p t b) rfl).acts
    · exact setPoint_handOn_acts h (returned_follows s p t b) rfl _ _
  · exact .refl s

theorem acknowledged_follows (s : State) {p : Point} (a : AckRecord) (h : p.state.unacked = true) :
    Follows s p (p.acknowledged a) := by
  simp only [AlarmState.unacked, Bool.or_eq_true, beq_iff_eq] at h
  refine ⟨rfl, rfl, fun k => ⟨fun e => ?_, fun e => ?_, rfl, k.chatter⟩, fun k e => ?_⟩
  · obtain ⟨n, d, u⟩ := k.idle e
    simp [n] at h
  · exact absurd e (by simp [Point.acknowledged])
  · have := (k e).1
    simp [this] at h

theorem acknowledge_acts {s : State} {i : Nat} {p : Point} (a : AckRecord) (h : s.point i = some p)
    (hu : p.state.unacked = true) : Acts w s (acknowledge s i p a) :=
  setPoint_handOn_acts h (acknowledged_follows s a hu) rfl _ _

theorem escalate_acts {s : State} {i : Nat} {p : Point} (h : s.point i = some p)
    (hu : p.state = .unackActive) : Acts w s (escalate s i p) := by
  refine Acts.trans (Act.setSerial s i p h (s.serial + 1)).acts
    (setPoint_handOn_acts (s := { s with serial := s.serial + 1 }) h ?_ ?_ _ _)
  case refine_2 => rfl
  exact .of_sameState rfl rfl (fun k => ⟨fun e => k.idle e, fun _ => hu, rfl, k.chatter⟩) rfl rfl

/-- An event is delivered to a point once it has been written to take it. -/
theorem deliverEvent_after_acts {s : State} {i : Nat} {p q : Point} (raise : Bool) (t : Time) (b : Bool)
    (h : s.point i = some p) (hf : Follows s p { q with delivered := raise })
    (hs : q.shelved = p.shelved) : Acts w s (deliverEvent (s.setPoint i q) i raise t b) := by
  have at_i := setPoint_point_of h { q with delivered := raise }
  unfold deliverEvent
  rw [setPoint_point_of h q]
  dsimp only
  rw [setPoint_setPoint]
  refine (Act.setPoint s i p _ h hf hs).acts.trans ?_
  split
  · rename_i hr
    exact engineRaise_acts t at_i (.inl hr)
  · exact engineReturn_acts _ _ _ _

theorem deliverEvent_acts {s : State} {i : Nat} {p : Point} (raise : Bool) (t : Time) (b : Bool)
    (h : s.point i = some p) (serv : p.inService = true) : Acts w s (deliverEvent s i raise t b) := by
  have at_i := setPoint_point_of h { p with delivered := raise }
  unfold deliverEvent
  rw [h]
  dsimp only
  refine (Act.setPoint s i p { p with delivered := raise } h
    (.of_sameState rfl rfl (fun k => ⟨fun e => by simp [serv] at e, k.escalated, k.serial, k.chatter⟩)
      rfl rfl) rfl).acts.trans ?_
  split
  · rename_i hr
    exact engineRaise_acts t at_i (.inl hr)
  · exact engineReturn_acts _ _ _ _

/-! ## The evaluator -/

theorem handleCondition_acts {s : State} {i : Nat} {p : Point} (now : Bool) (h : s.point i = some p) :
    Acts w s (handleCondition s i p now) := by
  have put : ∀ x : Option PendingPart, (p.inService = false → x = p.pendingPart) →
      Act w [.points] s (s.setPoint i
        { p with cond := conditionOf now, lastKnown := some now, pendingPart := x }) := fun x hx =>
    .setPoint s i p _ h (.of_sameState rfl rfl (fun k => ⟨fun e => ?_, k.escalated, k.serial, k.chatter⟩)
      rfl rfl) rfl
  · unfold handleCondition
    dsimp only
    split
    · exact .refl s
    · split
      · exact (put p.pendingPart (fun _ => rfl)).acts
      · rename_i serv
        have serv : p.inService = true := by simpa using serv
        split
        · exact (put none (fun e => by simp [serv] at e)).acts
        · generalize (if now = true then p.cfg.onDelay else p.cfg.offDelay) = delay
          split
          · exact (put p.pendingPart (fun _ => rfl)).acts.trans
              (deliverEvent_acts _ _ _ (setPoint_point_of h _) serv)
          · exact (put _ (fun e => by simp [serv] at e)).acts
  · obtain ⟨n, d, u⟩ := k.idle e
    exact ⟨n, d, (hx e).trans u⟩

theorem evaluatePoint_acts (s : State) (v : Word16) (i : Nat) : Acts w s (evaluatePoint s v i) := by
  unfold evaluatePoint
  split
  · exact handleCondition_acts _ ‹_›
  · exact .refl s

theorem loseInput_acts (s : State) (i : Nat) : Acts w s (loseInput s i) := by
  unfold loseInput
  split
  · rename_i p h
    refine Acts.trans (Act.acts (.setPoint s i p _ h ?_ ?_)) (pointNotice_acts _ _ _ _)
    case refine_2 => rfl
    refine .of_sameState rfl rfl (fun k => ⟨fun e => ?_, k.escalated, k.serial, k.chatter⟩) rfl rfl
    obtain ⟨n, d, _⟩ := k.idle e
    exact ⟨n, d, rfl⟩
  · exact .refl s

theorem regainInput_acts (s : State) (v : Word16) (i : Nat) : Acts w s (regainInput s v i) := by
  unfold regainInput
  split
  · rename_i p h
    refine Acts.trans (Act.acts (.setPoint s i p _ h ?_ ?_))
      ((evaluatePoint_acts _ _ _).trans (pointNotice_acts _ _ _ _))
    · exact .of_sameState rfl rfl (fun k => ⟨k.idle, k.escalated, k.serial, k.chatter⟩) rfl rfl
    · rfl
  · exact .refl s

theorem losePoints_acts (s : State) (c : Nat) : Acts w s (losePoints s c) := .foldl loseInput_acts _ _

theorem applyGood_acts (s : State) (c : Nat) (x : Channel) (v : Word16) :
    Acts w s (applyGood s c x v) := by
  have put : ∀ t c y, Acts w t (State.setChannel t c y) := fun t c y => (Act.setChannel t c y).acts
  unfold applyGood
  dsimp only
  cases x.quality
  case bad => exact (put _ _ _).trans (.foldl (fun t i => regainInput_acts t _ i) _ _)
  case stale => exact (put _ _ _).trans (.foldl (fun t i => regainInput_acts t _ i) _ _)
  case good => exact (put _ _ _).trans (.foldl (fun t i => evaluatePoint_acts t _ i) _ _)
  case never => exact (put _ _ _).trans (.foldl (fun t i => evaluatePoint_acts t _ i) _ _)

theorem applyBad_acts (s : State) (c : Nat) (x : Channel) : Acts w s (applyBad s c x) := by
  have put : ∀ t c y, Acts w t (State.setChannel t c y) := fun t c y => (Act.setChannel t c y).acts
  unfold applyBad
  dsimp only
  cases x.quality
  case good => exact (put _ _ _).trans (losePoints_acts _ _)
  case never => exact (put _ _ _).trans (losePoints_acts _ _)
  case bad => exact put _ _ _
  case stale => exact put _ _ _

theorem applyEntry_acts (x : State × Nat × Nat) (e : ReportEntry) : Acts w x.1 (applyEntry x e).1 := by
  unfold applyEntry
  split
  · exact .refl x.1
  · dsimp only
    split
    · exact applyGood_acts _ _ _ _
    · exact applyBad_acts _ _ _

theorem escalationCheck_acts (s : State) (i : Nat) : Acts w s (escalationCheck s i) := by
  unfold escalationCheck
  split
  · split
    · rename_i p h due
      refine escalate_acts h ?_
      simp only [State.escalationDue, Bool.and_eq_true, beq_iff_eq] at due
      exact due.1.1.1
    · exact .refl s
  · exact .refl s

theorem stalenessCheck_acts (s : State) (i : Nat) (b : Bool) : Acts w s (stalenessCheck s i b) := by
  unfold stalenessCheck
  split
  · split
    · split
      · exact (Act.setChannel _ _ _).acts.trans (losePoints_acts _ _)
      · exact .refl s
    · exact .refl s
  · exact .refl s

theorem chatterCheck_acts (s : State) (i : Nat) : Acts w s (chatterCheck s i) := by
  unfold chatterCheck
  split
  · rename_i p h
    split
    · refine Act.acts (.setPoint s i p _ h ?_ ?_)
      · exact .of_sameState rfl rfl (fun k => ⟨k.idle, k.escalated, k.serial, k.chatter⟩) rfl rfl
      · rfl
    · have put : Acts w s (s.setPoint i { p with chatterCount := 0, chattering := false }) := by
        refine Act.acts (.setPoint s i p _ h ?_ ?_)
        · exact .of_sameState rfl rfl
            (fun k => ⟨k.idle, k.escalated, k.serial, Nat.zero_le _⟩) rfl rfl
        · rfl
      dsimp only
      split
      · exact put.trans (handOn_acts _ _ _ _)
      · exact put
  · exact .refl s

end

end Sys2Proof.Proofs
end

/-! PROOFS. The acts of sessions, ports, records and requests, and of every command. -/

section
namespace Sys2Proof.Proofs

open Machine

section
variable {w : Bool}

/-! ## The handover unit -/

/-- What a change of causes leaves of a record, and where it takes its state (R157). -/
theorem followCauses_keeps (s : State) (r : Record) :
    (s.followCauses r).accepted = r.accepted ∧ (s.followCauses r).areas = r.areas ∧
    (s.followCauses r).flood = r.flood ∧ (s.followCauses r).outgoingLost = r.outgoingLost ∧
    (s.followCauses r).items = r.items ∧
    (r.accepted = true → ((s.followCauses r).state = .held ↔ r.caused = true)) := by
  unfold State.followCauses
  cases hs : r.state with
  | offered => simp [Record.accepted, hs]
  | overlap =>
    dsimp only
    split
    · simp_all [Record.accepted]
      rfl
    · simp_all [Record.accepted]
  | held =>
    dsimp only
    split
    · simp_all [Record.accepted]
    · simp_all [Record.accepted, State.enterOverlap]
      rfl

theorem caused_congr {q r : Record} (h : q.flood = r.flood) (k : q.outgoingLost = r.outgoingLost) :
    q.caused = r.caused := by
  simp only [Record.caused, h, k]

theorem followCauses_holds {s : State} {r r0 : Record} (hold : HoldsByCause s r0)
    (hs : r.state = r0.state) (ha : r.areas = r0.areas) (hf : r.flood = r0.flood) :
    HoldsByCause s (s.followCauses r) := by
  obtain ⟨acc, areas, flood, lost, _, held⟩ := followCauses_keeps s r
  intro h
  have h : r.accepted = true := acc ▸ h
  have h0 : r0.accepted = true := by simpa [Record.accepted, hs] using h
  exact ⟨by rw [flood, areas, hf, ha]; exact (hold h0).1, by rw [caused_congr flood lost]; exact held h⟩

/-- The write of a record whose state follows its causes, once CO-SIGN or the loss of its outgoing party has
changed them. -/
theorem setFollowed_act {s : State} {i : RecordIdx} {r r0 : Record} (h : s.record i = some r0)
    (hs : r.state = r0.state) (ha : r.areas = r0.areas) (hf : r.flood = r0.flood)
    (hi : r.items = r0.items) : Act w [.records] s (s.setRecord i (some (s.followCauses r))) := by
  refine .setRecord s i _ (fun items q hq => ?_) (fun holds q hq => ?_)
  · obtain rfl := Option.some.inj hq
    rw [(followCauses_keeps s r).2.2.2.2.1, hi]
    exact items r0 h
  · obtain rfl := Option.some.inj hq
    exact followCauses_holds (holds r0 h) hs ha hf

theorem changeCauses_acts {s : State} {i : RecordIdx} {r r0 : Record} (h : s.record i = some r0)
    (hs : r.state = r0.state) (ha : r.areas = r0.areas) (hf : r.flood = r0.flood)
    (hi : r.items = r0.items) : Acts w s (changeCauses s i r) := by
  have noticed : Acts w s (handoverNotice (s.setRecord i (some (s.followCauses r)))
      ((s.followCauses r).body i) (s.followCauses r).names) :=
    (setFollowed_act h hs ha hf hi).acts.act (.deliver _ _ _)
  unfold changeCauses
  dsimp only
  split
  · exact noticed
  · exact noticed.act (.enter _ _ _)

theorem removeRecord_act (s : State) (i : RecordIdx) : Act w [.records] s (s.setRecord i none) :=
  .setRecord s i none (by simp) (by simp)

theorem sessionsApart_congr {s t : State} (h : t.desks = s.desks) (k : SessionsApart s) : SessionsApart t := by
  have hd : ∀ d, t.desk d = s.desk d := fun d => by simp only [State.desk, h]
  intro d e x y
  rw [hd, hd]
  exact k d e x y

theorem changeAreas_defined (s : State) (set : Word16) (f : AreaRecord → AreaRecord) (a : Area) :
    ((changeAreas s set f).area a).isSome = (s.area a).isSome := by
  rw [changeAreas_area]
  split <;> simp

theorem changeOwner_acts (s : State) (set : Word16) (f : AreaRecord → AreaRecord) :
    Acts w s (changeOwner s set f) :=
  (Act.rederived ((changeAreas_changes s set f).mono (by decide)) (changeAreas_defined s set f)
    (sessionsApart_congr (changeAreas_changes s set f).desks) s .ownerChange set).acts

theorem endRecord_acts (s : State) (i : RecordIdx) (r : Record) (o : HandoverOutcome) (p : Option Port)
    (b : Option Badge) : Acts w s (endRecord s i r o p b) := by
  have start : Acts w s (if o.transfers then ownerTransfer s r
      else changeAreas s r.areas (fun x => { x with link := none })) := by
    split
    · exact changeOwner_acts _ _ _
    · exact Act.acts (.changeAreas _ _ _ (fun _ => ⟨rfl, rfl⟩))
  exact ((start.act (removeRecord_act _ i)).act (.deliver _ _ _)).act (.enter _ _ _)

theorem endOverruns_acts (s : State) : Acts w s (endOverruns s) := by
  refine .foldl (fun t i => ?_) _ _
  split
  · split
    · exact endRecord_acts _ _ _ _ _ _
    · exact .refl t
  · exact .refl t

theorem sessionTold_acts (s : State) (d : Desk) (b : Badge) (x : Option Presence) :
    Acts w s (sessionTold s d b x) := by
  refine .foldl (fun t i => ?_) _ _
  split
  · rename_i r h
    split
    · exact endRecord_acts _ _ _ _ _ _
    · split
      · exact changeCauses_acts h rfl rfl rfl rfl
      · exact .refl t
  · exact .refl t

theorem decayArea_acts (s : State) (a : Area) : Acts w s (decayArea s a) := by
  unfold decayArea
  split
  · refine (Act.applyLoad s a _ ?_).acts.trans (endOverruns_acts _)
    unfold decayed
    omega
  · exact .refl s

theorem reevaluateArea_acts (s : State) (a : Area) : Acts w s (reevaluateArea s a) := by
  unfold reevaluateArea
  split
  · exact (Act.applyLoad s a _ (by omega)).acts.trans (endOverruns_acts _)
  · exact .refl s

/-! ## Sessions -/

/-- A session written at a desk keeps the badges apart when its badge was there before, or at no desk. -/
theorem sessionsApart_setDesk {s : State} {d : Desk} {y : DeskState}
    (h : ∀ x, y.session = some x → (∃ z, (s.desk d).session = some z ∧ z.badge = x.badge) ∨
      ∀ e z, (s.desk e).session = some z → z.badge ≠ x.badge)
    (k : SessionsApart s) : SessionsApart (s.setDesk d y) := by
  have other : ∀ {e x z}, y.session = some x → e ≠ d → (s.desk e).session = some z → z.badge ≠ x.badge := by
    intro e x z hx he hz hb
    rcases h x hx with ⟨z', hz', hb'⟩ | h
    · exact he (k e d z z' hz hz' (hb.trans hb'.symm))
    · exact h e z hz hb
  intro e f x z hx hz hb
  by_cases he : e = d <;> by_cases hf : f = d
  · rw [he, hf]
  · subst he
    rw [setDesk_desk] at hx
    rw [setDesk_desk_ne _ _ hf] at hz
    exact absurd hb.symm (other hx hf hz)
  · subst hf
    rw [setDesk_desk] at hz
    rw [setDesk_desk_ne _ _ he] at hx
    exact absurd hb (other hz he hx)
  · rw [setDesk_desk_ne _ _ he] at hx
    rw [setDesk_desk_ne _ _ hf] at hz
    exact k e f x z hx hz hb

/-- A session change is handed on from a state in which ports and desks have been written. -/
theorem sessionChanged_acts {s u : State} (h : OnlyChanges [.ports, .desks] s u)
    (apart : SessionsApart s → SessionsApart u) (d : Desk) (b : Badge) (x y : Option Presence) (c : Cause) :
    Acts w s (sessionChanged u d b x y c) := by
  have derived : Acts w s (rederive u c 0 u) :=
    (Act.rederived (h.mono (by decide)) (fun a => by rw [h.at_area]) apart _ _ _).acts
  exact ((derived.trans (sessionTold_acts _ _ _ _)).act (.deliver _ _ _)).act (.enter _ _ _)

theorem interact_acts (s : State) (d : Desk) : Acts w s (interact s d) := by
  unfold interact
  cases h : (s.desk d).session with
  | none => exact .refl s
  | some x =>
    dsimp only
    split
    · rename_i active
      refine Act.acts (.setDesk s d _ ?_)
      simp [sessionView, h, State.touched, active]
    · refine sessionChanged_acts ((setDesk_changes _ _ _).mono (by decide))
        (sessionsApart_setDesk fun y hy => ?_) _ _ _ _ _
      obtain rfl := Option.some.inj hy
      exact .inl ⟨x, h, rfl⟩

theorem fadeSession_acts {s : State} {d : Desk} {x : Session} (h : (s.desk d).session = some x)
    (dest : Presence) (c : Cause) : Acts w s (fadeSession s d x dest c) := by
  refine sessionChanged_acts ((setDesk_changes _ _ _).mono (by decide))
    (sessionsApart_setDesk fun y hy => ?_) _ _ _ _ _
  obtain rfl := Option.some.inj hy
  exact .inl ⟨x, h, rfl⟩

theorem endSession_acts (s : State) (d : Desk) (c : Cause) : Acts w s (endSession s d c) := by
  unfold endSession
  split
  · exact .refl s
  · exact sessionChanged_acts ((setDesk_changes _ _ _).mono (by decide))
      (sessionsApart_setDesk (by simp)) _ _ _ _ _

theorem endRevoked_acts (s : State) (b : Badge) : Acts w s (endRevoked s b) := by
  unfold endRevoked
  split
  · exact endSession_acts _ _ _
  · exact .refl s

/-! ## Ports and gateways -/

theorem setGateway_act (s : State) (g : Gateway) (x : GatewayState) :
    Act w inertFields s (s.setGateway g x) :=
  .inert ((setGateway_changes s g x).mono (by decide))

theorem exchangeRoles_acts (s : State) (g : Gateway) (c : Byte) : Acts w s (exchangeRoles s g c) :=
  ((setGateway_act _ _ _).acts.act (setGateway_act _ _ _)).act (.enter _ _ _)

theorem judgeRoles_acts (s : State) : Acts w s (judgeRoles s) := by
  unfold judgeRoles
  split
  · split
    · exact exchangeRoles_acts _ _ _
    · exact .refl s
  · exact .refl s

theorem ne_deskPort_of_split {p : Port} {g : Gateway} (h : splitPort p = .inr g) (d : Desk) :
    p ≠ deskPort d := by
  rintro rfl
  simp at h

theorem hear_acts (s : State) (p : Port) : Acts w s (hear s p) := by
  unfold hear
  dsimp only
  split
  · rename_i good
    exact Act.acts (.setPort s p _ (fun _ _ => good.symm))
  · split
    · exact Act.acts (.rederived ((setPort_changes _ _ _).mono (by decide)) (fun _ => rfl) id _ _ _)
    · rename_i g hg
      exact (Act.setPort s p _ (fun d hd => absurd hd (ne_deskPort_of_split hg d))).acts.trans
        (judgeRoles_acts _)

theorem gatewayPort_ne_deskPort (g : Gateway) (d : Desk) : gatewayPort g ≠ deskPort d :=
  ne_deskPort_of_split (splitPort_gatewayPort g) d

theorem changeHealth_acts (s : State) (g : Gateway) (y : GatewayState) : Acts w s (changeHealth s g y) := by
  have put : Acts w s (s.setGateway g y) := (setGateway_act _ _ _).acts
  unfold changeHealth
  dsimp only
  split
  · exact put
  · refine Acts.act (Acts.trans ?_ (judgeRoles_acts _)) (.enter _ _ _)
    split
    · exact put.act (.setPort _ _ _ (fun _ _ => rfl))
    · exact put

theorem beginTransaction_acts (s : State) (p : Port) (ev : FrameEvent) :
    Acts w s (beginTransaction s p ev) := by
  unfold beginTransaction
  split
  · exact hear_acts _ _
  · dsimp only
    split
    · exact (hear_acts s p).trans (changeHealth_acts _ _ _)
    · exact ((hear_acts s p).trans (changeHealth_acts _ _ _)).act (.deliver _ _ _)

theorem becomeSilent_acts (s : State) (p : Port) : Acts w s (becomeSilent s p) := by
  unfold becomeSilent
  dsimp only
  split
  · rename_i d hd
    have rederived : ∀ u : State, Acts w u (rederive u .portLost 0 u) := fun u =>
      Act.acts (.rederived (.refl u) (fun _ => rfl) id _ _ _)
    unfold endSession
    split
    · exact Act.acts (.rederived ((setPort_changes _ _ _).mono (by decide)) (fun _ => rfl) id _ _ _)
    · refine Acts.trans (sessionChanged_acts ?_ ?_ _ _ _ _ _) (rederived _)
      · exact ((setPort_changes _ _ _).mono (by decide)).trans ((setDesk_changes _ _ _).mono (by decide))
      · exact fun k => sessionsApart_setDesk (by simp) (sessionsApart_congr (setPort_desks _ _ _) k)
  · rename_i g hg
    exact ((Act.setPort s p _ (fun d hd => absurd hd (ne_deskPort_of_split hg d))).acts.trans
      (judgeRoles_acts _)).act (.deliver _ _ _)

end

end Sys2Proof.Proofs
end

/-! PROOFS. The acts of every request and of every command. -/

section
namespace Sys2Proof.Proofs

open Machine

section
variable {w : Bool}

/-! ## Checks -/

/-- A check that refuses leaves the state; the acts are those of what follows it. -/
theorem refuseIf_acts {s t : State} {c : Prop} [Decidable c] {r : Reply} {k : State × Reply}
    (h : Acts w s t) (next : ¬c → Acts w s k.1) : Acts w s (if c then (t, r) else k).1 := by
  split
  · exact h
  · exact next ‹_›

theorem withSession_acts {s : State} {d : Desk} {k : State → Session → State × Reply}
    (h : ∀ t x, Acts w t (k t x).1) : Acts w s (withSession s d k).1 := by
  unfold withSession
  dsimp only
  split
  · exact (interact_acts s d).trans (h _ _)
  · exact interact_acts s d

theorem onPoint_acts {s : State} {d : Desk} {i : Word16} {perm : Permission} {limit : State → Point → Bool}
    {k : State → Session → Nat → Point → State × Reply}
    (h : ∀ t x p, t.point i.toNat = some p → Acts w t (k t x i.toNat p).1) :
    Acts w s (onPoint s d i perm limit k).1 := by
  unfold onPoint
  split
  · exact .refl s
  · refine withSession_acts fun t x => ?_
    split
    · exact .refl t
    · refine refuseIf_acts (.refl t) fun _ => refuseIf_acts (.refl t) fun _ =>
        refuseIf_acts (.refl t) fun _ => ?_
      exact h t x _ ‹_›

theorem onArea_acts {s : State} {d : Desk} {b : Byte} {perm : Permission}
    {k : State → Session → Area → State × Reply} (h : ∀ t x a, Acts w t (k t x a).1) :
    Acts w s (onArea s d b perm k).1 := by
  unfold onArea
  split
  · exact .refl s
  · exact withSession_acts fun t x => refuseIf_acts (.refl t) fun _ => refuseIf_acts (.refl t) fun _ =>
      h t x _

theorem referred_record {s : State} {i : RecordIdx} {n : Word16} {r : Record}
    (h : s.referred i n = some r) : s.record i = some r := by
  unfold State.referred at h
  cases hr : s.record i with
  | none => simp [hr] at h
  | some q =>
    simp only [hr, Option.bind_some] at h
    split at h
    · exact h
    · simp at h

theorem onRecord_acts {s : State} {d : Desk} {i : Byte} {n : Word16}
    {k : State → Session → RecordIdx → Record → State × Reply}
    (h : ∀ t x j r, t.record j = some r → Acts w t (k t x j r).1) :
    Acts w s (onRecord s d i n k).1 := by
  unfold onRecord
  split
  · exact .refl s
  · refine withSession_acts fun t x => ?_
    split
    · exact .refl t
    · exact h t x _ _ (referred_record ‹_›)

theorem onRecordSupervised_acts {s : State} {d : Desk} {i : Byte} {n : Word16}
    {k : State → Session → RecordIdx → Record → State × Reply}
    (h : ∀ t x j r, t.record j = some r → Acts w t (k t x j r).1) :
    Acts w s (onRecordSupervised s d i n k).1 := by
  unfold onRecordSupervised
  split
  · exact .refl s
  · refine withSession_acts fun t x => refuseIf_acts (.refl t) fun _ => ?_
    split
    · exact .refl t
    · exact h t x _ _ (referred_record ‹_›)

/-- Every request at a desk acts. -/
def RuleActs (w : Bool) (rule : DeskRule) : Prop := ∀ d body s, Acts w s (rule d body s).1

/-! ## Alarms, the horn and the journal -/

theorem ackPointRule_acts : RuleActs w ackPointRule := by
  intro d body s
  unfold ackPointRule
  split
  · refine onPoint_acts fun t x p h => refuseIf_acts (.refl t) fun _ => refuseIf_acts (.refl t) fun hu => ?_
    exact (acknowledge_acts _ h (by simpa using hu)).act (.enter _ _ _)
  · exact .refl s

theorem ackVisit_acts (d : Desk) (a : Area) (seen : MillTime) (x : Session) (acc : State × Nat) (i : Nat) :
    Acts w acc.1 (ackVisit d a seen x acc i).1 := by
  unfold ackVisit
  split
  · split
    · rename_i p h due
      simp only [State.ackable, Bool.and_eq_true] at due
      exact acknowledge_acts _ h due.1.1.2
    · exact .refl _
  · exact .refl _

theorem ackAreaRule_acts : RuleActs w ackAreaRule := by
  intro d body s
  unfold ackAreaRule
  split
  · exact onArea_acts fun t x a => Acts.act (Acts.foldl_with (x := (t, 0)) (ackVisit_acts d a _ x) _) (.enter _ _ _)
  · exact .refl s

theorem resetPointRule_acts : RuleActs w resetPointRule := by
  intro d body s
  unfold resetPointRule
  split
  · refine onPoint_acts fun t x p h => refuseIf_acts (.refl t) fun hl => ?_
    have latched : p.state = .latched := by simpa using hl
    refine Acts.act (setPoint_handOn_acts h ?_ ?_ _ _) (.enter _ _ _)
    · refine ⟨rfl, rfl, fun k => ⟨fun e => ?_, fun e => ?_, k.serial, k.chatter⟩, fun k e => ?_⟩
      · simpa [latched] using k.idle e
      · simpa [latched] using k.escalated e
      · simpa [latched] using (k e).1
    · rfl
  · exact .refl s

theorem silenceRule_acts : RuleActs w silenceRule := by
  intro d body s
  unfold silenceRule
  split
  · exact withSession_acts fun t x =>
      (Act.acts (.inert ((setMark_changes _ _ _).mono (by decide)))).act (.enter _ _ _)
  · exact .refl s

theorem queryListRule_acts : RuleActs w queryListRule := by
  intro d body s
  unfold queryListRule
  split
  · dsimp only
    split
    · exact .refl s
    · exact refuseIf_acts (.refl s) fun _ => withSession_acts fun t x =>
        refuseIf_acts (.refl t) fun _ => refuseIf_acts (.refl t) fun _ => .refl t
  · exact .refl s

theorem readJournalRule_acts : RuleActs w readJournalRule := by
  intro d body s
  unfold readJournalRule
  split
  · exact refuseIf_acts (.refl s) fun _ => withSession_acts fun t x => refuseIf_acts (.refl t) fun _ =>
      (Act.drain t _).acts
  · exact .refl s

/-! ## Shelving and service -/

theorem whenShelved_follows {s : State} {p : Point} (a : AckRecord) (serv : p.inService = true) :
    Follows s p (p.whenShelved a) ∧ (p.whenShelved a).shelved = true := by
  unfold Point.whenShelved
  split
  all_goals refine ⟨⟨rfl, rfl, fun k => ⟨fun e => ?_, fun e => ?_, ?_, k.chatter⟩, fun k e => ?_⟩, rfl⟩
  all_goals simp_all
  all_goals first
    | exact k.serial
    | exact absurd (k.escalated e) (by simp_all)

theorem shelveTaken_acts {s : State} {d : Desk} {x : Session} {i : Nat} {p : Point} {seconds : Nat}
    {reason : Byte} (h : s.point i = some p) (serv : p.inService = true)
    (room : p.shelved = false → s.shelf.length < Config.shelveCapacity) :
    Acts w s (shelveTaken s d x i p seconds reason).1 := by
  refine Acts.act (t := if p.shelved then _ else _) ?_ (.enter _ _ _)
  split
  · rename_i hs
    exact (Act.reshelve s i p _ _ h hs rfl (Nat.min_le_right _ _) rfl).acts
  · rename_i hs
    have before : p.shelved = false := by simpa using hs
    obtain ⟨follows, after⟩ := whenShelved_follows (s := s)
      { badge := x.badge, desk := d, mill := s.mill } serv
    exact (Act.shelve s i p _ _ _ h follows before after (room before) rfl (Nat.min_le_right _ _)
      rfl).acts.trans (handOn_acts _ _ _ _)

theorem shelveRule_acts : RuleActs w shelveRule := by
  intro d body s
  unfold shelveRule
  split
  · refine refuseIf_acts (.refl s) fun _ => onPoint_acts fun t x p h => refuseIf_acts (.refl t) fun hs =>
      refuseIf_acts (.refl t) fun hr => ?_
    refine shelveTaken_acts h (by simpa using hs) fun hp => ?_
    simpa [hp] using hr
  · exact .refl s

theorem unshelvePoint_acts (s : State) (i : Nat) : Acts w s (unshelvePoint s i) := by
  unfold unshelvePoint
  split
  · rename_i p h
    refine Acts.trans (Act.acts (.unshelve s i p _ h ?_ ?_)) (handOn_acts _ _ _ _)
    · refine .of_sameState rfl rfl (fun k => ⟨fun e => ?_, k.escalated, k.serial, k.chatter⟩) rfl rfl
      obtain ⟨n, d, u⟩ := k.idle e
      exact ⟨n, d, by simp [Point.unshelved, u]⟩
    · rfl
  · exact Act.acts (.dropEntry s i ‹_›)

theorem raiseAfterShelving_acts (s : State) (i : Nat) : Acts w s (raiseAfterShelving s i) := by
  unfold raiseAfterShelving
  split
  · split
    · rename_i p h due
      exact engineRaise_acts _ h (.inl due.2.1)
    · exact .refl s
  · exact .refl s

theorem unshelveRule_acts : RuleActs w unshelveRule := by
  intro d body s
  unfold unshelveRule
  split
  · refine onPoint_acts fun t x p h => ?_
    split
    · exact .refl t
    · exact ((unshelvePoint_acts _ _).act (.enter _ _ _)).trans (raiseAfterShelving_acts _ _)
  · exact .refl s

theorem setOutOfServiceRule_acts : RuleActs w setOutOfServiceRule := by
  intro d body s
  unfold setOutOfServiceRule
  split
  · refine onPoint_acts fun t x p h => refuseIf_acts (.refl t) fun _ => ?_
    refine Acts.act (Acts.trans (Act.acts (.unshelve t _ p _ h ?_ ?_)) (handOn_acts _ _ _ _)) (.enter _ _ _)
    · exact ⟨rfl, rfl, fun k => ⟨fun _ => ⟨rfl, rfl, rfl⟩, fun e => by simp [Point.outOfService] at e, rfl,
        Nat.zero_le _⟩, fun _ e => by simp [Point.outOfService] at e⟩
    · rfl
  · exact .refl s

theorem raiseOnReturn_acts {s : State} {i : Nat} (h : ∀ p, s.point i = some p → p.inService = true) :
    Acts w s (raiseOnReturn s i) := by
  unfold raiseOnReturn
  split
  · split
    · rename_i p hp _
      exact deliverEvent_acts _ _ _ hp (h p hp)
    · exact .refl s
  · exact .refl s

theorem returnToServiceRule_acts : RuleActs w returnToServiceRule := by
  intro d body s
  unfold returnToServiceRule
  split
  · refine onPoint_acts fun t x p h => refuseIf_acts (.refl t) fun _ => ?_
    refine Acts.trans (Acts.act (setPoint_handOn_acts h ?_ ?_ _ _) (.enter _ _ _))
      (raiseOnReturn_acts fun q hq => ?_)
    · exact .of_sameState rfl rfl (fun k => ⟨fun e => by simp at e, k.escalated, k.serial, k.chatter⟩)
        rfl rfl
    · rfl
    · rw [enter_at_point] at hq
      have at_i := setPoint_point_of h { p with inService := true }
      rcases handOn_point (t.setPoint _ { p with inService := true }) _ _ p {} with e | e
      · rw [e, at_i] at hq
        rw [← Option.some.inj hq]
      · rw [e, at_i] at hq
        rw [← Option.some.inj hq]
        rfl
  · exact .refl s

/-! ## Areas -/

theorem claimAreaRule_acts : RuleActs w claimAreaRule := by
  intro d body s
  unfold claimAreaRule
  split
  · split
    · exact .refl s
    · refine withSession_acts fun t x => ?_
      split
      · exact .refl t
      · exact refuseIf_acts (.refl t) fun _ => refuseIf_acts (.refl t) fun _ =>
          refuseIf_acts (.refl t) fun _ => refuseIf_acts (.refl t) fun _ =>
          (changeOwner_acts _ _ _).act (.enter _ _ _)
  · exact .refl s

theorem releaseAreaRule_acts : RuleActs w releaseAreaRule := by
  intro d body s
  unfold releaseAreaRule
  split
  · split
    · exact .refl s
    · refine withSession_acts fun t x => refuseIf_acts (.refl t) fun _ => refuseIf_acts (.refl t) fun _ => ?_
      split
      · exact .refl t
      · exact (changeOwner_acts _ _ _).act (.enter _ _ _)
  · exact .refl s

/-- A burst leaves its queue legal: each of its notices is pushed (R98 to R100, R138). -/
theorem burst_legal {c : Nat} (hc : 0 < c) (l : List (Nat × Point)) (b : BurstState)
    (h : QueueLegal c b.queue) : QueueLegal c (l.foldl (burstStep c) b).queue := by
  induction l generalizing b with
  | nil => exact h
  | cons e rest ih => exact ih _ (queueLegal_push _ hc h)

theorem queueCapacity_pos (d : Desk) : 0 < queueCapacity d := by
  revert d; decide

theorem relocateTaken_acts (s : State) (d : Desk) (x : Session) (set : Word16) (owner : Party) :
    Acts w s (relocateTaken s d x set owner).1 := by
  have queued : Acts w s (s.setQueue (consoleDesk owner.console)
      ((s.burst set).foldl (burstStep (queueCapacity (consoleDesk owner.console)))
        { queue := s.queue (consoleDesk owner.console), placed := [], overflowed := false }).queue) :=
    (Act.setQueue _ _ _ (burst_legal (queueCapacity_pos _) (s.burst set)
      { queue := s.queue (consoleDesk owner.console), placed := [], overflowed := false })).acts
  exact (queued.trans (changeOwner_acts _ _ _)).trans (.foldl (fun t a => (Act.enter t _ _).acts) _ _)

theorem relocateRule_acts : RuleActs w relocateRule := by
  intro d body s
  unfold relocateRule
  split
  · refine refuseIf_acts (.refl s) fun _ => ?_
    split
    · exact .refl s
    · refine refuseIf_acts (.refl s) fun _ => withSession_acts fun t x => refuseIf_acts (.refl t) fun _ =>
        refuseIf_acts (.refl t) fun _ => ?_
      split
      · exact .refl t
      · split
        · exact .refl t
        · refine refuseIf_acts (.refl t) fun _ => ?_
          split
          · exact .refl t
          · exact relocateTaken_acts _ _ _ _ _
  · exact .refl s

/-! ## Shift handover -/

theorem offerTaken_acts {s : State} (d : Desk) (x : Session) (outgoing : Party) (set : Word16)
    (target : Option Console) (i : RecordIdx) :
    Acts w s (offerTaken s d x outgoing set target i).1 := by
  refine Acts.act (Acts.act (Acts.act (Acts.act (Act.acts (.inert (t :=
    { s with handoverCounter := s.handoverCounter + 1 }) ?_)) (.setRecord _ i _ ?_ ?_))
    (.changeAreas _ set _ ?_)) (.deliver _ _ _)) (.enter _ _ _)
  · intro f hf
    cases f <;> first | rfl | simp [inertFields] at hf
  · intro _ r hr
    rw [← Option.some.inj hr]
    exact Nat.zero_le _
  · intro _ r hr
    rw [← Option.some.inj hr]
    intro acc
    exact absurd acc (by simp [Record.accepted])
  · exact fun _ => ⟨rfl, rfl⟩

theorem offerRule_acts : RuleActs w offerRule := by
  intro d body s
  unfold offerRule
  split
  · dsimp only
    split
    · exact .refl s
    · refine refuseIf_acts (.refl s) fun _ => refuseIf_acts (.refl s) fun _ =>
        withSession_acts fun t x => ?_
      split
      · exact .refl t
      · split
        · exact .refl t
        · split
          · exact .refl t
          · split
            · exact .refl t
            · refine refuseIf_acts (.refl t) fun _ => ?_
              split
              · exact .refl t
              · exact offerTaken_acts _ _ _ _ _ _
  · exact .refl s

/-- An accepted record has at most the items the part holds, and its state follows its causes (R147). -/
theorem accepted_record (s : State) (r : Record) (p : Party) :
    (s.accepted r p).items.length ≤ Config.itemCapacity ∧ HoldsByCause s (s.accepted r p) := by
  have items : (((s.gathered r.areas).take Config.itemCapacity).map (fun e => itemOf e.1 e.2)).length ≤
      Config.itemCapacity := by
    rw [List.length_map]
    exact List.length_take_le _ _
  unfold State.accepted
  dsimp only
  split
  · rename_i hc
    exact ⟨items, fun _ => ⟨rfl, fun _ => hc, fun _ => rfl⟩⟩
  · rename_i hc
    refine ⟨items, fun _ => ⟨rfl, fun h => ?_, fun h => ?_⟩⟩
    · exact absurd h (by simp [State.enterOverlap])
    · exact absurd h hc

theorem acceptTaken_acts (s : State) (d : Desk) (x : Session) (c : Console) (i : RecordIdx) (r : Record) :
    Acts w s (acceptTaken s d x c i r).1 := by
  obtain ⟨items, holds⟩ := accepted_record s r { console := c, badge := x.badge }
  have put : Act w [.records] s
      (s.setRecord i (some (s.accepted r { console := c, badge := x.badge }))) := by
    refine .setRecord s i _ (fun _ q hq => ?_) (fun _ q hq => ?_)
    · rw [← Option.some.inj hq]; exact items
    · rw [← Option.some.inj hq]; exact holds
  have entered : ∀ b names k f, Acts w s ((handoverNotice (s.setRecord i
      (some (s.accepted r { console := c, badge := x.badge }))) b names).enter k f) := fun b names k f =>
    (put.acts.act (.deliver _ _ _)).act (.enter _ _ _)
  unfold acceptTaken
  dsimp only
  split
  · exact Acts.act (entered _ _ _ _) (.enter _ _ _)
  · exact entered _ _ _ _

theorem acceptRule_acts : RuleActs w acceptRule := by
  intro d body s
  unfold acceptRule
  split
  · refine onRecord_acts fun t x j r h => ?_
    split
    · exact .refl t
    · split
      · exact .refl t
      · split
        · exact .refl t
        · exact refuseIf_acts (.refl t) fun _ => acceptTaken_acts _ _ _ _ _ _
  · exact .refl s

theorem declineRule_acts : RuleActs w declineRule := by
  intro d body s
  unfold declineRule
  split
  · refine onRecord_acts fun t x j r h => ?_
    split
    · exact .refl t
    · exact refuseIf_acts (.refl t) fun _ => refuseIf_acts (.refl t) fun _ => endRecord_acts _ _ _ _ _ _
  · exact .refl s

theorem withdrawRule_acts : RuleActs w withdrawRule := by
  intro d body s
  unfold withdrawRule
  split
  · exact onRecord_acts fun t x j r h => refuseIf_acts (.refl t) fun _ => refuseIf_acts (.refl t) fun _ =>
      endRecord_acts _ _ _ _ _ _
  · exact .refl s

/-- Items of the same number written in place of a record's. -/
theorem setItems_act {s : State} {i : RecordIdx} {r : Record} (h : s.record i = some r) (l : List Item)
    (hl : l.length = r.items.length) :
    Act w [.records] s (s.setRecord i (some { r with items := l })) := by
  refine .setRecord s i _ (fun items q hq => ?_) (fun holds q hq => ?_)
  · rw [← Option.some.inj hq]
    exact hl ▸ items r h
  · rw [← Option.some.inj hq]
    exact holds r h

theorem confirmItemRule_acts : RuleActs w confirmItemRule := by
  intro d body s
  unfold confirmItemRule
  split
  · refine onRecord_acts fun t x j r h => refuseIf_acts (.refl t) fun _ => ?_
    split
    · exact .refl t
    · refine refuseIf_acts (.refl t) fun _ => refuseIf_acts (.refl t) fun _ =>
        refuseIf_acts (.refl t) fun _ => ?_
      split
      · exact .refl t
      · exact .refl t
      · exact (setItems_act h _ (by simp)).acts.act (.enter _ _ _)
  · exact .refl s

theorem confirmPage_length (s : State) (seen : MillTime) (first count : Nat) (l : List Item) :
    (s.confirmPage seen first count l).length = l.length := by
  simp only [State.confirmPage, List.length_append, List.length_map, List.length_take, List.length_drop]
  omega

theorem confirmPageRule_acts : RuleActs w confirmPageRule := by
  intro d body s
  unfold confirmPageRule
  split
  · exact refuseIf_acts (.refl s) fun _ => onRecord_acts fun t x j r h => refuseIf_acts (.refl t) fun _ =>
      refuseIf_acts (.refl t) fun _ => refuseIf_acts (.refl t) fun _ => refuseIf_acts (.refl t) fun _ =>
      (setItems_act h _ (confirmPage_length _ _ _ _ _)).acts.act (.enter _ _ _)
  · exact .refl s

theorem queryItemsRule_acts : RuleActs w queryItemsRule := by
  intro d body s
  unfold queryItemsRule
  split
  · exact onRecord_acts fun t x j r h => refuseIf_acts (.refl t) fun _ => .refl t
  · exact .refl s

theorem takeRule_acts : RuleActs w takeRule := by
  intro d body s
  unfold takeRule
  split
  · refine onRecord_acts fun t x j r h => ?_
    split
    · exact .refl t
    · refine refuseIf_acts (.refl t) fun _ => refuseIf_acts (.refl t) fun _ => ?_
      split
      · exact .refl t
      · exact .refl t
      · exact refuseIf_acts (.refl t) fun _ => refuseIf_acts (.refl t) fun _ => endRecord_acts _ _ _ _ _ _
  · exact .refl s

theorem coSignTaken_acts {s : State} {i : RecordIdx} {r : Record} (d : Desk) (x : Session)
    (h : s.record i = some r) : Acts w s (coSignTaken s d x i r).1 := by
  have signed : ∀ b names k f, Acts w s ((handoverNotice (s.setRecord i (some (s.followCauses
      { r with coSigned := some x.badge, outgoingLost := false }))) b names).enter k f) :=
    fun b names k f => ((setFollowed_act (r := { r with coSigned := some x.badge, outgoingLost := false })
      h rfl rfl rfl rfl).acts.act (.deliver _ _ _)).act (.enter _ _ _)
  unfold coSignTaken
  dsimp only
  refine Acts.trans ?_ (endOverruns_acts _)
  split
  · exact signed _ _ _ _
  · exact Acts.act (signed _ _ _ _) (.enter _ _ _)

theorem coSignRule_acts : RuleActs w coSignRule := by
  intro d body s
  unfold coSignRule
  split
  · exact onRecordSupervised_acts fun t x j r h => refuseIf_acts (.refl t) fun _ =>
      refuseIf_acts (.refl t) fun _ => coSignTaken_acts d x h
  · exact .refl s

theorem forceCommitRule_acts : RuleActs w forceCommitRule := by
  intro d body s
  unfold forceCommitRule
  split
  · exact onRecordSupervised_acts fun t x j r h => refuseIf_acts (.refl t) fun _ =>
      refuseIf_acts (.refl t) fun _ => endRecord_acts _ _ _ _ _ _
  · exact .refl s

theorem forceWithdrawRule_acts : RuleActs w forceWithdrawRule := by
  intro d body s
  unfold forceWithdrawRule
  split
  · exact onRecordSupervised_acts fun t x j r h => endRecord_acts _ _ _ _ _ _
  · exact .refl s

end

end Sys2Proof.Proofs
end

/-! PROOFS. The acts of sessions' and credentials' requests, of configuration, of timers and of
transactions; every command but the passing of time is a run of acts. -/

section
namespace Sys2Proof.Proofs

open Machine

/-! ## The rows of the credential table (R112, R113) -/

theorem mem_allWays (v : Fin 4) : v ∈ allWays := by
  revert v; decide

theorem mem_allDesks (d : Desk) : d ∈ allDesks := by
  revert d; decide

theorem wayOf_holds {row : CredRow} {b : Badge} {v : Fin 4} (h : wayOf row b = some v) :
    ∃ c, row[v] = some c ∧ c.badge = b := by
  have := List.find?_some h
  simpa [Option.any_eq_true] using this

theorem wayOf_absent {row : CredRow} {b : Badge} (h : wayOf row b = none) {v : Fin 4} {c : Credential}
    (hc : row[v] = some c) : c.badge ≠ b := by
  have := List.find?_eq_none.1 h v (mem_allWays v)
  intro e
  simp [hc, e] at this

theorem freeWay_free {row : CredRow} {v : Fin 4} (h : freeWay row = some v) : row[v] = none := by
  simpa using List.find?_some h

/-- The entry of a badge is an entry of that badge. -/
theorem credential_badge {s : State} {b : Badge} {c : Credential} (h : s.credential b = some c) :
    c.badge = b := by
  unfold State.credential at h
  cases hw : wayOf s.creds[rowOf b] b with
  | none => exact absurd h (by rw [hw]; simp)
  | some v =>
    obtain ⟨c', hc', hb⟩ := wayOf_holds hw
    rw [hw, Option.bind_some, hc'] at h
    exact Option.some.inj h ▸ hb

/-- What stands in a table once one way has been written. -/
theorem setWay_get (creds : Vector CredRow 64) (row r : Fin 64) (way v : Fin 4) (x : Option Credential) :
    (setWay creds row way x)[r][v] = if r = row ∧ v = way then x else creds[r][v] := by
  by_cases hr : r = row
  · subst hr
    by_cases hv : v = way
    · subst hv
      simp [setWay]
    · have : way.val ≠ v.val := fun e => hv (Fin.ext e.symm)
      simp [setWay, hv, this]
  · have : row.val ≠ r.val := fun e => hr (Fin.ext e.symm)
    simp [setWay, hr, this]

theorem credentialsPlaced_remove {s : State} (row : Fin 64) (way : Fin 4) (h : CredentialsPlaced s) :
    CredentialsPlaced { s with creds := setWay s.creds row way none } := by
  intro r v c hc
  rw [setWay_get] at hc
  split at hc
  · exact absurd hc (by simp)
  · obtain ⟨hr, hb, once⟩ := h r v c hc
    refine ⟨hr, hb, fun v' c' hc' e => ?_⟩
    rw [setWay_get] at hc'
    split at hc'
    · exact absurd hc' (by simp)
    · exact once v' c' hc' e

/-- A credential is written in the way its row holds its badge in, or in a free way of a row that does not
hold it. -/
theorem credentialsPlaced_write {s : State} {way : Fin 4} {x : Credential} (hb : x.badge ≠ 0#32)
    (hw : wayOf s.creds[rowOf x.badge] x.badge = some way ∨ wayOf s.creds[rowOf x.badge] x.badge = none)
    (h : CredentialsPlaced s) :
    CredentialsPlaced { s with creds := setWay s.creds (rowOf x.badge) way (some x) } := by
  have other : ∀ v c, s.creds[rowOf x.badge][v] = some c → c.badge = x.badge → v = way := by
    intro v c hc e
    rcases hw with hw | hw
    · obtain ⟨c', hc', e'⟩ := wayOf_holds hw
      exact (h _ _ _ hc').2.2 v c hc (e.trans e'.symm)
    · exact absurd e (wayOf_absent hw hc)
  intro r v c hc
  rw [setWay_get] at hc
  split at hc
  · rename_i at_way
    obtain ⟨rfl, rfl⟩ := at_way
    obtain rfl := Option.some.inj hc
    refine ⟨rfl, hb, fun v' c' hc' e => ?_⟩
    rw [setWay_get] at hc'
    split at hc'
    · rename_i here
      exact here.2
    · exact other v' c' hc' e
  · rename_i elsewhere
    obtain ⟨hr, hb', once⟩ := h r v c hc
    refine ⟨hr, hb', fun v' c' hc' e => ?_⟩
    rw [setWay_get] at hc'
    split at hc'
    · rename_i at_way
      obtain ⟨rfl, rfl⟩ := at_way
      obtain rfl := Option.some.inj hc'
      exact absurd ⟨rfl, other v c hc e.symm⟩ elsewhere
    · exact once v' c' hc' e

section
variable {w : Bool}

theorem removeCredential_acts (s : State) (b : Badge) : Acts w s (removeCredential s b) := by
  unfold removeCredential
  split
  · exact Act.acts (.setCreds s _ (credentialsPlaced_remove _ _))
  · exact .refl s

/-! ## Sessions and credentials -/

theorem loginFailure_acts (s : State) (d : Desk) (b : Badge) : Acts w s (loginFailure s d b).1 := by
  have failed : ∀ failures lockout k f, Acts w s ((s.setDesk d
      { session := (s.desk d).session, failures := failures, lockout := lockout }).enter k f) :=
    fun failures lockout k f =>
      (Act.setDesk s d { session := (s.desk d).session, failures := failures, lockout := lockout }
        rfl).acts.act (.enter _ _ _)
  unfold loginFailure
  dsimp only
  split
  · exact (Acts.act (failed _ _ _ _) (.enter _ _ _)).act (.deliver _ _ _)
  · exact failed _ _ _ _

theorem sessionOf_none {s : State} {b : Badge} (h : (s.sessionOf b).isSome = false) (e : Desk) (z : Session)
    (hz : (s.desk e).session = some z) : z.badge ≠ b := by
  have none : s.sessionOf b = none := by simpa using h
  have := List.find?_eq_none.1 none e (mem_allDesks e)
  intro hb
  simp [hz, hb] at this

theorem loginTaken_acts {s : State} (d : Desk) {c : Credential}
    (h : (s.sessionOf c.badge).isSome = false) : Acts w s (loginTaken s d c).1 := by
  refine sessionChanged_acts ((setDesk_changes _ _ _).mono (by decide))
    (sessionsApart_setDesk fun x hx => .inr fun e z hz => ?_) _ _ _ _ _
  rw [← Option.some.inj hx]
  exact sessionOf_none h e z hz

theorem loginRule_acts : RuleActs w loginRule := by
  intro d body s
  unfold loginRule
  split
  · dsimp only
    split
    · exact interact_acts _ _
    · exact .refl s
    · split
      · exact loginFailure_acts _ _ _
      · rename_i c hc
        split
        · exact loginFailure_acts _ _ _
        · refine refuseIf_acts (.refl s) fun free => refuseIf_acts (.refl s) fun _ => loginTaken_acts d ?_
          rw [credential_badge hc]
          simpa using free
  · exact .refl s

theorem logoutRule_acts : RuleActs w logoutRule := by
  intro d body s
  unfold logoutRule
  split
  · exact withSession_acts fun t x => refuseIf_acts (.refl t) fun _ => refuseIf_acts (.refl t) fun _ =>
      endSession_acts _ _ _
  · exact .refl s

theorem presentRule_acts : RuleActs w presentRule := by
  intro d body s
  unfold presentRule
  split
  · exact withSession_acts fun t x => .refl t
  · exact .refl s

theorem endSessionRule_acts : RuleActs w endSessionRule := by
  intro d body s
  unfold endSessionRule
  split
  · refine withSession_acts fun t x => refuseIf_acts (.refl t) fun _ => ?_
    split
    · exact .refl t
    · split
      · exact .refl t
      · exact endSession_acts _ _ _
  · exact .refl s

theorem grantTaken_acts {s : State} (d : Desk) (issuer badge : Badge) (check : Word16) (role : Fin 8)
    (lifetime : Nat) (way : Fin 4) (replaced : Bool) (hb : badge ≠ 0#32)
    (hw : wayOf s.creds[rowOf badge] badge = some way ∨ wayOf s.creds[rowOf badge] badge = none) :
    Acts w s (grantTaken s d issuer badge check role lifetime way replaced).1 :=
  (Act.setCreds s _ (credentialsPlaced_write (x :=
    { badge := badge, check := check, role := role
      temporary := some (after s.elapsed (10 * max 60 (min 86400 lifetime)), issuer) })
    hb hw)).acts.act (.enter _ _ _)

theorem grantRule_acts : RuleActs w grantRule := by
  intro d body s
  unfold grantRule
  split
  · dsimp only
    split
    · exact .refl s
    · refine refuseIf_acts (.refl s) fun hb => withSession_acts fun t x => refuseIf_acts (.refl t) fun _ =>
        refuseIf_acts (.refl t) fun _ => refuseIf_acts (.refl t) fun _ => ?_
      split
      · exact grantTaken_acts d _ _ _ _ _ _ _ hb (.inl ‹_›)
      · exact grantTaken_acts d _ _ _ _ _ _ _ hb (.inr ‹_›)
      · exact .refl t
  · exact .refl s

theorem revokeRule_acts : RuleActs w revokeRule := by
  intro d body s
  unfold revokeRule
  split
  · refine withSession_acts fun t x => refuseIf_acts (.refl t) fun _ => ?_
    split
    · exact .refl t
    · split
      · exact .refl t
      · exact ((removeCredential_acts _ _).act (.enter _ _ _)).trans (endRevoked_acts _ _)
  · exact .refl s

/-! ## Mill time and gateways -/

theorem timeSetRule_acts : RuleActs w timeSetRule := by
  intro d body s
  unfold timeSetRule
  split
  · refine withSession_acts fun t x => refuseIf_acts (.refl t) fun _ => ?_
    refine ((Act.acts (.inert ?_)).act (.deliver _ _ _)).act (.enter _ _ _)
    intro f hf
    cases f <;> first | rfl | simp [inertFields] at hf
  · exact .refl s

theorem swapGatewaysRule_acts : RuleActs w swapGatewaysRule := by
  intro d body s
  unfold swapGatewaysRule
  split
  · refine withSession_acts fun t x => refuseIf_acts (.refl t) fun _ => ?_
    split
    · exact .refl t
    · dsimp only
      split
      · exact (exchangeRoles_acts _ _ _).act (.deliver _ _ _)
      · exact .refl t
  · exact .refl s

theorem channelReportRule_acts (g : Gateway) (body : Body) (s : State) :
    Acts w s (channelReportRule g body s).1 := by
  unfold channelReportRule
  split
  · exact .refl s
  · refine refuseIf_acts (.refl s) fun _ => refuseIf_acts (.refl s) fun _ => refuseIf_acts (.refl s) fun _ => ?_
    split
    · exact .refl s
    · split
      · exact .refl s
      · exact Acts.foldl_with (x := (s, 0, 0)) applyEntry_acts _

theorem heartbeatRule_acts (g : Gateway) (body : Body) (s : State) : Acts w s (heartbeatRule g body s).1 := by
  unfold heartbeatRule
  split <;> exact .refl s

/-! ## Configuration -/

theorem onLoader_acts {s : State} {d : Desk} {needed : DeviceState} {k : State × Reply}
    (h : s.dev = needed → Acts w s k.1) : Acts w s (onLoader s d needed k).1 := by
  unfold onLoader
  exact refuseIf_acts (.refl s) fun _ => refuseIf_acts (.refl s) fun hd => h (by simpa using hd)

theorem loadStartRule_acts : RuleActs w loadStartRule := by
  intro d body s
  unfold loadStartRule
  split
  · refine onLoader_acts fun hd => Act.acts (.load s .empty .loading ?_ ?_ fun _ k => ?_)
    · simp [hd]
    · decide
    · simp [Staged.empty, KeysRise]
  · exact .refl s

theorem putEntries_rise {l : List (Nat × List Byte)} (h : KeysRise l) (first : Nat)
    (entries : List (List Byte)) : KeysRise (putEntries l first entries) := by
  induction entries generalizing l first with
  | nil => exact h
  | cons e rest ih => exact ih (h.put first e) _

theorem staged_write_rise {st : Staged} (h : ∀ k : Fin 9, KeysRise st.tables[k]) (j : Fin 9) (first : Nat)
    (entries : List (List Byte)) (k : Fin 9) : KeysRise (st.write j first entries).tables[k] := by
  unfold Staged.write
  by_cases e : k = j
  · subst e
    simpa using putEntries_rise (h k) first entries
  · have : j.val ≠ k.val := fun he => e (Fin.ext he.symm)
    simpa [this] using h k

theorem configBlockRule_acts : RuleActs w configBlockRule := by
  intro d body s
  unfold configBlockRule
  split
  · refine onLoader_acts fun hd => ?_
    split
    · exact .refl s
    · refine refuseIf_acts (.refl s) fun _ => refuseIf_acts (.refl s) fun _ => ?_
      refine Act.acts (.load s _ s.dev ?_ ?_ fun h => staged_write_rise h.staged _ _ _)
      · simp [hd]
      · simp [hd]
  · exact .refl s

theorem loadEndRule_acts : RuleActs w loadEndRule := by
  intro d body s
  unfold loadEndRule
  split
  · refine onLoader_acts fun hd => ?_
    split
    · exact .refl s
    · exact ((Act.takeIntoUse s ‹_›).acts.trans (judgeRoles_acts _)).act (.enter _ _ _)
  · exact .refl s

theorem loadAbandonRule_acts : RuleActs w loadAbandonRule := by
  intro d body s
  unfold loadAbandonRule
  split
  · refine onLoader_acts fun hd => Act.acts (.reset ?_ ?_ (.inl rfl) rfl)
    · intro f hf
      cases f <;> first | rfl | simp at hf
    · simp [abandoned, State.reset]
  · exact .refl s

theorem editEvaluator_acts (s : State) (i : Nat) (old new : PointCfg) (was : Option Channel) :
    Acts w s (editEvaluator s i old new was) := by
  unfold editEvaluator
  split
  · rename_i p x h _
    split
    · split
      · split
        · exact regainInput_acts _ _ _
        · exact evaluatePoint_acts _ _ _
      · refine Act.acts (.setPoint s i p _ h ?_ ?_)
        · refine .of_sameState rfl rfl (fun k => ⟨fun e => ?_, k.escalated, k.serial, k.chatter⟩) rfl rfl
          obtain ⟨n, d, _⟩ := k.idle e
          exact ⟨n, d, rfl⟩
        · rfl
      · split
        · exact .refl s
        · exact loseInput_acts _ _
      · split
        · exact .refl s
        · exact loseInput_acts _ _
    · split
      · exact evaluatePoint_acts _ _ _
      · exact .refl s
  · exact .refl s

theorem editEngine_acts (s : State) (i : Nat) (old new : PointCfg) : Acts w s (editEngine s i old new) := by
  unfold editEngine
  split
  · have noticed := pointNotice_acts (w := w) s i false false
    dsimp only
    split
    · split
      · exact (noticed.act (.resolveMoved _ _ _ _)).act (.handItems _ _ _ _)
      · exact noticed
    · exact noticed
  · exact .refl s

theorem editPointRule_acts : RuleActs w editPointRule := by
  intro d body s
  unfold editPointRule
  split
  · split
    · dsimp only
      split
      · exact .refl s
      · refine withSession_acts fun t x => refuseIf_acts (.refl t) fun _ => ?_
        split
        · rename_i p group headOf h _ _
          refine refuseIf_acts (.refl t) fun _ => refuseIf_acts (.refl t) fun _ =>
            refuseIf_acts (.refl t) fun _ => refuseIf_acts (.refl t) fun same => ?_
          obtain ⟨hg, hh⟩ : group = p.cfg.group ∧ headOf = p.cfg.headOf := by
            simpa [not_or] using same
          refine Acts.act (Acts.trans (Acts.trans (Act.acts (.setPoint t _ p _ h ?_ ?_))
            (editEvaluator_acts _ _ _ _ _)) (editEngine_acts _ _ _ _)) (.enter _ _ _)
          · exact .of_sameState hg hh (fun k => ⟨k.idle, k.escalated, k.serial, k.chatter⟩) rfl rfl
          · rfl
        · exact .refl t
    · exact .refl s
  · exact .refl s

theorem edited_acts {s : State} {vs : List (Nat × Nat)} (h : Carried (storeValues s vs) vs) :
    Acts w s (edited s vs) := by
  cases w with
  | true => exact Act.acts (.edit s vs h rfl)
  | false =>
    have stored : Acts false s (storeValues s vs) := Act.acts (.store s vs h rfl)
    unfold edited
    split
    · exact stored.trans (.foldl reevaluateArea_acts _ _)
    · exact stored

theorem editParametersRule_acts : RuleActs w editParametersRule := by
  intro d body s
  unfold editParametersRule
  split
  · split
    · exact .refl s
    · refine refuseIf_acts (.refl s) fun _ => refuseIf_acts (.refl s) fun _ => withSession_acts fun t x =>
        refuseIf_acts (.refl t) fun _ => ?_
      split
      · exact .refl t
      · rename_i inRange
        dsimp only
        split
        · exact .refl t
        · rename_i unbroken
          refine Acts.act (edited_acts ⟨fun e he => ?_, fun e he slot hs => ?_⟩) (.enter _ _ _)
          · have := List.find?_eq_none.1 inRange e he
            simpa [Option.any_eq_true] using this
          · have := List.find?_eq_none.1 unbroken e he
            simpa [hs] using this
  · exact .refl s

theorem refreshPrimary_acts (s : State) : Acts w s (refreshPrimary s) := by
  unfold refreshPrimary
  split
  · exact (setGateway_act _ _ _).acts
  · exact .refl s

theorem restartTaken_acts (s : State) (d : Desk) (x : Session) : Acts w s (restartTaken s d x).1 := by
  refine Acts.trans (Acts.trans (Acts.trans ((Act.cleared s).acts.act (.enter _ _ _))
    (.foldl (fun t i => ?_) _ _)) (.foldl (fun t i => ?_) _ _)) (refreshPrimary_acts _)
  · unfold restartedEntry
    split
    · exact Act.acts (.enter _ _ _)
    · exact .refl t
  · unfold restartedNotice
    split
    · exact Act.acts (.deliver _ _ _)
    · exact .refl t

theorem onEngineer_acts {s : State} {d : Desk} {body : Body} {k : State → Session → State × Reply}
    (h : ∀ t x, Acts w t (k t x).1) : Acts w s (onEngineer s d body k).1 := by
  unfold onEngineer
  split
  · exact withSession_acts fun t x => refuseIf_acts (.refl t) fun _ => h t x
  · exact .refl s

theorem restartRule_acts : RuleActs w restartRule := fun _ _ _ =>
  onEngineer_acts fun t x => restartTaken_acts t _ x

theorem restartToLoadRule_acts : RuleActs w restartToLoadRule := by
  refine fun d body s => onEngineer_acts fun t x => Act.acts (.reset ?_ ?_ (.inr rfl) rfl)
  · intro f hf
    cases f <;> first | rfl | simp at hf
  · simp [restartedToLoad]

end

end Sys2Proof.Proofs
end

/-! PROOFS. The acts of timers and transactions, and the one principle by which an invariant is kept by every
step. -/

section
namespace Sys2Proof.Proofs

open Machine

section
variable {w : Bool}

/-! ## The block's own timers (R81) -/

theorem pendingExpired_acts (s : State) (i : Nat) : Acts w s (pendingExpired s i) := by
  unfold pendingExpired
  split
  · rename_i p h
    split
    · rename_i part hp
      split
      · refine deliverEvent_after_acts _ _ _ h ?_ rfl
        refine .of_sameState rfl rfl (fun k => ⟨fun e => ?_, k.escalated, k.serial, k.chatter⟩) rfl rfl
        have := (k.idle e).2.2
        simp [hp] at this
      · exact .refl s
    · exact .refl s
  · exact .refl s

theorem shelveExpired_acts (s : State) : Acts w s (shelveExpired s) := by
  unfold shelveExpired
  split
  · exact .refl s
  · split
    · exact ((unshelvePoint_acts _ _).act (.enter _ _ _)).trans (raiseAfterShelving_acts _ _)
    · exact .refl s

theorem releaseExpired_acts (s : State) (g : GroupIdx) : Acts w s (releaseExpired s g) := by
  unfold releaseExpired
  split
  · split
    · exact Act.acts (.releaseGroup s g _ ‹_›)
    · exact .refl s
  · exact .refl s

theorem raiseReleased_acts (s : State) (m : Nat) : Acts w s (raiseReleased s m) := by
  unfold raiseReleased
  split
  · split
    · rename_i p h due
      exact engineRaise_acts _ h (.inl due.2.1)
    · exact .refl s
  · exact .refl s

theorem memberReleased_acts (s : State) (g : GroupIdx) : Acts w s (memberReleased s g) := by
  unfold memberReleased
  split
  · rename_i x h
    split
    · refine Acts.trans (Act.acts (.setGroup s g x _ h ?_ ?_)) (raiseReleased_acts _ _)
      · rfl
      · exact id
    · exact .refl s
  · exact .refl s

theorem inert_acts {s t : State} (h : OnlyChanges inertFields s t) : Acts w s t := Act.acts (.inert h)

theorem setLoadExpiry_changes (s : State) (x : Option Time) :
    OnlyChanges [.loadExpiry] s { s with loadExpiry := x } := by
  intro f hf; cases f <;> first | rfl | simp at hf

theorem setSweep_changes (s : State) (x : Sweep) : OnlyChanges [.sweep] s { s with sweep := x } := by
  intro f hf; cases f <;> first | rfl | simp at hf

theorem loadIntervalExpired_acts (s : State) : Acts w s (loadIntervalExpired s) := by
  unfold loadIntervalExpired
  split
  · split
    · exact (inert_acts ((setLoadExpiry_changes _ _).mono (by decide))).trans (.foldl decayArea_acts _ _)
    · exact .refl s
  · exact .refl s

theorem summaryExpired_acts (s : State) (a : Area) : Acts w s (summaryExpired s a) := by
  have noticed : ∀ c : Prop, [Decidable c] → Acts w s (if c then summaryNotice s a else s) ∧
      State.load (if c then summaryNotice s a else s) a = s.load a := by
    intro c _
    split
    · exact ⟨Act.acts (.deliver _ _ _), (summaryNotice_changes s a).at_load a⟩
    · exact ⟨.refl s, rfl⟩
  unfold summaryExpired
  dsimp only
  split
  · split
    · obtain ⟨acts, same⟩ := noticed (0 < (s.load a).count)
      refine acts.act (.setLoad _ a _ ?_ ?_ ?_)
      · rw [same]
      · rw [same]
      · simp
    · exact .refl s
  · exact .refl s

theorem sweepVisited_acts (s : State) : Acts w s (sweepVisited s) := by
  have moved : ∀ x, Acts w s { s with sweep := x } := fun x =>
    inert_acts ((setSweep_changes s x).mono (by decide))
  unfold sweepVisited
  dsimp only
  split
  · split
    · exact (moved _).trans ((escalationCheck_acts _ _).trans
        ((stalenessCheck_acts _ _ _).trans (chatterCheck_acts _ _)))
    · exact moved _
  · exact .refl s

theorem passEnded_acts (s : State) : Acts w s (passEnded s) := by
  unfold passEnded
  dsimp only
  split
  · exact inert_acts ((setSweep_changes _ _).mono (by decide))
  · exact .refl s

theorem idleExpired_acts (s : State) (d : Desk) : Acts w s (idleExpired s d) := by
  unfold idleExpired
  split
  · split
    · exact fadeSession_acts ‹_› _ _
    · exact .refl s
  · exact .refl s

theorem absentExpired_acts (s : State) (d : Desk) : Acts w s (absentExpired s d) := by
  unfold absentExpired
  split
  · split
    · exact fadeSession_acts ‹_› _ _
    · exact .refl s
  · exact .refl s

theorem lockoutExpired_acts (s : State) (d : Desk) : Acts w s (lockoutExpired s d) := by
  unfold lockoutExpired
  split
  · refine Act.acts (.setDesk s d _ ?_)
    rfl
  · exact .refl s

theorem credentialExpired_acts (s : State) (b : Badge) : Acts w s (credentialExpired s b) := by
  unfold credentialExpired
  split
  · split
    · exact ((removeCredential_acts _ _).act (.enter _ _ _)).trans (endRevoked_acts _ _)
    · exact .refl s
  · exact .refl s

theorem offerExpired_acts (s : State) (i : RecordIdx) : Acts w s (offerExpired s i) := by
  unfold offerExpired
  split
  · split
    · exact endRecord_acts _ _ _ _ _ _
    · exact .refl s
  · exact .refl s

theorem overlapLimitExpired_acts (s : State) (i : RecordIdx) : Acts w s (overlapLimitExpired s i) := by
  unfold overlapLimitExpired
  split
  · split
    · exact endRecord_acts _ _ _ _ _ _
    · exact .refl s
  · exact .refl s

theorem livenessExpired_acts (s : State) (p : Port) : Acts w s (livenessExpired s p) := by
  unfold livenessExpired
  split
  · exact becomeSilent_acts _ _
  · exact .refl s

theorem doubtExpired_acts (s : State) (g : Gateway) : Acts w s (doubtExpired s g) := by
  unfold doubtExpired
  dsimp only
  split
  · exact (changeHealth_acts _ _ _).act (.deliver _ _ _)
  · exact .refl s

/-! ## Transactions -/

theorem requestOf_acts (k : Kind) (p : Port) (body : Body) (s : State) :
    Acts w s (dispatch (some (requestOf k)) p body s).1 := by
  have desk : ∀ conf rule, RuleActs w rule → Acts w s (dispatch (some (.desk conf rule)) p body s).1 := by
    intro conf rule h
    unfold dispatch
    cases splitPort p with
    | inl d => exact refuseIf_acts (.refl s) fun _ => refuseIf_acts (.refl s) fun _ => h d body s
    | inr g => exact .refl s
  have gateway : ∀ rule : GatewayRule, (∀ g b t, Acts w t (rule g b t).1) →
      Acts w s (dispatch (some (.gateway rule)) p body s).1 := by
    intro rule h
    unfold dispatch
    cases splitPort p with
    | inl d => exact .refl s
    | inr g => exact h g body s
  cases k
  case login => exact desk _ _ loginRule_acts
  case logout => exact desk _ _ logoutRule_acts
  case present => exact desk _ _ presentRule_acts
  case endSession => exact desk _ _ endSessionRule_acts
  case grant => exact desk _ _ grantRule_acts
  case revoke => exact desk _ _ revokeRule_acts
  case ackPoint => exact desk _ _ ackPointRule_acts
  case ackArea => exact desk _ _ ackAreaRule_acts
  case resetPoint => exact desk _ _ resetPointRule_acts
  case silence => exact desk _ _ silenceRule_acts
  case queryList => exact desk _ _ queryListRule_acts
  case readJournal => exact desk _ _ readJournalRule_acts
  case shelve => exact desk _ _ shelveRule_acts
  case unshelve => exact desk _ _ unshelveRule_acts
  case setOutOfService => exact desk _ _ setOutOfServiceRule_acts
  case returnToService => exact desk _ _ returnToServiceRule_acts
  case claimArea => exact desk _ _ claimAreaRule_acts
  case releaseArea => exact desk _ _ releaseAreaRule_acts
  case relocate => exact desk _ _ relocateRule_acts
  case offer => exact desk _ _ offerRule_acts
  case accept => exact desk _ _ acceptRule_acts
  case decline => exact desk _ _ declineRule_acts
  case withdraw => exact desk _ _ withdrawRule_acts
  case confirmItem => exact desk _ _ confirmItemRule_acts
  case confirmPage => exact desk _ _ confirmPageRule_acts
  case queryItems => exact desk _ _ queryItemsRule_acts
  case take => exact desk _ _ takeRule_acts
  case coSign => exact desk _ _ coSignRule_acts
  case forceCommit => exact desk _ _ forceCommitRule_acts
  case forceWithdraw => exact desk _ _ forceWithdrawRule_acts
  case timeSet => exact desk _ _ timeSetRule_acts
  case swapGateways => exact desk _ _ swapGatewaysRule_acts
  case channelReport => exact gateway _ channelReportRule_acts
  case heartbeat => exact gateway _ heartbeatRule_acts
  case loadStart => exact desk _ _ loadStartRule_acts
  case configBlock => exact desk _ _ configBlockRule_acts
  case loadEnd => exact desk _ _ loadEndRule_acts
  case loadAbandon => exact desk _ _ loadAbandonRule_acts
  case editPoint => exact desk _ _ editPointRule_acts
  case editParameters => exact desk _ _ editParametersRule_acts
  case restart => exact desk _ _ restartRule_acts
  case restartToLoad => exact desk _ _ restartToLoadRule_acts

/-- A request of the catalogue, or none. -/
def InCatalogue (req : Option Request) : Prop := req = none ∨ ∃ k, req = some (requestOf k)

theorem requestFor_inCatalogue (code : Byte) : InCatalogue (requestFor code) := by
  unfold requestFor
  cases kindOf code with
  | none => exact .inl rfl
  | some k => exact .inr ⟨k, rfl⟩

theorem soundFrame_acts {req : Option Request} (h : InCatalogue req) (p : Port) (code tag : Byte)
    (body : Body) (s : State) : Acts w s (soundFrame p code tag body req s) := by
  have begun : Acts w s (beginTransaction s p .sound) := beginTransaction_acts _ _ _
  have put : ∀ (t : State) x, x.link = (t.port p).link → Act w [.ports] t (t.setPort p x) :=
    fun t x hx => .setPort t p x (fun _ _ => hx)
  unfold soundFrame
  dsimp only
  split
  · exact begun
  · split
    · refine begun.act (put _ _ ?_)
      rfl
    · refine Acts.act (begun.trans ?_) (put _ _ ?_)
      · rcases h with rfl | ⟨k, rfl⟩
        · exact .refl _
        · exact requestOf_acts k p body _
      · rfl

theorem send_acts {req : Option Request} (h : InCatalogue req) (p : Port) (code tag : Byte) (body : Body)
    (s : State) : Acts w s (send p code tag body req s) := by
  unfold send
  split
  · exact soundFrame_acts h _ _ _ _ _
  · exact beginTransaction_acts _ _ _

theorem fetchDesk_acts (s : State) (d : Desk) : Acts w s (fetchDesk s d).1 := by
  unfold fetchDesk
  dsimp only
  split
  · refine Act.acts (.setPort _ _ _ fun _ _ => ?_)
    rfl
  · split
    · refine Act.acts (.setQueue _ _ _ fun h => ?_)
      exact ⟨h.fits, h.ordered, h.once⟩
    · split
      · rename_i n rest hq
        refine Act.acts (.setQueue _ _ _ fun h => ⟨?_, ?_, ?_⟩)
        · have := h.fits
          rw [hq, List.length_cons] at this
          exact Nat.le_of_succ_le this
        · exact (List.pairwise_cons.1 (hq ▸ h.ordered)).2
        · exact (List.pairwise_cons.1 (hq ▸ h.once)).2
      · exact .refl s

theorem fetchGateway_acts (s : State) (g : Gateway) : Acts w s (fetchGateway s g).1 := by
  unfold fetchGateway
  dsimp only
  split
  · exact .refl s
  · split
    · refine Act.acts (.setPort _ _ _ fun _ _ => ?_)
      rfl
    · split
      · refine Acts.act (inert_acts ?_) (setGateway_act _ _ _)
        intro f hf
        cases f <;> first | rfl | simp [inertFields] at hf
      · exact .refl s

theorem fetchItem_acts (s : State) (p : Port) : Acts w s (fetchItem s p).1 := by
  unfold fetchItem
  split
  · exact fetchDesk_acts _ _
  · exact fetchGateway_acts _ _

theorem setShiftedOut_changes (s : State) (p : Port) (bytes : List Byte) :
    OnlyChanges [.shiftedOut] s (s.setShiftedOut p bytes) := by
  intro f hf; cases f <;> first | rfl | simp at hf

theorem fetchTransaction_acts (p : Port) (n : Nat) (s : State) : Acts w s (fetchTransaction p n s) := by
  have shifted : ∀ (t : State) bytes, Act w inertFields t (t.setShiftedOut p bytes) :=
    fun t bytes => .inert ((setShiftedOut_changes t p bytes).mono (by decide))
  unfold fetchTransaction
  dsimp only
  split
  · exact (beginTransaction_acts _ _ _).act (shifted _ _)
  · exact ((beginTransaction_acts _ _ _).trans (fetchItem_acts _ _)).act (shifted _ _)

theorem linkResetTransaction_acts (p : Port) (s : State) : Acts w s (linkResetTransaction p s) := by
  have cut : ∀ t : State, Acts w t (t.setPort p { t.port p with slot := none, overrun := false }) :=
    fun t => Act.acts (.setPort t p _ (fun _ _ => rfl))
  unfold linkResetTransaction resetLink
  dsimp only
  refine Acts.act (Acts.trans (beginTransaction_acts s p .linkReset) ?_) (.enter _ _ _)
  split
  · exact (cut _).act (.setQueue _ _ _ fun _ => ⟨Nat.zero_le _, .nil, .nil⟩)
  · exact cut _

theorem takeTransaction_acts (p : Port) (x : Transaction) (s : State) :
    Acts w s (takeTransaction p x s) := by
  unfold takeTransaction
  cases x with
  | send code tag body => exact soundFrame_acts (requestFor_inCatalogue code) _ _ _ _ _
  | fetch n => exact fetchTransaction_acts _ _ _
  | linkReset => exact linkResetTransaction_acts _ _
  | bad => exact beginTransaction_acts _ _ _

/-! ## Every command -/

theorem settle_act (s : State) : Act w inertFields s (settle s) :=
  .inert ((settle_changes s).mono (by decide))

theorem reset_acts (s : State) : Acts w s (resetKeepingQueue s) := by
  refine Act.acts (.reset ?_ ?_ (.inr rfl) rfl)
  · intro f hf
    cases f <;> first | rfl | simp at hf
  · simp [resetKeepingQueue, State.reset]

/-- A command other than the passing of time is a run of acts. -/
theorem exec_acts {c : Instr} {s t : State} (hc : ∀ n, c ≠ .timeReferenceTick n)
    (h : exec c s = .next t) : Acts w s t := by
  have settled : ∀ {u : State}, Acts w s u →
      (.next (settle u) : Host.Outcome State Fault Refusal) = .next t → Acts w s t := by
    intro u hu e
    rw [← Host.Outcome.next.inj e]
    exact hu.act (settle_act u)
  have request : ∀ k p tag body, runRequest p k tag body (requestOf k) s = .next t → Acts w s t :=
    fun k p tag body => settled (send_acts (.inr ⟨k, rfl⟩) _ _ _ _ _)
  cases c
  case powerOn => exact Host.Outcome.next.inj h ▸ reset_acts s
  case resetPin => exact Host.Outcome.next.inj h ▸ reset_acts s
  case timeReferenceTick n => exact absurd rfl (hc n)
  case badFrame => exact settled (takeTransaction_acts _ _ _) h
  case overrun => exact settled (send_acts (requestFor_inCatalogue _) _ _ _ _ _) h
  case unknownRequestKind => exact settled (send_acts (requestFor_inCatalogue _) _ _ _ _ _) h
  case fetch => exact settled (fetchTransaction_acts _ _ _) h
  case linkReset => exact settled (linkResetTransaction_acts _ _) h
  case login => exact request .login _ _ _ h
  case logout => exact request .logout _ _ _ h
  case present => exact request .present _ _ _ h
  case endSession => exact request .endSession _ _ _ h
  case grant => exact request .grant _ _ _ h
  case revoke => exact request .revoke _ _ _ h
  case ackPoint => exact request .ackPoint _ _ _ h
  case ackArea => exact request .ackArea _ _ _ h
  case resetPoint => exact request .resetPoint _ _ _ h
  case silence => exact request .silence _ _ _ h
  case queryList => exact request .queryList _ _ _ h
  case readJournal => exact request .readJournal _ _ _ h
  case shelve => exact request .shelve _ _ _ h
  case unshelve => exact request .unshelve _ _ _ h
  case setOutOfService => exact request .setOutOfService _ _ _ h
  case returnToService => exact request .returnToService _ _ _ h
  case claimArea => exact request .claimArea _ _ _ h
  case releaseArea => exact request .releaseArea _ _ _ h
  case relocate => exact request .relocate _ _ _ h
  case offer => exact request .offer _ _ _ h
  case accept => exact request .accept _ _ _ h
  case decline => exact request .decline _ _ _ h
  case withdraw => exact request .withdraw _ _ _ h
  case confirmItem => exact request .confirmItem _ _ _ h
  case confirmPage => exact request .confirmPage _ _ _ h
  case queryItems => exact request .queryItems _ _ _ h
  case take => exact request .take _ _ _ h
  case coSign => exact request .coSign _ _ _ h
  case forceCommit => exact request .forceCommit _ _ _ h
  case forceWithdraw => exact request .forceWithdraw _ _ _ h
  case timeSet => exact request .timeSet _ _ _ h
  case swapGateways => exact request .swapGateways _ _ _ h
  case channelReport => exact request .channelReport _ _ _ h
  case heartbeat => exact request .heartbeat _ _ _ h
  case loadStart => exact request .loadStart _ _ _ h
  case configBlock => exact request .configBlock _ _ _ h
  case loadEnd => exact request .loadEnd _ _ _ h
  case loadAbandon => exact request .loadAbandon _ _ _ h
  case editPoint => exact request .editPoint _ _ _ h
  case editParameters => exact request .editParameters _ _ _ h
  case restart => exact request .restart _ _ _ h
  case restartToLoad => exact request .restartToLoad _ _ _ h
  case pendingExpiry => exact settled (pendingExpired_acts _ _) h
  case shelveExpiry => exact settled (shelveExpired_acts _) h
  case releaseExpiry => exact settled (releaseExpired_acts _ _) h
  case groupMemberReleaseEvent => exact settled (memberReleased_acts _ _) h
  case loadIntervalExpiry => exact settled (loadIntervalExpired_acts _) h
  case summaryExpiry => exact settled (summaryExpired_acts _ _) h
  case sweepVisit => exact settled (sweepVisited_acts _) h
  case passEnd => exact settled (passEnded_acts _) h
  case idleExpiry => exact settled (idleExpired_acts _ _) h
  case absentExpiry => exact settled (absentExpired_acts _ _) h
  case lockoutExpiry => exact settled (lockoutExpired_acts _ _) h
  case credentialExpired => exact settled (credentialExpired_acts _ _) h
  case offerExpiry => exact settled (offerExpired_acts _ _) h
  case overlapLimitExpiry => exact settled (overlapLimitExpired_acts _ _) h
  case livenessExpiry => exact settled (livenessExpired_acts _ _) h
  case doubtExpiry => exact settled (doubtExpired_acts _ _) h

/-! ## Invariants -/

/-- A property that reads no field outside a list. -/
def Reads (T : List Field) (X : State → Prop) : Prop :=
  ∀ s t, (∀ f ∈ T, sameField s t f) → X s → X t

/-- A property is untouched by a change of fields it does not read. -/
theorem Reads.of_changes {T F : List Field} {X : State → Prop} (reads : Reads T X) {s t : State}
    (h : OnlyChanges F s t) (apart : ∀ f ∈ T, f ∉ F) : X s → X t :=
  reads s t fun f hf => h f (apart f hf)

end

theorem storeValues_changes (s : State) (vs : List (Nat × Nat)) :
    OnlyChanges [.params, .portCfg, .groups] s (storeValues s vs) := by
  refine .foldl (fun t e => ?_) _ _
  split
  · rename_i slot _
    cases slot with
    | param n => intro f hf; cases f <;> first | rfl | simp at hf
    | idle d => intro f hf; cases f <;> first | rfl | simp at hf
    | absent d => intro f hf; cases f <;> first | rfl | simp at hf
    | release g =>
      unfold setSlot
      dsimp only
      split
      · exact (setGroup_changes _ _ _).mono (by decide)
      · exact .refl t
  · exact .refl t

theorem edited_changes (s : State) (vs : List (Nat × Nat)) : OnlyChanges editFields s (edited s vs) := by
  have stored := (storeValues_changes s vs).mono (U := editFields) (by decide)
  unfold edited
  split
  · exact stored.trans (.foldl (fun t a => (reevaluateArea_changes t a).mono (by decide)) _ _)
  · exact stored

/-- What a change of the block's registers leaves: the queue of commands, the time base and the lines. -/
theorem bulkFields_cover {s t : State} (h1 : t.pending = s.pending) (h2 : t.elapsed = s.elapsed)
    (h3 : t.refCycles = s.refCycles) (h4 : t.horns = s.horns) (h5 : t.attention = s.attention) :
    OnlyChanges bulkFields s t := by
  intro f hf
  cases f
  case pending => exact h1
  case elapsed => exact h2
  case refCycles => exact h3
  case horns => exact h4
  case attention => exact h5
  all_goals simp [bulkFields] at hf

/-- An act changes the fields it names. -/
theorem Act.changes {w : Bool} {F : List Field} {s t : State} (h : Act w F s t) : OnlyChanges F s t := by
  cases h
  case inert h => exact h
  case enter => exact enter_changes _ _ _
  case drain => intro f hf; cases f <;> first | rfl | simp at hf
  case deliver => exact deliver_changes _ _ _
  case setQueue => exact setQueue_changes _ _ _
  case setPort => exact setPort_changes _ _ _
  case setDesk => exact setDesk_changes _ _ _
  case rederived h _ _ => exact (h.mono (by decide)).trans ((rederive_changes _ _ _ _).mono (by decide))
  case changeAreas => exact changeAreas_changes _ _ _
  case setRecord => exact setRecord_changes _ _ _
  case handItems => exact handItems_changes _ _ _ _
  case resolveMoved => exact resolveMoved_changes _ _ _ _
  case applyLoad => exact applyLoad_changes _ _ _
  case setLoad => exact setLoad_changes _ _ _
  case setPoint => exact setPoint_changes _ _ _
  case setSerial => exact setSerial_changes _ _
  case reshelve => intro f hf; cases f <;> first | rfl | simp at hf
  case shelve => intro f hf; cases f <;> first | rfl | simp at hf
  case unshelve => intro f hf; cases f <;> first | rfl | simp at hf
  case dropEntry => intro f hf; cases f <;> first | rfl | simp at hf
  case setGroup => exact setGroup_changes _ _ _
  case releaseGroup => exact releaseGroup_changes _ _ _
  case setChannel => exact setChannel_changes _ _ _
  case setCreds => intro f hf; cases f <;> first | rfl | simp at hf
  case load => intro f hf; cases f <;> first | rfl | simp at hf
  case takeIntoUse => exact bulkFields_cover rfl rfl rfl rfl rfl
  case reset h _ _ => intro f hf; cases f <;> simp [allFields, bulkFields] at hf
  case cleared => exact bulkFields_cover rfl rfl rfl rfl rfl
  case store => exact storeValues_changes _ _
  case edit => exact edited_changes _ _

end Sys2Proof.Proofs
end

/-! PROOFS. The principle of invariants, and the horn and attention lines (spec/06, 6.4; spec/11). -/

section
namespace Sys2Proof.Proofs

open Machine

/-! ## The principle -/

/-- A step runs the front command, if there is one, on the state with the rest of the queue. -/
theorem step_cases {s t : State} (h : step s = .next t) :
    t = s ∨ ∃ c rest, exec c { s with pending := rest } = .next t := by
  unfold step at h
  split at h
  · exact .inl (Host.Outcome.next.inj h).symm
  · exact .inr ⟨_, _, h⟩

/-- The fields that the passing of time, the queue of commands and the lines touch. -/
def clockFields : List Field := [.pending, .elapsed, .refCycles, .horns, .attention]

/-- A property that every act keeps which can touch what it reads is kept by a run of acts. -/
theorem kept_by_acts {T : List Field} {X : State → Prop} {w : Bool} (reads : Reads T X)
    (kept : ∀ F s t, Act w F s t → (∃ f ∈ T, f ∈ F) → X s → X t) {s t : State} (h : Acts w s t) (hx : X s) :
    X t := by
  induction h with
  | refl => exact hx
  | tail _ last ih =>
    obtain ⟨F, act⟩ := last
    by_cases touched : ∃ f ∈ T, f ∈ F
    · exact kept F _ _ act touched ih
    · exact reads.of_changes act.changes (by simpa using touched) ih

/-- To take the front command off the queue changes nothing else. -/
theorem withPending_changes (s : State) (rest : List Instr) :
    OnlyChanges [.pending] s { s with pending := rest } := by
  intro f hf
  cases f <;> first | rfl | simp at hf

/-- A property that reads nothing of the clock, the queue of commands and the lines is kept by every step when
every act that can touch what it reads keeps it. -/
theorem keptByStep_of_act {T : List Field} {X : State → Prop} (w : Bool) (reads : Reads T X)
    (clock : ∀ f ∈ T, f ∉ clockFields)
    (kept : ∀ F s t, Act w F s t → (∃ f ∈ T, f ∈ F) → X s → X t) : KeptByStep X := by
  intro s t hx h
  rcases step_cases h with rfl | ⟨c, rest, h⟩
  · exact hx
  · have hx : X { s with pending := rest } := by
      refine reads.of_changes (withPending_changes s rest) (fun f hf hp => clock f hf ?_) hx
      rw [List.mem_singleton.1 hp]
      decide
    by_cases tick : ∃ n, c = .timeReferenceTick n
    · obtain ⟨n, rfl⟩ := tick
      rw [← Host.Outcome.next.inj h]
      refine reads.of_changes (F := clockFields) ?_ clock hx
      intro f hf
      cases f <;> first | rfl | simp [clockFields] at hf
    · exact kept_by_acts reads kept (exec_acts (fun n e => tick ⟨n, e⟩) h) hx

/-! ## The lines -/

/-- Every command ends by settling the lines, or is a reset. -/
theorem exec_settled {c : Instr} {s t : State} (h : exec c s = .next t) :
    (∃ u, t = settle u) ∨ t = resetKeepingQueue s := by
  have settled : ∀ {u : State}, (.next (settle u) : Host.Outcome State Fault Refusal) = .next t →
      (∃ u, t = settle u) ∨ t = resetKeepingQueue s := fun e => .inl ⟨_, (Host.Outcome.next.inj e).symm⟩
  cases c
  case powerOn => exact .inr (Host.Outcome.next.inj h).symm
  case resetPin => exact .inr (Host.Outcome.next.inj h).symm
  all_goals exact settled h

/-- After a reset no line is asserted, and nothing asserts one. -/
theorem resetKeepingQueue_settled (s : State) : LinesSettled (resetKeepingQueue s) := rfl

/-- Every command leaves the lines settled. -/
theorem exec_linesSettled {c : Instr} {s t : State} (h : exec c s = .next t) : LinesSettled t := by
  rcases exec_settled h with ⟨u, rfl⟩ | rfl
  · exact settle_settle u
  · exact resetKeepingQueue_settled s

theorem horn_of_settled {s : State} (h : LinesSettled s) (d : Desk) : s.horns[d] = s.hornLine d := by
  have : (settle s).horns[d] = s.hornLine d := by simp [settle]
  rwa [h] at this

theorem attention_of_settled {s : State} (h : LinesSettled s) (p : Port) :
    s.attention[p] = s.attentionLine p := by
  have : (settle s).attention[p] = s.attentionLine p := by simp [settle]
  rwa [h] at this

theorem later_iff (s m : Word32) :
    Machine.later s m = true ↔ 0 < (s - m).toNat ∧ (s - m).toNat < 2 ^ 31 := by
  simp [Machine.later]

theorem soundsConsole_iff (s : State) (d : Desk) (p : Point) :
    s.soundsConsole d p = true ↔ p.state = .unackActive ∧ s.routed p.cfg.area p.escalated d = true ∧
      p.cfg.priority ≤ s.portCfg[d].hornFloor ∧ p.muted = false ∧ Machine.later p.raiseSerial (s.mark d) = true := by
  simp [State.soundsConsole, and_assoc]

theorem soundsSupervisor_iff (s : State) (p : Point) :
    s.soundsSupervisor p = true ↔
      (p.escalated = true ∧ ∃ e, p.escSerial = some e ∧ Machine.later e (s.mark supervisor) = true) ∨
      (p.state = .unackActive ∧
        (s.attendance p.cfg.area = some .covered ∨ s.attendance p.cfg.area = some .unattended) ∧
        p.muted = false ∧ Machine.later p.raiseSerial (s.mark supervisor) = true) := by
  simp [State.soundsSupervisor, Option.any_eq_true, and_assoc]

theorem consoleDesk_ne_supervisor (c : Console) : consoleDesk c ≠ supervisor := by
  revert c; decide

/-- Settles O12: a command ends by settling the lines, and a settled line reads as its rule gives it. -/
theorem everyStepSettlesLines : Obligations.EveryStepSettlesLines := by
  refine ⟨fun s t hs h => ?_, fun c s t h => exec_linesSettled h, fun s hs => ⟨fun c => ?_, ?_, fun d => ?_,
    fun g => ?_⟩⟩
  · rcases step_cases h with rfl | ⟨c, rest, h⟩
    · exact hs
    · exact exec_linesSettled h
  · dsimp only
    rw [horn_of_settled hs]
    simp only [State.hornLine, consoleDesk_ne_supervisor, if_false, Bool.and_eq_true, beq_iff_eq,
      List.any_eq_true, soundsConsole_iff, later_iff]
  · rw [horn_of_settled hs]
    simp only [State.hornLine, if_true, Bool.and_eq_true, beq_iff_eq, List.any_eq_true,
      soundsSupervisor_iff, later_iff, State.linkGood]
  · rw [attention_of_settled hs]
    simp [State.attentionLine, State.deskAttention, or_assoc]
  · rw [attention_of_settled hs]
    simp [State.attentionLine, State.gatewayAttention]

end Sys2Proof.Proofs
end

/-! PROOFS. Queues, journal, counters and lists stay within what the part holds (R65, R97, R109, R142). -/

section
namespace Sys2Proof.Proofs

open Machine

/-- The fields that the capacities speak of. -/
def capacityFields : List Field := [.queues, .journal, .loads, .records]

theorem withinCapacity_reads : Reads capacityFields WithinCapacity := by
  intro s t h k
  have hq : t.queues = s.queues := h .queues (by decide)
  have hj : t.journal = s.journal := h .journal (by decide)
  have hl : t.loads = s.loads := h .loads (by decide)
  have hr : t.records = s.records := h .records (by decide)
  refine ⟨fun d => ?_, hj ▸ k.journal, hj ▸ k.gap, fun a => ?_, fun a => ?_, fun i r e => ?_⟩
  · simpa only [State.queue, hq] using k.queues d
  · simpa only [State.load, hl] using k.loads a
  · simpa only [State.load, hl] using k.counts a
  · exact k.items i r (by simpa only [State.record, hr] using e)

/-! ## Writes of one field -/

theorem withinCapacity_journal {s : State} {j : Journal} (hl : j.entries.length ≤ Config.journalCapacity)
    (hg : j.gap ≤ Config.saturation) (k : WithinCapacity s) : WithinCapacity { s with journal := j } :=
  ⟨k.queues, hl, hg, k.loads, k.counts, k.items⟩

theorem append_gap {j : Journal} (e : JournalEntry) (h : j.gap ≤ Config.saturation) :
    (j.append e).gap ≤ Config.saturation := by
  unfold Journal.append
  split
  · exact h
  · exact Nat.min_le_left _ _

theorem withinCapacity_enter {s : State} (kind : JournalKind) (f : EntryFields) (k : WithinCapacity s) :
    WithinCapacity (s.enter kind f) := by
  unfold State.enter
  split
  · exact withinCapacity_journal (Journal.append_length _ k.journal) (append_gap _ k.gap) k
  · exact k

theorem withinCapacity_setQueue {s : State} (d : Desk) {q : Queue} (hq : QueueLegal (queueCapacity d) q)
    (k : WithinCapacity s) : WithinCapacity (s.setQueue d q) := by
  refine ⟨fun e => ?_, k.journal, k.gap, k.loads, k.counts, k.items⟩
  by_cases he : e = d
  · subst he
    rwa [setQueue_queue]
  · rw [setQueue_queue_ne _ _ he]
    exact k.queues e

/-- A notice leaves every queue legal: it is pushed, or the marker is set, or nothing happens (R96). -/
theorem withinCapacity_deliver {s : State} (n : Notice) (names : Desk → Bool) (k : WithinCapacity s) :
    WithinCapacity (deliver s n names) := by
  unfold deliver
  split
  · refine ⟨fun d => ?_, k.journal, k.gap, k.loads, k.counts, k.items⟩
    have legal := k.queues d
    simp only [State.queue, Fin.getElem_fin, Vector.getElem_ofFn, Fin.eta]
    split
    · split
      · exact queueLegal_push n (queueCapacity_pos d) legal
      · exact queueLegal_anyResync legal true
    · exact legal
  · exact k

theorem withinCapacity_setLoad {s : State} (a : Area) {x : AreaLoad} (hl : x.load ≤ Config.saturation)
    (hc : x.count ≤ Config.saturation) (k : WithinCapacity s) : WithinCapacity (s.setLoad a x) := by
  have at_b : ∀ b, (s.setLoad a x).load b = if b = a then x else s.load b := by
    intro b
    by_cases e : b = a
    · subst e; simp
    · rw [setLoad_load_ne _ _ e, if_neg e]
  refine ⟨k.queues, k.journal, k.gap, fun b => ?_, fun b => ?_, k.items⟩
  · rw [at_b]
    split
    · exact hl
    · exact k.loads b
  · rw [at_b]
    split
    · exact hc
    · exact k.counts b

theorem withinCapacity_records {s t : State} (h : OnlyChanges [.records] s t)
    (items : ∀ i r, t.record i = some r → r.items.length ≤ Config.itemCapacity) (k : WithinCapacity s) :
    WithinCapacity t := by
  refine ⟨fun d => ?_, h.journal ▸ k.journal, h.journal ▸ k.gap, fun a => ?_, fun a => ?_, items⟩
  · rw [h.at_queue]; exact k.queues d
  · rw [h.at_load]; exact k.loads a
  · rw [h.at_load]; exact k.counts a

theorem withinCapacity_setRecord {s : State} (i : RecordIdx) {x : Option Record}
    (hx : ∀ r, x = some r → r.items.length ≤ Config.itemCapacity) (k : WithinCapacity s) :
    WithinCapacity (s.setRecord i x) := by
  refine withinCapacity_records (setRecord_changes _ _ _) (fun j r e => ?_) k
  by_cases hj : j = i
  · subst hj
    exact hx r (by simpa using e)
  · rw [setRecord_record_ne _ _ hj] at e
    exact k.items j r e

/-- Writing every record by a rule that keeps its items within their number. -/
theorem withinCapacity_mapRecords {s : State} (f : Record → Record)
    (hf : ∀ r, r.items.length ≤ Config.itemCapacity → (f r).items.length ≤ Config.itemCapacity)
    (k : WithinCapacity s) :
    WithinCapacity { s with records := Vector.ofFn fun i => (s.record i).map f } := by
  refine ⟨k.queues, k.journal, k.gap, k.loads, k.counts, fun i r e => ?_⟩
  have at_i : (s.record i).map f = some r := by simpa [State.record] using e
  cases hr : s.record i with
  | none => simp [hr] at at_i
  | some q =>
    rw [hr, Option.map_some] at at_i
    rw [← Option.some.inj at_i]
    exact hf q (k.items i q hr)

theorem follow_length (r : Record) (i : Nat) (p : Point) (fresh : Bool)
    (h : r.items.length ≤ Config.itemCapacity) : (r.follow i p fresh).items.length ≤ Config.itemCapacity := by
  unfold Record.follow
  split
  · simpa using h
  · split
    · split
      · simp only [List.length_append, List.length_singleton]
        omega
      · exact h
    · exact h

theorem withinCapacity_handItems {s : State} (i : Nat) (p : Point) (fresh : Bool) (k : WithinCapacity s) :
    WithinCapacity (handItems s i p fresh) := by
  refine withinCapacity_mapRecords _ (fun r h => ?_) k
  split
  · exact follow_length r i p fresh h
  · exact h

theorem withinCapacity_resolveMoved {s : State} (i : Nat) (old new : Area) (k : WithinCapacity s) :
    WithinCapacity (resolveMoved s i old new) := by
  refine withinCapacity_mapRecords _ (fun r h => ?_) k
  split
  · simpa using h
  · exact h

/-! ## The shared operations -/

theorem withinCapacity_of_changes {F : List Field} {s t : State} (h : OnlyChanges F s t)
    (apart : ∀ f ∈ capacityFields, f ∉ F := by decide) : WithinCapacity s → WithinCapacity t :=
  withinCapacity_reads.of_changes h apart

theorem foldl_keeps {α : Type} {X : State → Prop} {step : State → α → State}
    (h : ∀ s a, X s → X (step s a)) (l : List α) {s : State} (k : X s) : X (l.foldl step s) := by
  induction l generalizing s with
  | nil => exact k
  | cons a rest ih => exact ih (h s a k)

theorem withinCapacity_areaNotice {s : State} (a : Area) (b : Option Party) (k : WithinCapacity s) :
    WithinCapacity (areaNotice s a b) := by
  unfold areaNotice
  split
  · exact k
  · exact withinCapacity_deliver _ _ k

theorem withinCapacity_rederive {s : State} (old : State) (c : Cause) (m : Word16) (k : WithinCapacity s) :
    WithinCapacity (rederive old c m s) := by
  refine foldl_keeps (fun t a h => ?_) _ k
  unfold rederiveArea
  split
  · exact h
  · have put := fun x => withinCapacity_of_changes (setArea_changes t a x) (by decide) h
    dsimp only
    split
    · exact withinCapacity_enter _ _ (withinCapacity_areaNotice _ _ (put _))
    · split
      · exact withinCapacity_areaNotice _ _ (put _)
      · exact put _

theorem withinCapacity_changeCauses {s : State} {i : RecordIdx} {r : Record}
    (hr : r.items.length ≤ Config.itemCapacity) (k : WithinCapacity s) :
    WithinCapacity (changeCauses s i r) := by
  have noticed : WithinCapacity (handoverNotice (s.setRecord i (some (s.followCauses r)))
      ((s.followCauses r).body i) (s.followCauses r).names) := by
    refine withinCapacity_deliver _ _ (withinCapacity_setRecord i (fun q hq => ?_) k)
    rw [← Option.some.inj hq, (followCauses_keeps s r).2.2.2.2.1]
    exact hr
  unfold changeCauses
  dsimp only
  split
  · exact noticed
  · exact withinCapacity_enter _ _ noticed

theorem withinCapacity_floodEntered {s : State} (a : Area) (k : WithinCapacity s) :
    WithinCapacity (floodEntered s a) := by
  refine foldl_keeps (fun t i h => ?_) _ k
  split
  · rename_i r hr
    split
    · exact withinCapacity_changeCauses (h.items i r hr) h
    · exact h
  · exact h

theorem withinCapacity_floodLeft {s : State} (a : Area) (k : WithinCapacity s) :
    WithinCapacity (floodLeft s a) := by
  refine foldl_keeps (fun t i h => ?_) _ k
  split
  · rename_i r hr
    split
    · exact withinCapacity_changeCauses (h.items i r hr) h
    · exact h
  · exact h

theorem withinCapacity_leaveFlood {s : State} (a : Area) (k : WithinCapacity s) :
    WithinCapacity (leaveFlood s a) := by
  have noticed : WithinCapacity (if 0 < (s.load a).count then summaryNotice s a else s) := by
    split
    · exact withinCapacity_deliver _ _ k
    · exact k
  exact withinCapacity_setLoad a (k.loads a) (Nat.zero_le _) noticed

theorem withinCapacity_loadStateChanged {s : State} (a : Area) (before : LoadState) (k : WithinCapacity s) :
    WithinCapacity (loadStateChanged s a before) := by
  have told : WithinCapacity (if (s.load a).state = .flood then floodEntered s a
      else if before = .flood then floodLeft s a else s) := by
    split
    · exact withinCapacity_floodEntered a k
    · split
      · exact withinCapacity_floodLeft a k
      · exact k
  unfold loadStateChanged
  dsimp only
  refine withinCapacity_enter _ _ (withinCapacity_areaNotice _ _ ?_)
  generalize (if (s.load a).state = .flood then floodEntered s a
    else if before = .flood then floodLeft s a else s) = u at told ⊢
  split
  · exact withinCapacity_setLoad a (told.loads a) (told.counts a) told
  · split
    · exact withinCapacity_leaveFlood a told
    · exact told

theorem withinCapacity_applyLoad {s : State} (a : Area) {l : Nat}
    (hl : l ≤ max Config.saturation (s.load a).load) (k : WithinCapacity s) :
    WithinCapacity (applyLoad s a l) := by
  have hl : l ≤ Config.saturation := by
    have := k.loads a
    omega
  unfold applyLoad
  dsimp only
  split
  · exact withinCapacity_setLoad a hl (k.counts a) k
  · exact withinCapacity_loadStateChanged a _ (withinCapacity_setLoad a hl (k.counts a) k)

theorem withinCapacity_announce {s : State} (i : Nat) (c : Change) (k : WithinCapacity s) :
    WithinCapacity (announce s i c) := by
  unfold announce
  split
  · refine withinCapacity_handItems _ _ _ ?_
    split
    · exact k
    · unfold pointNotice
      split
      · exact withinCapacity_deliver _ _ k
      · exact k
  · exact k

theorem withinCapacity_releaseGroup {s : State} (g : GroupIdx) (x : Group) (k : WithinCapacity s) :
    WithinCapacity (releaseGroup s g x) := by
  refine foldl_keeps (fun t m h => ?_) _
    (withinCapacity_of_changes (setGroup_changes s g _) (by decide) k)
  unfold releaseMember
  split
  · split
    · exact withinCapacity_announce _ _ (withinCapacity_of_changes (setPoint_changes t m _) (by decide) h)
    · exact h
  · exact h

theorem queueLegal_empty (c : Nat) : QueueLegal c .empty := ⟨Nat.zero_le _, .nil, .nil⟩

/-- Queues, loads and records at their start are within what the part holds. -/
theorem withinCapacity_start {t : State} (hq : t.queues = .replicate 7 .empty)
    (hl : t.loads = .replicate 16 .quiet) (hr : t.records = .replicate 8 none)
    (hj : t.journal.entries.length ≤ Config.journalCapacity) (hg : t.journal.gap ≤ Config.saturation) :
    WithinCapacity t := by
  refine ⟨fun d => ?_, hj, hg, fun a => ?_, fun a => ?_, fun i r e => ?_⟩
  · simpa [State.queue, hq] using queueLegal_empty _
  · simp [State.load, hl, AreaLoad.quiet]
  · simp [State.load, hl, AreaLoad.quiet]
  · simp [State.record, hr] at e

theorem withinCapacity_act {F : List Field} {s t : State} (a : Act false F s t)
    (touched : ∃ f ∈ capacityFields, f ∈ F) (k : WithinCapacity s) : WithinCapacity t := by
  cases a <;> simp [capacityFields, inertFields] at touched
  case enter => exact withinCapacity_enter _ _ k
  case drain =>
    refine withinCapacity_journal ?_ (Nat.zero_le _) k
    have := k.journal
    simp only [List.length_drop]
    omega
  case deliver => exact withinCapacity_deliver _ _ k
  case setQueue legal => exact withinCapacity_setQueue _ (legal (k.queues _)) k
  case rederived h _ _ =>
    exact withinCapacity_rederive _ _ _ (withinCapacity_of_changes h (by decide) k)
  case setRecord i x items _ => exact withinCapacity_setRecord i (items (k.items i)) k
  case handItems => exact withinCapacity_handItems _ _ _ k
  case resolveMoved => exact withinCapacity_resolveMoved _ _ _ k
  case applyLoad bound => exact withinCapacity_applyLoad _ bound k
  case setLoad a x load _ count =>
    have hl := k.loads a
    have hc := k.counts a
    exact withinCapacity_setLoad a (by omega) (by omega) k
  case releaseGroup => exact withinCapacity_releaseGroup _ _ k
  case takeIntoUse => exact withinCapacity_start rfl rfl rfl k.journal k.gap
  case reset h _ journal _ =>
    refine withinCapacity_start h.queues h.loads h.records ?_ ?_ <;> rcases journal with e | e <;> rw [e]
    · exact k.journal
    · exact Nat.zero_le _
    · exact k.gap
    · exact Nat.zero_le _
  case cleared => exact withinCapacity_start rfl rfl rfl (Nat.zero_le _) (Nat.min_le_left _ _)
  case edit => contradiction

/-- Settles O13: each act leaves every queue legal and every list and counter within its capacity. -/
theorem everyStepKeepsCapacity : Obligations.EveryStepKeepsCapacity :=
  keptByStep_of_act false withinCapacity_reads (by decide) fun _ _ _ => withinCapacity_act

end Sys2Proof.Proofs
end

/-! PROOFS. A badge holds at most one session, a credential stands in its row (R112, R113, R120), and the
attendance of every area is the derived one (R131, R132). -/

section
namespace Sys2Proof.Proofs

open Machine

/-! ## Sessions -/

def sessionDeskFields : List Field := [.desks]

theorem sessionsApart_reads : Reads sessionDeskFields SessionsApart := fun _ _ h =>
  sessionsApart_congr (h .desks (by decide))

theorem badge_of_view {x y : Option Session} (h : sessionView x = sessionView y) {z : Session}
    (hx : x = some z) : ∃ z', y = some z' ∧ z'.badge = z.badge := by
  subst hx
  cases y with
  | none => simp [sessionView] at h
  | some z' => exact ⟨z', rfl, by simp only [sessionView, Option.map_some] at h; simp_all⟩

theorem sessionsApart_fresh {t : State} (h : t.desks = .replicate 7 .fresh) : SessionsApart t := by
  intro d e x y hx
  simp [State.desk, h, DeskState.fresh] at hx

theorem sessionsApart_act {F : List Field} {s t : State} (a : Act false F s t)
    (touched : ∃ f ∈ sessionDeskFields, f ∈ F) (k : SessionsApart s) : SessionsApart t := by
  cases a <;> simp [sessionDeskFields, inertFields, loadFields, handingFields, editFields] at touched
  case setDesk same =>
    refine sessionsApart_setDesk (fun x hx => .inl ?_) k
    obtain ⟨z, hz, hb⟩ := badge_of_view same hx
    exact ⟨z, hz, hb⟩
  case rederived apart => exact sessionsApart_congr (rederive_changes _ _ _ _).desks (apart k)
  case takeIntoUse => exact sessionsApart_fresh rfl
  case reset h _ _ _ => exact sessionsApart_fresh h.desks
  case cleared => exact sessionsApart_fresh rfl

/-! ## Credentials -/

def credentialFields : List Field := [.creds]

theorem credentialsPlaced_reads : Reads credentialFields CredentialsPlaced := by
  intro s t h k
  have hc : t.creds = s.creds := h .creds (by decide)
  unfold CredentialsPlaced
  rw [hc]
  exact k

theorem noCredentials_get (row : Fin 64) (v : Fin 4) : noCredentials[row][v] = none := by
  simp [noCredentials]

theorem placeCredential_placed {s : State} {creds next : Vector CredRow 64} {entry : List Byte}
    (h : placeCredential creds entry = some next) (k : CredentialsPlaced { s with creds := creds }) :
    CredentialsPlaced { s with creds := next } := by
  unfold placeCredential at h
  split at h
  · simp at h
  · rename_i c _
    dsimp only at h
    split at h
    · simp at h
    · rename_i hb
      split at h
      · rename_i absent _
        rw [← Option.some.inj h]
        exact credentialsPlaced_write (s := { s with creds := creds }) hb (.inr absent) k
      · simp at h

theorem placeCredentials_placed {s : State} {l : List (Nat × List Byte)} {creds next : Vector CredRow 64}
    (h : placeCredentials creds l = .ok next) (k : CredentialsPlaced { s with creds := creds }) :
    CredentialsPlaced { s with creds := next } := by
  induction l generalizing creds with
  | nil =>
    rw [placeCredentials, Except.ok.injEq] at h
    exact h ▸ k
  | cons e rest ih =>
    rw [placeCredentials] at h
    split at h
    · exact ih h (placeCredential_placed ‹_› k)
    · simp at h

theorem credentialsPlaced_none {t : State} (h : ∀ (row : Fin 64) (v : Fin 4), t.creds[row][v] = none) :
    CredentialsPlaced t := by
  intro row v c hc
  rw [h] at hc
  exact absurd hc (by simp)

theorem credentialsPlaced_takeIntoUse (s : State) : CredentialsPlaced (takeIntoUse s) := by
  have placed : CredentialsPlaced { s with creds := s.staged.credentials } := by
    unfold Staged.credentials
    split
    · exact placeCredentials_placed ‹_› (credentialsPlaced_none noCredentials_get)
    · exact credentialsPlaced_none noCredentials_get
  exact placed

theorem credentialsPlaced_act {F : List Field} {s t : State} (a : Act false F s t)
    (touched : ∃ f ∈ credentialFields, f ∈ F) (k : CredentialsPlaced s) : CredentialsPlaced t := by
  cases a <;> simp [credentialFields, inertFields, loadFields, handingFields, editFields] at touched
  case setCreds placed => exact placed k
  case takeIntoUse => exact credentialsPlaced_takeIntoUse s
  case reset h _ _ _ =>
    refine credentialsPlaced_none fun row v => ?_
    rw [h.creds]
    exact noCredentials_get row v
  case cleared => exact k

/-- Settles O18: only a login and the writes of the credential table can touch what is asked, and each is
made after the check that keeps it. -/
theorem everyStepKeepsBadgesApart : Obligations.EveryStepKeepsBadgesApart :=
  ⟨keptByStep_of_act false sessionsApart_reads (by decide) fun _ _ _ => sessionsApart_act,
   keptByStep_of_act false credentialsPlaced_reads (by decide) fun _ _ _ => credentialsPlaced_act⟩

/-! ## Attendance -/

def attendanceFields : List Field := [.map, .desks, .ports]

theorem attendanceDerived_reads : Reads attendanceFields AttendanceDerived := by
  intro s t h k a r ha
  have hm : t.map = s.map := h .map (by decide)
  rw [deriveAttendance_congr (h .desks (by decide)) (h .ports (by decide))]
  exact k a r (by simpa only [State.area, hm] using ha)

/-- Attendance reads of a session its presence and its badge, and of a port of the desks its link. -/
theorem deriveAttendance_of_view {s t : State}
    (hd : ∀ d, sessionView (t.desk d).session = sessionView (s.desk d).session)
    (hl : ∀ d, t.linkGood (deskPort d) = s.linkGood (deskPort d)) (o : Option Party) :
    t.deriveAttendance o = s.deriveAttendance o := by
  have present : ∀ d, t.present d = s.present d := by
    intro d
    have := hd d
    unfold State.present
    cases ht : (t.desk d).session <;> cases hs : (s.desk d).session <;> simp_all [sessionView]
  unfold State.deriveAttendance
  cases o with
  | none => simp only [present]
  | some p =>
    have view := hd (consoleDesk p.console)
    cases ht : (t.desk (consoleDesk p.console)).session <;>
      cases hs : (s.desk (consoleDesk p.console)).session <;> simp_all [sessionView]

theorem deriveAttendance_fresh {t : State} (h : t.desks = .replicate 7 .fresh) (o : Option Party) :
    t.deriveAttendance o = .unattended := by
  have none : ∀ d, (t.desk d).session = none := fun d => by simp [State.desk, h, DeskState.fresh]
  unfold State.deriveAttendance
  cases o <;> simp [none, State.present]

theorem attendanceDerived_act {F : List Field} {s t : State} (a : Act false F s t)
    (touched : ∃ f ∈ attendanceFields, f ∈ F) (k : AttendanceDerived s) : AttendanceDerived t := by
  cases a <;> simp [attendanceFields, inertFields, loadFields, handingFields] at touched
  case setPort p x link =>
    intro a r ha
    refine (k a r ha).trans (deriveAttendance_of_view (s := s) (t := s.setPort p x) (fun _ => rfl) (fun d => ?_) _).symm
    · by_cases e : deskPort d = p
      · simp only [State.linkGood]
        rw [e, setPort_port, link d e.symm]
      · simp only [State.linkGood]
        rw [setPort_port_ne _ _ e]
  case setDesk d x same =>
    intro a r ha
    refine (k a r ha).trans (deriveAttendance_of_view (s := s) (t := s.setDesk d x) (fun e => ?_) (fun _ => rfl) _).symm
    · by_cases h : e = d
      · subst h
        rw [setDesk_desk, same]
      · rw [setDesk_desk_ne _ _ h]
  case rederived => exact rederive_derived _ _ _ _
  case changeAreas set f same =>
    have hc := changeAreas_changes s set f
    intro a r ha
    rw [deriveAttendance_congr hc.desks hc.ports]
    rw [changeAreas_area] at ha
    split at ha
    · obtain ⟨q, hq, rfl⟩ := Option.map_eq_some_iff.1 ha
      rw [(same q).1, (same q).2]
      exact k a q hq
    · exact k a r ha
  case takeIntoUse =>
    intro a r ha
    have ha : (s.staged.areaName a).map AreaRecord.fresh = some r := by
      simpa [State.area, takeIntoUse] using ha
    obtain ⟨name, _, rfl⟩ := Option.map_eq_some_iff.1 ha
    exact (deriveAttendance_fresh rfl _).symm
  case reset h _ _ _ =>
    intro a r ha
    rw [State.area, h.map] at ha
    simp [State.reset] at ha
  case cleared =>
    intro a r ha
    have ha : (s.area a).map AreaRecord.restarted = some r := by
      simpa [State.area, cleared] using ha
    obtain ⟨q, _, rfl⟩ := Option.map_eq_some_iff.1 ha
    exact (deriveAttendance_fresh rfl _).symm
  case edit => contradiction

theorem present_iff (s : State) (d : Desk) :
    s.present d = true ↔ ∃ x, (s.desk d).session = some x ∧ (x.presence = .active ∨ x.presence = .idle) := by
  unfold State.present
  cases (s.desk d).session with
  | none => simp
  | some x => cases hp : x.presence <;> simp [hp]

/-- The owner's console holds an ACTIVE or IDLE session under the owner's badge, and its port is GOOD. -/
def OwnerAttends (s : State) (owner : Option Party) : Prop :=
  ∃ p, owner = some p ∧ (∃ x, (s.desk (consoleDesk p.console)).session = some x ∧
    (x.presence = .active ∨ x.presence = .idle) ∧ x.badge = p.badge) ∧
    (s.port (deskPort (consoleDesk p.console))).link ≠ .silent

open Classical in
/-- The table of R131. -/
theorem deriveAttendance_table (s : State) (owner : Option Party) :
    s.deriveAttendance owner =
      if OwnerAttends s owner then .attended
      else if s.present supervisor = true then .covered else .unattended := by
  have good : ∀ p, s.linkGood p = true ↔ (s.port p).link ≠ .silent := by
    intro p
    unfold State.linkGood
    cases (s.port p).link <;> simp
  unfold State.deriveAttendance OwnerAttends
  cases owner with
  | none => simp
  | some p =>
    cases hs : (s.desk (consoleDesk p.console)).session with
    | none => simp [hs]
    | some x =>
      cases hp : x.presence <;> simp [hs, hp, good]

/-- Settles O14: whatever moves a session, a link or an owner is followed by a re-derivation. -/
theorem everyStepDerivesAttendance : Obligations.EveryStepDerivesAttendance := by
  refine ⟨keptByStep_of_act false attendanceDerived_reads (by decide)
    fun _ _ _ => attendanceDerived_act, fun owner s => ?_⟩
  have presence : (∃ x, (s.desk supervisor).session = some x ∧
      (x.presence = .active ∨ x.presence = .idle) ∧ True) ↔ s.present supervisor = true := by
    simp only [and_true, present_iff]
  dsimp only
  rw [presence, deriveAttendance_table]
  refine ⟨fun h => if_pos h, fun h k => ?_, fun h k => ?_⟩
  · exact (if_neg h).trans (if_pos k)
  · exact (if_neg h).trans (if_neg k)

end Sys2Proof.Proofs
end

/-! PROOFS. The queue of commands, power, time, the journal, and what holds after a reset. -/

section
namespace Sys2Proof.Proofs

open Machine

/-! ## Commands -/

/-- Settles O1: the step is the match on the queue. -/
theorem stepRunsFrontCommand : Obligations.StepRunsFrontCommand := by
  refine ⟨fun c rest s => rfl, fun s h => ?_⟩
  unfold step
  rw [h]

theorem exec_next (c : Instr) (s : State) : ∃ t, exec c s = .next t := by
  cases c <;> exact ⟨_, rfl⟩

/-- No act touches the queue of commands. -/
theorem Act.pending {w : Bool} {F : List Field} {s t : State} (h : Act w F s t) : t.pending = s.pending := by
  by_cases touched : Field.pending ∈ F
  · cases h
    case reset pending => exact pending
    all_goals simp [inertFields, loadFields, handingFields, editFields, bulkFields] at touched
  · exact h.changes .pending touched

theorem Acts.pending {w : Bool} {s t : State} (h : Acts w s t) : t.pending = s.pending := by
  induction h with
  | refl => rfl
  | tail _ last ih =>
    obtain ⟨F, act⟩ := last
    exact act.pending.trans ih

/-- Settles O2: a command is a run of acts, and no act touches the queue. -/
theorem everyCommandGoesOn : Obligations.EveryCommandGoesOn := by
  intro c s
  obtain ⟨t, h⟩ := exec_next c s
  refine ⟨t, h, ?_⟩
  by_cases tick : ∃ n, c = .timeReferenceTick n
  · obtain ⟨n, rfl⟩ := tick
    rw [← Host.Outcome.next.inj h]
    rfl
  · exact (exec_acts (w := false) (fun n e => tick ⟨n, e⟩) h).pending

/-- Settles O3: every register is read from the reset state. -/
theorem powerOnAndResetPinClear : Obligations.PowerOnAndResetPinClear := by
  intro s
  refine ⟨resetKeepingQueue s, rfl, rfl, rfl, rfl, rfl, rfl, rfl, rfl, rfl, rfl, rfl, rfl, rfl, rfl, rfl,
    fun d => ⟨?_, ?_, ?_, ?_⟩, fun p => ⟨?_, ?_⟩, fun g => ?_, fun a => ⟨?_, ?_⟩, fun g => ?_, fun i => ?_,
    fun row w => ?_, fun k => ⟨?_, ?_⟩, fun p => ?_, rfl, rfl⟩ <;>
  simp [resetKeepingQueue, State.reset, State.queue, State.mark, State.desk, State.port, State.gateway,
    State.area, State.load, State.group, State.record, Staged.empty]

/-! ## Elapsed time -/

theorem passCycles_passCycles (s : State) (n m : Nat) :
    passCycles (passCycles s n) m = passCycles s (n + m) := by
  have cycles : ((s.refCycles.val + n) % 100 + m) % 100 = (s.refCycles.val + (n + m)) % 100 := by omega
  have tenths : (s.refCycles.val + n) / 100 + ((s.refCycles.val + n) % 100 + m) / 100 =
      (s.refCycles.val + (n + m)) / 100 := by omega
  simp only [passCycles, after, cycles, BitVec.add_assoc, ← BitVec.ofNat_add, tenths]

/-- Settles O4: two runs of cycles add up, and the lines take no part in them. -/
theorem elapsedTimeCountsTenths : Obligations.ElapsedTimeCountsTenths := by
  intro n s
  refine ⟨_, rfl, ?_, rfl, ?_, fun m => ?_⟩
  · simp [settle, passCycles, after]
  · intro f hf
    cases f <;> first | rfl | simp at hf
  · have lines : exec (.timeReferenceTick m) (settle (passCycles s n)) =
        .next (settle (passCycles (passCycles s n) m)) := rfl
    rw [lines, passCycles_passCycles]
    rfl

/-! ## The load state and the journal -/

/-- Settles O22: the table of R71, by the state before. -/
theorem loadStateFollowsTable : Obligations.LoadStateFollowsTable := by
  intro s before l
  have ordered : thresholdsOrdered s.params = true →
      s.param 7 < s.param 6 ∧ s.param 9 < s.param 8 ∧ s.param 6 ≤ s.param 8 ∧ s.param 7 ≤ s.param 9 := by
    simp [thresholdsOrdered, State.param, and_assoc]
  dsimp only
  cases before <;> unfold State.evalLoad <;> grind

/-- Settles O24: the journal of R110. -/
theorem entryReachesJournal : Obligations.EntryReachesJournal := by
  intro j e
  refine ⟨fun room => ?_, fun oldest rest h full => ?_⟩
  · exact if_pos room
  · have : j.append e = { entries := j.entries.tail ++ [e], gap := min Config.saturation (j.gap + 1) } :=
      if_neg (by simp [full, Config.journalCapacity])
    rw [this, h]
    refine ⟨rfl, fun below => ?_, fun top => ?_⟩
    · exact Nat.min_eq_right below
    · simp [top, Config.saturation]

/-! ## The state after reset -/

theorem reset_record (i : RecordIdx) : State.reset.record i = none := by
  simp [State.record, State.reset]

theorem reset_area (a : Area) : State.reset.area a = none := by
  simp [State.area, State.reset]

theorem reset_load (a : Area) : State.reset.load a = .quiet := by
  simp [State.load, State.reset]

theorem reset_queue (d : Desk) : State.reset.queue d = .empty := by
  simp [State.queue, State.reset]

theorem reset_point (i : Nat) : State.reset.point i = none := rfl

theorem withinCapacity_reset : WithinCapacity State.reset where
  queues d := by rw [reset_queue]; exact queueLegal_empty _
  journal := by decide
  gap := by decide
  loads a := by rw [reset_load]; decide
  counts a := by rw [reset_load]; decide
  items i r h := by rw [reset_record] at h; cases h

theorem tablesRise_reset : TablesRise State.reset where
  points := .nil
  channels := .nil
  staged k := by
    have : State.reset.staged.tables[k] = [] := by simp [State.reset, Staged.empty]
    rw [this]
    exact .nil

/-- Settles O20: nothing is defined after a reset, and the parameters stand at their defaults. -/
theorem resetHasEveryInvariant : Obligations.ResetHasEveryInvariant := by
  have points : ∀ {i p}, State.reset.point i = some p → False := fun h => by cases h
  refine ⟨rfl, withinCapacity_reset, ⟨fun i p h => (points h).elim, by decide, .nil⟩, fun a r h => ?_,
    fun i r h => ?_, tablesRise_reset, sessionsApart_fresh rfl, credentialsPlaced_none noCredentials_get,
    ⟨by decide, fun a h => ?_⟩, fun i p h => (points h).elim, fun i p g x h => (points h).elim,
    ⟨.nil, fun e he => by cases he⟩, by unfold ParamsInRange; decide, ⟨fun i p g h => (points h).elim, fun i p h => (points h).elim⟩,
    fun _ => ⟨rfl, rfl⟩⟩
  · rw [reset_area] at h
    cases h
  · rw [reset_record] at h
    cases h
  · rw [reset_area] at h
    cases h

end Sys2Proof.Proofs
end

/-! PROOFS. The tables rise, the head of a group is no member of it, SUPPRESSED points are blocked members, and
a device that is not RUNNING is bare (R57, R61, R104, R175). -/

section
namespace Sys2Proof.Proofs

open Machine

/-! ## Tables by rising index -/

theorem keysRise_mapValues {α β : Type} {t : List (Nat × α)} (f : α → β) (h : KeysRise t) :
    KeysRise (t.map fun e => (e.1, f e.2)) := List.pairwise_map.2 h

theorem keysRise_filterMap {α β : Type} {t : List (Nat × α)} {f : Nat × α → Option (Nat × β)}
    (key : ∀ e y, f e = some y → y.1 = e.1) (h : KeysRise t) : KeysRise (t.filterMap f) := by
  refine List.pairwise_filterMap.2 (h.imp fun {e e'} lt y hy y' hy' => ?_)
  rw [key e y hy, key e' y' hy']
  exact lt

theorem tableGet_of_mem {α : Type} {l : List (Nat × α)} {i : Nat} {x : α} (h : tableGet l i = some x) :
    (i, x) ∈ l := by
  induction l with
  | nil => cases h
  | cons e rest ih =>
    obtain ⟨k, y⟩ := e
    by_cases hk : k = i
    · simp only [tableGet, hk, if_true, Option.some.injEq] at h
      simp [hk, h]
    · simp only [tableGet, hk, if_false] at h
      exact List.mem_cons_of_mem _ (ih h)

theorem tableGet_mapValues {α β : Type} (t : List (Nat × α)) (f : α → β) (i : Nat) :
    tableGet (t.map fun e => (e.1, f e.2)) i = (tableGet t i).map f := by
  induction t with
  | nil => rfl
  | cons e rest ih =>
    obtain ⟨k, x⟩ := e
    by_cases h : k = i
    · simp [tableGet, h]
    · simpa [tableGet, h] using ih

def tableFields : List Field := [.points, .channels, .staged]

theorem tablesRise_reads : Reads tableFields TablesRise := by
  intro s t h k
  refine ⟨?_, ?_, ?_⟩
  · rw [show t.points = s.points from h .points (by decide)]
    exact k.points
  · rw [show t.channels = s.channels from h .channels (by decide)]
    exact k.channels
  · rw [show t.staged = s.staged from h .staged (by decide)]
    exact k.staged

theorem staged_points_rise {st : Staged} (h : ∀ k : Fin 9, KeysRise st.tables[k]) : KeysRise st.points := by
  have raw : KeysRise st.rawPoints := by
    refine keysRise_filterMap (fun e y hy => ?_) (h kindPoints)
    obtain ⟨r, _, rfl⟩ := Option.map_eq_some_iff.1 hy
    rfl
  refine keysRise_filterMap (fun e y hy => ?_) raw
  split at hy
  · rw [← Option.some.inj hy]
  · cases hy

theorem staged_channels_rise {st : Staged} (h : ∀ k : Fin 9, KeysRise st.tables[k]) :
    KeysRise st.channels := by
  refine keysRise_filterMap (fun e y hy => ?_) (h kindChannels)
  obtain ⟨k, _, rfl⟩ := Option.map_eq_some_iff.1 hy
  rfl

theorem empty_tables_rise (k : Fin 9) : KeysRise Staged.empty.tables[k] := by
  simp [Staged.empty, KeysRise]

theorem tablesRise_setPoint {s : State} (i : Nat) (q : Point) (k : TablesRise s) :
    TablesRise (s.setPoint i q) :=
  ⟨k.points.modify i fun _ => q, k.channels, k.staged⟩

theorem tablesRise_releaseGroup {s : State} (g : GroupIdx) (x : Group) (k : TablesRise s) :
    TablesRise (releaseGroup s g x) := by
  refine foldl_keeps (fun t m h => ?_) _ (tablesRise_reads.of_changes (setGroup_changes s g _) (by decide) k)
  unfold releaseMember
  split
  · split
    · exact tablesRise_reads.of_changes (announce_changes _ _ _) (by decide) (tablesRise_setPoint m _ h)
    · exact h
  · exact h

theorem tablesRise_act {F : List Field} {s t : State} (a : Act false F s t)
    (touched : ∃ f ∈ tableFields, f ∈ F) (k : TablesRise s) : TablesRise t := by
  cases a <;> simp [tableFields, inertFields, loadFields, editFields] at touched
  case setPoint => exact tablesRise_setPoint _ _ k
  case shelve => exact tablesRise_setPoint (s := { s with shelf := _ }) _ _ ⟨k.points, k.channels, k.staged⟩
  case unshelve => exact tablesRise_setPoint (s := { s with shelf := _ }) _ _ ⟨k.points, k.channels, k.staged⟩
  case releaseGroup => exact tablesRise_releaseGroup _ _ k
  case setChannel c x => exact ⟨k.points, k.channels.modify c fun _ => x, k.staged⟩
  case load rise => exact ⟨k.points, k.channels, rise k⟩
  case takeIntoUse =>
    exact ⟨staged_points_rise k.staged, staged_channels_rise k.staged, empty_tables_rise⟩
  case reset h _ _ _ => exact tablesRise_reads.of_changes h (by decide) tablesRise_reset
  case cleared =>
    exact ⟨keysRise_mapValues _ k.points, keysRise_mapValues (fun c : Channel => Channel.fresh c.kind) k.channels,
      k.staged⟩

/-! ## Where the points and groups of an act come from -/

/-- Every point after a write of one is a point before, or the one written. -/
theorem setPoint_origin {s : State} {i : Nat} {p q : Point} (h : s.point i = some p) {j : Nat} {r : Point}
    (hr : (s.setPoint i q).point j = some r) : j ≠ i ∧ s.point j = some r ∨ j = i ∧ r = q := by
  by_cases e : j = i
  · subst e
    rw [setPoint_point_of h] at hr
    exact .inr ⟨rfl, (Option.some.inj hr).symm⟩
  · rw [setPoint_point_ne _ _ e] at hr
    exact .inl ⟨e, hr⟩

theorem setGroup_origin {s : State} {g : GroupIdx} {y : Group} {h : GroupIdx} {z : Group}
    (hz : (s.setGroup g y).group h = some z) : s.group h = some z ∨ h = g ∧ z = y := by
  by_cases e : h = g
  · subst e
    rw [setGroup_group] at hz
    exact .inr ⟨rfl, (Option.some.inj hz).symm⟩
  · rw [setGroup_group_ne _ _ e] at hz
    exact .inl hz

theorem takeIntoUse_group (s : State) (g : GroupIdx) : (takeIntoUse s).group g = s.staged.groupAt g := by
  simp [State.group, takeIntoUse]

theorem takeIntoUse_point {s : State} {i : Nat} {p : Point} (h : (takeIntoUse s).point i = some p) :
    ∃ r : RawPoint, p = Point.fresh (r.cfg (s.staged.membershipOf i) (s.staged.headshipOf i)) := by
  have mem : (i, p) ∈ s.staged.points := tableGet_of_mem h
  obtain ⟨e, _, he⟩ := List.mem_filterMap.1 mem
  split at he
  · obtain ⟨rfl, rfl⟩ := Prod.mk.inj (Option.some.inj he)
    exact ⟨e.2, rfl⟩
  · cases he

theorem cleared_point (s : State) (i : Nat) :
    (cleared s).point i = (s.point i).map (Point.restarted s.serial) :=
  tableGet_mapValues s.points _ i

theorem cleared_group (s : State) (g : GroupIdx) : (cleared s).group g = (s.group g).map Group.restarted := by
  simp [State.group, cleared]

theorem reset_group (g : GroupIdx) : State.reset.group g = none := by
  simp [State.group, State.reset]

/-- A value stored can change the release delay of a group and nothing else of it. -/
theorem storeValues_group (s : State) (vs : List (Nat × Nat)) (g : GroupIdx) :
    ((storeValues s vs).group g).map (fun x => { x with delay := 0 }) =
      (s.group g).map (fun x => { x with delay := 0 }) := by
  refine foldl_keeps (X := fun t => (t.group g).map (fun x => { x with delay := 0 }) =
    (s.group g).map (fun x => { x with delay := 0 })) (fun t e h => ?_) vs rfl
  split
  · rename_i slot _
    cases slot with
    | param n => exact h
    | idle d => exact h
    | absent d => exact h
    | release b =>
      unfold setSlot
      dsimp only
      split
      · rename_i x hx
        by_cases e : g = b
        · subst e
          rw [setGroup_group, ← h, hx]
          rfl
        · rw [setGroup_group_ne _ _ e, h]
      · exact h
  · exact h

theorem storeValues_group_of {s : State} {vs : List (Nat × Nat)} {g : GroupIdx} {x : Group}
    (h : s.group g = some x) : ∃ y, (storeValues s vs).group g = some y ∧ y.members = x.members ∧
      y.state = x.state := by
  have same := storeValues_group s vs g
  rw [h] at same
  obtain ⟨y, hy, he⟩ := Option.map_eq_some_iff.1 same
  simp only [Group.mk.injEq] at he
  exact ⟨y, hy, he.2.1, he.2.2.1⟩

theorem storeValues_group_origin {s : State} {vs : List (Nat × Nat)} {g : GroupIdx} {y : Group}
    (h : (storeValues s vs).group g = some y) : ∃ x, s.group g = some x ∧ y.members = x.members := by
  have same := storeValues_group s vs g
  rw [h] at same
  obtain ⟨x, hx, he⟩ := Option.map_eq_some_iff.1 same.symm
  simp only [Group.mk.injEq] at he
  exact ⟨x, hx, he.2.1.symm⟩

/-! ## Heads -/

/-- No point that becomes the head of a group and no group that gains a member appears. -/
theorem headsApart_of {s t : State}
    (points : ∀ i q, t.point i = some q → ∃ p, s.point i = some p ∧ q.cfg.headOf = p.cfg.headOf)
    (groups : ∀ g y, t.group g = some y → ∃ x, s.group g = some x ∧ y.members = x.members)
    (k : HeadsApart s) : HeadsApart t := by
  intro i q g y hq hh hy
  obtain ⟨p, hp, head⟩ := points i q hq
  obtain ⟨x, hx, members⟩ := groups g y hy
  rw [members]
  exact k i p g x hp (head ▸ hh) hx

def headFields : List Field := [.points, .groups]

theorem headsApart_reads : Reads headFields HeadsApart := by
  intro s t h
  have hp : t.points = s.points := h .points (by decide)
  have hg : t.groups = s.groups := h .groups (by decide)
  exact headsApart_of (s := s) (fun i q hq => ⟨q, by simpa only [State.point, hp] using hq, rfl⟩)
    (fun g y hy => ⟨y, by simpa only [State.group, hg] using hy, rfl⟩)

theorem headsApart_setPoint {s : State} {i : Nat} {p q : Point} (h : s.point i = some p)
    (head : q.cfg.headOf = p.cfg.headOf) : HeadsApart s → HeadsApart (s.setPoint i q) := by
  refine headsApart_of (s := s) (fun j r hr => ?_) (fun g y hy => ⟨y, hy, rfl⟩)
  rcases setPoint_origin h hr with ⟨_, hr⟩ | ⟨rfl, rfl⟩
  · exact ⟨r, hr, rfl⟩
  · exact ⟨p, h, head⟩

/-- Check 7 of a load asks of each configured group what concerns it alone (R177). -/
theorem groupAlone_of_badGroup {st : Staged} {before : List RawGroup} {l : List (Nat × RawGroup)}
    (h : st.badGroup before l = none) {e : Nat × RawGroup} (he : e ∈ l) (hc : e.2.configured = 1#8) :
    st.groupAlone e.2 = true := by
  induction l generalizing before with
  | nil => cases he
  | cons x rest ih =>
    obtain ⟨g, r⟩ := x
    rw [Staged.badGroup] at h
    split at h
    · split at h
      · rename_i both
        rcases List.mem_cons.1 he with rfl | he
        · exact (Bool.and_eq_true_iff.1 both).1
        · exact ih h he
      · cases h
    · split at h
      · rcases List.mem_cons.1 he with rfl | he
        · contradiction
        · exact ih h he
      · cases h

theorem groupAt_alone {st : Staged} (h : st.fault = none) {g : GroupIdx} {x : Group}
    (hx : st.groupAt g = some x) : x.members.contains x.head = false := by
  have check : st.badGroup [] st.rawGroups = none := by
    simp only [Staged.fault, List.findSome?_eq_none_iff] at h
    simpa [Staged.check7] using h (7, st.check7) (by simp)
  unfold Staged.groupAt at hx
  split at hx
  · rename_i r hr
    split at hx
    · rename_i hc
      obtain ⟨raw, hraw, hr⟩ := Option.bind_eq_some_iff.1 hr
      have mem : (g.val, r) ∈ st.rawGroups :=
        List.mem_filterMap.2 ⟨_, tableGet_of_mem hraw, by simp [hr]⟩
      have alone := groupAlone_of_badGroup check mem hc
      rw [← Option.some.inj hx]
      simp only [Staged.groupAlone, Bool.and_eq_true, Bool.not_eq_true'] at alone
      exact alone.2
    · cases hx
  · cases hx

theorem headsApart_takeIntoUse {s : State} (h : s.staged.fault = none) : HeadsApart (takeIntoUse s) := by
  intro i p g x hp hh hx
  obtain ⟨r, rfl⟩ := takeIntoUse_point hp
  rw [takeIntoUse_group] at hx
  have head := List.find?_some (show s.staged.headshipOf i = some g from hh)
  have apart := groupAt_alone h hx
  simp only [hx, Option.any_some, beq_iff_eq] at head
  intro mem
  rw [head, List.contains_iff_mem.2 mem] at apart
  cases apart

theorem headsApart_act {F : List Field} {s t : State} (a : Act false F s t)
    (touched : ∃ f ∈ headFields, f ∈ F) (k : HeadsApart s) : HeadsApart t := by
  cases a <;> simp [headFields, inertFields, loadFields] at touched
  case setPoint p q _ h follows => exact headsApart_setPoint h follows.headOf k
  case shelve p q e n _ _ _ h follows _ _ _ =>
    exact headsApart_setPoint (s := { s with shelf := _ }) h follows.headOf k
  case unshelve p q _ h follows =>
    exact headsApart_setPoint (s := { s with shelf := _ }) h follows.headOf k
  case setGroup g x y members _ h =>
    refine headsApart_of (s := s) (fun i p hp => ⟨p, hp, rfl⟩) (fun b z hz => ?_) k
    rcases setGroup_origin hz with hz | ⟨rfl, rfl⟩
    · exact ⟨z, hz, rfl⟩
    · exact ⟨x, h, members⟩
  case releaseGroup g x h =>
    refine headsApart_of (s := s) (fun i q hq => ?_) (fun b z hz => ?_) k
    · rw [releaseGroup_point] at hq
      split at hq
      · obtain ⟨p, hp, rfl⟩ := Option.map_eq_some_iff.1 hq
        exact ⟨p, hp, rfl⟩
      · exact ⟨q, hq, rfl⟩
    · by_cases e : b = g
      · subst e
        rw [releaseGroup_group] at hz
        exact ⟨x, h, by rw [← Option.some.inj hz]⟩
      · exact ⟨z, by rwa [releaseGroup_group_ne _ _ e] at hz, rfl⟩
  case takeIntoUse h => exact headsApart_takeIntoUse h
  case reset h _ _ _ =>
    exact headsApart_reads.of_changes h (by decide) fun i p g x hp => by cases hp
  case cleared =>
    refine headsApart_of (s := s) (fun i q hq => ?_) (fun g y hy => ?_) k
    · rw [cleared_point] at hq
      obtain ⟨p, hp, rfl⟩ := Option.map_eq_some_iff.1 hq
      exact ⟨p, hp, rfl⟩
    · rw [cleared_group] at hy
      obtain ⟨x, hx, rfl⟩ := Option.map_eq_some_iff.1 hy
      exact ⟨x, hx, rfl⟩
  case store vs _ _ =>
    exact headsApart_of (s := s)
      (fun i q hq => ⟨q, ((storeValues_changes s vs).at_point i).symm.trans hq, rfl⟩)
      (fun g y hy => storeValues_group_origin hy) k
  case edit => contradiction

/-! ## SUPPRESSED -/

theorem blocks_iff (s : State) (p : Point) : s.blocks p = true ↔
    ∃ g x, p.cfg.group = some g ∧ s.group g = some x ∧ (x.state = .blocking ∨ x.state = .releasing) := by
  unfold State.blocks
  cases hg : p.cfg.group with
  | none => simp
  | some g =>
    cases hx : s.group g with
    | none => simp [hx]
    | some x => cases hs : x.state <;> simp [hx, hs]

theorem blocks_of_group {s t : State} {p q : Point} (cfg : q.cfg.group = p.cfg.group)
    (groups : ∀ g x, p.cfg.group = some g → s.group g = some x → x.state ≠ .isOpen →
      ∃ y, t.group g = some y ∧ y.state ≠ .isOpen)
    (h : s.blocks p = true) : t.blocks q = true := by
  obtain ⟨g, x, hg, hx, hs⟩ := (blocks_iff s p).1 h
  obtain ⟨y, hy, ho⟩ := groups g x hg hx (by rcases hs with e | e <;> simp [e])
  simp [State.blocks, cfg, hg, hy, ho]

theorem suppressedBlocked_of {s t : State}
    (points : ∀ i q, t.point i = some q → ∃ p, s.point i = some p ∧ q.cfg.group = p.cfg.group)
    (groups : ∀ g x, s.group g = some x → ∃ y, t.group g = some y ∧ y.members = x.members)
    (blocked : ∀ i q, t.point i = some q → q.suppressed = true → q.state = .ackActive ∧ t.blocks q = true)
    (k : SuppressedBlocked s) : SuppressedBlocked t := by
  refine ⟨fun i q g hq hg => ?_, fun i q hq hs => ?_⟩
  · obtain ⟨p, hp, same⟩ := points i q hq
    obtain ⟨x, hx, mem⟩ := k.member i p g hp (same ▸ hg)
    obtain ⟨y, hy, members⟩ := groups g x hx
    exact ⟨y, hy, members ▸ mem⟩
  · obtain ⟨state, blocks⟩ := blocked i q hq hs
    exact ⟨state, (blocks_iff t q).1 blocks⟩

theorem SuppressedBlocked.blocks {s : State} (k : SuppressedBlocked s) {i : Nat} {p : Point}
    (h : s.point i = some p) (hs : p.suppressed = true) : p.state = .ackActive ∧ s.blocks p = true := by
  obtain ⟨state, blocked⟩ := k.blocked i p h hs
  exact ⟨state, (blocks_iff s p).2 blocked⟩

theorem suppressedBlocked_reads : Reads headFields SuppressedBlocked := by
  intro s t h k
  have hp : t.points = s.points := h .points (by decide)
  have hg : t.groups = s.groups := h .groups (by decide)
  refine ⟨fun i p g e => ?_, fun i p e => ?_⟩
  · simpa only [State.group, hg] using k.member i p g (by simpa only [State.point, hp] using e)
  · simpa only [State.group, hg] using k.blocked i p (by simpa only [State.point, hp] using e)

theorem suppressedBlocked_setPoint {s : State} {i : Nat} {p q : Point} (h : s.point i = some p)
    (follows : Follows s p q) (k : SuppressedBlocked s) : SuppressedBlocked (s.setPoint i q) := by
  refine suppressedBlocked_of (s := s) (fun j r hr => ?_) (fun g x hx => ⟨x, hx, rfl⟩) (fun j r hr hs => ?_) k
  · rcases setPoint_origin h hr with ⟨_, hr⟩ | ⟨rfl, rfl⟩
    · exact ⟨r, hr, rfl⟩
    · exact ⟨p, h, follows.group⟩
  · rcases setPoint_origin h hr with ⟨_, hr⟩ | ⟨rfl, rfl⟩
    · exact SuppressedBlocked.blocks k hr hs
    · obtain ⟨state, blocks⟩ := follows.suppressed (SuppressedBlocked.blocks k h) hs
      exact ⟨state, blocks_of_group (s := s) follows.group (fun g x _ hx ho => ⟨x, hx, ho⟩) blocks⟩

theorem suppressedBlocked_setGroup {s : State} {g : GroupIdx} {x y : Group} (h : s.group g = some x)
    (members : y.members = x.members) (stays : x.state ≠ .isOpen → y.state ≠ .isOpen)
    (k : SuppressedBlocked s) : SuppressedBlocked (s.setGroup g y) := by
  have keeps : ∀ b z, s.group b = some z → ∃ z', (s.setGroup g y).group b = some z' ∧
      z'.members = z.members ∧ (z.state ≠ .isOpen → z'.state ≠ .isOpen) := by
    intro b z hz
    by_cases e : b = g
    · subst e
      obtain rfl := Option.some.inj (h.symm.trans hz)
      exact ⟨y, setGroup_group _ _ _, members, stays⟩
    · exact ⟨z, (setGroup_group_ne _ _ e).trans hz, rfl, id⟩
  refine suppressedBlocked_of (s := s) (fun i p hp => ⟨p, hp, rfl⟩) (fun b z hz => ?_) (fun i p hp hs => ?_) k
  · obtain ⟨z', hz', same, _⟩ := keeps b z hz
    exact ⟨z', hz', same⟩
  · obtain ⟨state, blocks⟩ := SuppressedBlocked.blocks k hp hs
    refine ⟨state, blocks_of_group rfl (fun b z _ hz ho => ?_) blocks⟩
    obtain ⟨z', hz', _, stays⟩ := keeps b z hz
    exact ⟨z', hz', stays ho⟩

/-- A release clears SUPPRESSED on every point of its group, since each of them is a member. -/
theorem suppressedBlocked_releaseGroup {s : State} {g : GroupIdx} {x : Group} (h : s.group g = some x)
    (k : SuppressedBlocked s) : SuppressedBlocked (releaseGroup s g x) := by
  refine suppressedBlocked_of (s := s) (fun i q hq => ?_) (fun b z hz => ?_) (fun i q hq hs => ?_) k
  · rw [releaseGroup_point] at hq
    split at hq
    · obtain ⟨p, hp, rfl⟩ := Option.map_eq_some_iff.1 hq
      exact ⟨p, hp, rfl⟩
    · exact ⟨q, hq, rfl⟩
  · by_cases e : b = g
    · subst e
      obtain rfl := Option.some.inj (h.symm.trans hz)
      exact ⟨_, releaseGroup_group _ _ _, rfl⟩
    · exact ⟨z, (releaseGroup_group_ne _ _ e).trans hz, rfl⟩
  · rw [releaseGroup_point] at hq
    split at hq
    · obtain ⟨p, hp, rfl⟩ := Option.map_eq_some_iff.1 hq
      cases hs
    · rename_i apart
      obtain ⟨state, blocks⟩ := SuppressedBlocked.blocks k hq hs
      refine ⟨state, blocks_of_group rfl (fun b z hb hz ho => ?_) blocks⟩
      have other : b ≠ g := by
        rintro rfl
        obtain ⟨y, hy, mem⟩ := k.member i q b hq hb
        exact apart (Option.some.inj (h.symm.trans hy) ▸ mem)
      exact ⟨z, (releaseGroup_group_ne _ _ other).trans hz, ho⟩

theorem suppressedBlocked_takeIntoUse (s : State) : SuppressedBlocked (takeIntoUse s) := by
  refine ⟨fun i p g hp hg => ?_, fun i p hp hs => ?_⟩
  · obtain ⟨r, rfl⟩ := takeIntoUse_point hp
    have member := List.find?_some (show s.staged.membershipOf i = some g from hg)
    obtain ⟨x, hx, mem⟩ := (Option.any_eq_true _ _).1 member
    exact ⟨x, (takeIntoUse_group s g).trans hx, List.contains_iff_mem.1 mem⟩
  · obtain ⟨r, rfl⟩ := takeIntoUse_point hp
    cases hs

theorem suppressedBlocked_act {F : List Field} {s t : State} (a : Act false F s t)
    (touched : ∃ f ∈ headFields, f ∈ F) (k : SuppressedBlocked s) : SuppressedBlocked t := by
  cases a <;> simp [headFields, inertFields, loadFields] at touched
  case setPoint p q _ h follows => exact suppressedBlocked_setPoint h follows k
  case shelve p q e n _ _ _ h follows _ _ _ =>
    exact suppressedBlocked_setPoint (s := { s with shelf := _ }) h
      ⟨follows.group, follows.headOf, follows.sound, follows.suppressed⟩ ⟨k.member, k.blocked⟩
  case unshelve p q _ h follows =>
    exact suppressedBlocked_setPoint (s := { s with shelf := _ }) h
      ⟨follows.group, follows.headOf, follows.sound, follows.suppressed⟩ ⟨k.member, k.blocked⟩
  case setGroup members blocks h => exact suppressedBlocked_setGroup h members blocks k
  case releaseGroup h => exact suppressedBlocked_releaseGroup h k
  case takeIntoUse => exact suppressedBlocked_takeIntoUse s
  case reset h _ _ _ =>
    exact suppressedBlocked_reads.of_changes h (by decide)
      ⟨fun i p g hp => (by cases hp), fun i p hp => (by cases hp)⟩
  case cleared =>
    refine suppressedBlocked_of (s := s) (fun i q hq => ?_) (fun g x hx => ?_) (fun i q hq hs => ?_) k
    · rw [cleared_point] at hq
      obtain ⟨p, hp, rfl⟩ := Option.map_eq_some_iff.1 hq
      exact ⟨p, hp, rfl⟩
    · exact ⟨x.restarted, by rw [cleared_group, hx]; rfl, rfl⟩
    · rw [cleared_point] at hq
      obtain ⟨p, hp, rfl⟩ := Option.map_eq_some_iff.1 hq
      cases hs
  case store vs _ _ =>
    have points := fun i => (storeValues_changes s vs).at_point i
    refine suppressedBlocked_of (s := s) (fun i q hq => ⟨q, (points i).symm.trans hq, rfl⟩) (fun g x hx => ?_)
      (fun i q hq hs => ?_) k
    · obtain ⟨y, hy, members, _⟩ := storeValues_group_of (vs := vs) hx
      exact ⟨y, hy, members⟩
    · obtain ⟨state, blocks⟩ := SuppressedBlocked.blocks k ((points i).symm.trans hq) hs
      refine ⟨state, blocks_of_group rfl (fun g x _ hx ho => ?_) blocks⟩
      obtain ⟨y, hy, _, same⟩ := storeValues_group_of (vs := vs) hx
      exact ⟨y, hy, same ▸ ho⟩
  case edit => contradiction

/-! ## A device that is not RUNNING -/

def bareFields : List Field := [.dev, .points, .serial]

theorem unloadedIsBare_reads : Reads bareFields UnloadedIsBare := by
  intro s t h k
  have hd : t.dev = s.dev := h .dev (by decide)
  have hp : t.points = s.points := h .points (by decide)
  have hs : t.serial = s.serial := h .serial (by decide)
  intro hr
  rw [hp, hs]
  exact k (hd ▸ hr)

/-- A device that holds a point is RUNNING. -/
theorem running_of_point {s : State} (k : UnloadedIsBare s) {i : Nat} {p : Point} (h : s.point i = some p) :
    s.dev = .running := by
  by_contra hr
  rw [State.point, (k hr).1] at h
  cases h

theorem unloadedIsBare_of_running {t : State} (h : t.dev = .running) : UnloadedIsBare t :=
  fun hr => absurd h hr

theorem unloadedIsBare_releaseGroup {s : State} (g : GroupIdx) (x : Group) (k : UnloadedIsBare s) :
    UnloadedIsBare (releaseGroup s g x) := by
  refine foldl_keeps (fun t m h => ?_) _
    (unloadedIsBare_reads.of_changes (setGroup_changes s g _) (by decide) k)
  unfold releaseMember
  split
  · rename_i p hp
    split
    · exact unloadedIsBare_reads.of_changes (announce_changes _ _ _) (by decide)
        (unloadedIsBare_of_running (running_of_point (s := t) h hp))
    · exact h
  · exact h

theorem unloadedIsBare_act {F : List Field} {s t : State} (a : Act false F s t)
    (touched : ∃ f ∈ bareFields, f ∈ F) (k : UnloadedIsBare s) : UnloadedIsBare t := by
  cases a <;> simp [bareFields, inertFields, loadFields, editFields] at touched
  case setPoint _ h _ => exact unloadedIsBare_of_running (running_of_point (s := s) k h)
  case setSerial h => exact unloadedIsBare_of_running (running_of_point (s := s) k h)
  case shelve _ _ _ h _ _ _ _ => exact unloadedIsBare_of_running (running_of_point (s := s) k h)
  case unshelve _ h _ => exact unloadedIsBare_of_running (running_of_point (s := s) k h)
  case releaseGroup => exact unloadedIsBare_releaseGroup _ _ k
  case load _ h _ => exact fun _ => k h
  case takeIntoUse => exact unloadedIsBare_of_running rfl
  case reset h _ _ _ => exact fun _ => ⟨h.points, h.serial⟩
  case cleared =>
    intro hr
    obtain ⟨points, serial⟩ := k hr
    exact ⟨by simp [cleared, points], serial⟩

/-- Settles O17: each act writes tables by index, never the members of a group, and a release clears the flag
of every member. -/
theorem everyStepKeepsTables : Obligations.EveryStepKeepsTables :=
  ⟨keptByStep_of_act false tablesRise_reads (by decide) fun _ _ _ => tablesRise_act,
   keptByStep_of_act false headsApart_reads (by decide) fun _ _ _ => headsApart_act,
   keptByStep_of_act false suppressedBlocked_reads (by decide) fun _ _ _ => suppressedBlocked_act,
   keptByStep_of_act false unloadedIsBare_reads (by decide) fun _ _ _ => unloadedIsBare_act⟩

end Sys2Proof.Proofs
end

/-! PROOFS. A record is HELD exactly while it has a cause, FLOOD among them (R157). -/

section
namespace Sys2Proof.Proofs

open Machine

/-! ## What the hold of a record reads -/

theorem floodFree_congr {s t : State} (h : ∀ a, (t.load a).state = (s.load a).state) (set : Word16) :
    t.floodFree set = s.floodFree set := by
  simp only [State.floodFree, h]

theorem floodFree_iff (s : State) (set : Word16) :
    s.floodFree set = true ↔ ∀ a, inSet set a = true → (s.load a).state ≠ .flood := by
  simp [State.floodFree, mem_areasOf]

theorem holdsByCause_congr {s t : State} (h : ∀ a, (t.load a).state = (s.load a).state) {q r : Record}
    (areas : q.areas = r.areas) (flood : q.flood = r.flood) (lost : q.outgoingLost = r.outgoingLost)
    (state : q.state = r.state) (k : HoldsByCause s r) : HoldsByCause t q := by
  intro acc
  obtain ⟨hf, hh⟩ := k (by simpa only [Record.accepted, state] using acc)
  rw [areas, flood, state, floodFree_congr h, caused_congr flood lost]
  exact ⟨hf, hh⟩

theorem holdFollowsCauses_of {s t : State} (h : ∀ a, (t.load a).state = (s.load a).state)
    (records : ∀ i q, t.record i = some q → ∃ r, s.record i = some r ∧ q.areas = r.areas ∧ q.flood = r.flood ∧
      q.outgoingLost = r.outgoingLost ∧ q.state = r.state)
    (k : HoldFollowsCauses s) : HoldFollowsCauses t := by
  intro i q hq
  obtain ⟨r, hr, areas, flood, lost, state⟩ := records i q hq
  exact holdsByCause_congr h areas flood lost state (k i r hr)

def holdFields : List Field := [.records, .loads]

theorem holdFollowsCauses_reads : Reads holdFields HoldFollowsCauses := by
  intro s t h
  have hr : t.records = s.records := h .records (by decide)
  have hl : t.loads = s.loads := h .loads (by decide)
  exact holdFollowsCauses_of (fun a => by simp only [State.load, hl])
    (fun i q hq => ⟨q, by simpa only [State.record, hr] using hq, rfl, rfl, rfl, rfl⟩)

theorem holdFollowsCauses_setRecord {s : State} {i : RecordIdx} {x : Option Record}
    (holds : (∀ r, s.record i = some r → HoldsByCause s r) → ∀ r, x = some r → HoldsByCause s r)
    (k : HoldFollowsCauses s) : HoldFollowsCauses (s.setRecord i x) := by
  intro j r hr
  by_cases e : j = i
  · subst e
    rw [setRecord_record] at hr
    exact holds (k j) r hr
  · rw [setRecord_record_ne _ _ e] at hr
    exact k j r hr

/-- Writing every record by a rule that leaves what its hold reads. -/
theorem holdFollowsCauses_mapRecords {s : State} (f : Record → Record)
    (hf : ∀ r, (f r).areas = r.areas ∧ (f r).flood = r.flood ∧ (f r).outgoingLost = r.outgoingLost ∧
      (f r).state = r.state)
    (k : HoldFollowsCauses s) :
    HoldFollowsCauses { s with records := Vector.ofFn fun i => (s.record i).map f } := by
  refine holdFollowsCauses_of (s := s) (fun _ => rfl) (fun i q hq => ?_) k
  have hq : (s.record i).map f = some q := by simpa [State.record] using hq
  obtain ⟨r, hr, rfl⟩ := Option.map_eq_some_iff.1 hq
  exact ⟨r, hr, hf r⟩

theorem follow_hold (r : Record) (i : Nat) (p : Point) (fresh : Bool) :
    (r.follow i p fresh).areas = r.areas ∧ (r.follow i p fresh).flood = r.flood ∧
    (r.follow i p fresh).outgoingLost = r.outgoingLost ∧ (r.follow i p fresh).state = r.state := by
  unfold Record.follow
  repeat' split
  all_goals exact ⟨rfl, rfl, rfl, rfl⟩

theorem holdFollowsCauses_handItems {s : State} (i : Nat) (p : Point) (fresh : Bool)
    (k : HoldFollowsCauses s) : HoldFollowsCauses (handItems s i p fresh) := by
  refine holdFollowsCauses_mapRecords _ (fun r => ?_) k
  split
  · exact follow_hold r i p fresh
  · exact ⟨rfl, rfl, rfl, rfl⟩

theorem holdFollowsCauses_resolveMoved {s : State} (i : Nat) (old new : Area) (k : HoldFollowsCauses s) :
    HoldFollowsCauses (resolveMoved s i old new) := by
  refine holdFollowsCauses_mapRecords _ (fun r => ?_) k
  split <;> exact ⟨rfl, rfl, rfl, rfl⟩

/-! ## A change of a load state -/

theorem changeCauses_record (s : State) (i j : RecordIdx) (r : Record) :
    (changeCauses s i r).record j = if j = i then some (s.followCauses r) else s.record j := by
  have noticed : (handoverNotice (s.setRecord i (some (s.followCauses r)))
      ((s.followCauses r).body i) (s.followCauses r).names).record j =
      if j = i then some (s.followCauses r) else s.record j := by
    rw [(handoverNotice_changes _ _ _).at_record]
    by_cases e : j = i
    · subst e; simp
    · rw [setRecord_record_ne _ _ e, if_neg e]
  unfold changeCauses
  dsimp only
  split
  · exact noticed
  · exact noticed

/-- A fold that tells each record in turn, each step writing its own record alone: what every record had before
becomes what every record has after. -/
theorem tell_records {step : State → RecordIdx → State} {I : State → Prop} {P Q : Record → Prop}
    (frame : ∀ t i, I t → I (step t i)) (other : ∀ t i j, j ≠ i → (step t i).record j = t.record j)
    (own : ∀ t i r, I t → (∀ q, t.record i = some q → P q) → (step t i).record i = some r → Q r)
    {s : State} (hI : I s) (before : ∀ i r, s.record i = some r → P r) :
    ∀ i r, (allRecords.foldl step s).record i = some r → Q r := by
  have along : ∀ (l : List RecordIdx) (t : State), l.Nodup → I t →
      (∀ i r, t.record i = some r → (i ∈ l → P r) ∧ (i ∉ l → Q r)) →
      ∀ i r, (l.foldl step t).record i = some r → Q r := by
    intro l
    induction l with
    | nil => exact fun t _ _ h i r hr => (h i r hr).2 (by simp)
    | cons i rest ih =>
      intro t nodup ht h
      obtain ⟨fresh, nodup⟩ := List.nodup_cons.1 nodup
      refine ih (step t i) nodup (frame t i ht) fun j r hr => ?_
      by_cases e : j = i
      · subst e
        exact ⟨fun mem => absurd mem fresh,
          fun _ => own t j r ht (fun q hq => (h j q hq).1 (by simp)) hr⟩
      · rw [other t i j e] at hr
        exact ⟨fun mem => (h j r hr).1 (by simp [mem]), fun mem => (h j r hr).2 (by simp [e, mem])⟩
  exact along allRecords s (by decide) hI fun i r hr => ⟨fun _ => before i r hr,
    fun absent => absurd (mem_allRecords i) absent⟩

theorem floodFree_entered {s u : State} {a : Area} (same : ∀ b, b ≠ a → u.load b = s.load b)
    (before : (s.load a).state ≠ .flood) (now : (u.load a).state = .flood) (set : Word16) :
    u.floodFree set = (s.floodFree set && !inSet set a) := by
  rw [Bool.eq_iff_iff, Bool.and_eq_true, Bool.not_eq_true', floodFree_iff, floodFree_iff]
  constructor
  · intro h
    refine ⟨fun b hb => ?_, ?_⟩
    · by_cases e : b = a
      · exact e ▸ before
      · exact same b e ▸ h b hb
    · by_contra mem
      exact h a (by simpa using mem) now
  · rintro ⟨h, apart⟩ b hb
    have e : b ≠ a := fun e => by simp [← e, hb] at apart
    exact same b e ▸ h b hb

theorem holdFollowsCauses_floodEntered {s u : State} {a : Area} (records : u.records = s.records)
    (same : ∀ b, b ≠ a → u.load b = s.load b) (before : (s.load a).state ≠ .flood)
    (now : (u.load a).state = .flood) (k : HoldFollowsCauses s) : HoldFollowsCauses (floodEntered u a) := by
  have free := floodFree_entered same before now
  have loads : (floodEntered u a).loads = u.loads := (floodEntered_changes u a).loads
  suffices ∀ i r, (floodEntered u a).record i = some r → HoldsByCause u r from fun i r hr =>
    holdsByCause_congr (fun b => by simp only [State.load, loads]) rfl rfl rfl rfl (this i r hr)
  refine tell_records (I := fun t => t.loads = u.loads) (P := HoldsByCause s) (fun t i ht => ?_)
    (fun t i j e => ?_) (fun t i r ht hP hr => ?_) rfl (fun i r hr => k i r ?_)
  · split
    · split
      · exact (changeCauses_changes _ _ _).loads.trans ht
      · exact ht
    · exact ht
  · split
    · split
      · rw [changeCauses_record, if_neg e]
      · rfl
    · rfl
  · split at hr
    · rename_i r0 h0
      split at hr
      · rename_i told
        simp only [Bool.and_eq_true] at told
        obtain ⟨⟨accepted, mem⟩, _⟩ := told
        rw [changeCauses_record, if_pos rfl] at hr
        obtain rfl := Option.some.inj hr
        obtain ⟨_, areas, flood, lost, _, held⟩ := followCauses_keeps t { r0 with flood := true }
        intro _
        refine ⟨?_, ?_⟩
        · rw [flood, areas, free]
          simp [mem]
        · rw [caused_congr flood lost]
          exact held accepted
      · rename_i untold
        obtain rfl := Option.some.inj (h0.symm.trans hr)
        intro accepted
        obtain ⟨flood, held⟩ := hP _ h0 accepted
        refine ⟨?_, held⟩
        rw [free]
        cases hm : inSet r0.areas a <;> cases hf : r0.flood <;> simp_all
    · rename_i h0
      rw [h0] at hr
      cases hr
  · simpa only [State.record, records] using hr

theorem holdFollowsCauses_floodLeft {s u : State} {a : Area} (records : u.records = s.records)
    (same : ∀ b, b ≠ a → u.load b = s.load b) (before : (s.load a).state = .flood)
    (now : (u.load a).state ≠ .flood) (k : HoldFollowsCauses s) : HoldFollowsCauses (floodLeft u a) := by
  have free := floodFree_entered (fun b e => (same b e).symm) now before
  have loads : (floodLeft u a).loads = u.loads := (floodLeft_changes u a).loads
  suffices ∀ i r, (floodLeft u a).record i = some r → HoldsByCause u r from fun i r hr =>
    holdsByCause_congr (fun b => by simp only [State.load, loads]) rfl rfl rfl rfl (this i r hr)
  refine tell_records (I := fun t => t.loads = u.loads) (P := HoldsByCause s) (fun t i ht => ?_)
    (fun t i j e => ?_) (fun t i r ht hP hr => ?_) rfl (fun i r hr => k i r ?_)
  · split
    · split
      · exact (changeCauses_changes _ _ _).loads.trans ht
      · exact ht
    · exact ht
  · split
    · split
      · rw [changeCauses_record, if_neg e]
      · rfl
    · rfl
  · have free_t : ∀ set, t.floodFree set = u.floodFree set :=
      floodFree_congr fun b => by simp only [State.load, ht]
    split at hr
    · rename_i r0 h0
      split at hr
      · rename_i told
        simp only [Bool.and_eq_true, beq_iff_eq] at told
        obtain ⟨⟨⟨state, _⟩, _⟩, clear⟩ := told
        rw [changeCauses_record, if_pos rfl] at hr
        obtain rfl := Option.some.inj hr
        obtain ⟨_, areas, flood, lost, _, held⟩ := followCauses_keeps t { r0 with flood := false }
        intro _
        refine ⟨?_, ?_⟩
        · rw [flood, areas, ← free_t]
          simp [clear]
        · rw [caused_congr flood lost]
          exact held (by simp [Record.accepted, state])
      · rename_i untold
        obtain rfl := Option.some.inj (h0.symm.trans hr)
        intro accepted
        obtain ⟨flood, held⟩ := hP _ h0 accepted
        refine ⟨?_, held⟩
        rw [free] at flood
        have caused : r0.flood = true → r0.state = .held := fun h => held.2 (by simp [Record.caused, h])
        rw [free_t] at untold
        cases hm : inSet r0.areas a <;> cases hf : r0.flood <;> simp_all
    · rename_i h0
      rw [h0] at hr
      cases hr
  · simpa only [State.record, records] using hr

/-- What the load meter tells the handover unit of a change of a load state (R72). -/
def floodTold (s : State) (a : Area) (before : LoadState) : State :=
  if (s.load a).state = .flood then floodEntered s a else if before = .flood then floodLeft s a else s

theorem loadStateChanged_records (s : State) (a : Area) (before : LoadState) :
    (loadStateChanged s a before).records = (floodTold s a before).records := by
  have rest : ∀ u : State, (if (s.load a).state = .flood then
      u.setLoad a { u.load a with summaryExpiry := some (after u.elapsed u.summaryInterval) }
      else if before = .flood then leaveFlood u a else u).records = u.records := by
    intro u
    split
    · rfl
    · split
      · exact (leaveFlood_changes u a).records
      · rfl
  exact (areaNotice_changes _ a _).records.trans (rest (floodTold s a before))

theorem holdFollowsCauses_applyLoad {s : State} (a : Area) (l : Nat) (k : HoldFollowsCauses s) :
    HoldFollowsCauses (applyLoad s a l) := by
  unfold applyLoad
  dsimp only
  generalize hu : s.setLoad a { s.load a with load := l, state := s.evalLoad (s.load a).state l } = u
  have records : u.records = s.records := hu ▸ rfl
  have here : (u.load a).state = s.evalLoad (s.load a).state l := by rw [← hu, setLoad_load]
  have same : ∀ b, b ≠ a → u.load b = s.load b := fun b e => by rw [← hu, setLoad_load_ne _ _ e]
  have unmoved : ((u.load a).state = .flood ↔ (s.load a).state = .flood) → HoldFollowsCauses u := by
    intro level i r hr
    have free : u.floodFree r.areas = s.floodFree r.areas := by
      rw [Bool.eq_iff_iff, floodFree_iff, floodFree_iff]
      refine forall_congr' fun b => imp_congr_right fun _ => ?_
      by_cases e : b = a
      · rw [e, ne_eq, ne_eq, level]
      · rw [same b e]
    intro acc
    rw [free]
    exact k i r (by simpa only [State.record, records] using hr) acc
  split
  · rename_i stays
    exact unmoved (by rw [here, stays])
  · have told : HoldFollowsCauses (floodTold u a (s.load a).state) := by
      unfold floodTold
      by_cases now : (u.load a).state = .flood
      · rw [if_pos now]
        by_cases before : (s.load a).state = .flood
        · exact absurd (here.symm.trans (now.trans before.symm)) ‹_›
        · exact holdFollowsCauses_floodEntered records same before now k
      · rw [if_neg now]
        by_cases before : (s.load a).state = .flood
        · rw [if_pos before]
          exact holdFollowsCauses_floodLeft records same before now k
        · rw [if_neg before]
          exact unmoved ⟨fun h => absurd h now, fun h => absurd h before⟩
    have loads : (floodTold u a (s.load a).state).loads = u.loads := by
      unfold floodTold
      split
      · exact (floodEntered_changes u a).loads
      · split
        · exact (floodLeft_changes u a).loads
        · rfl
    have written := loadStateChanged_records u a (s.load a).state
    refine holdFollowsCauses_of (fun b => ?_)
      (fun i q hq => ⟨q, by simpa only [State.record, written] using hq, rfl, rfl, rfl, rfl⟩) told
    rw [(loadStateChanged_load u a b _).2.1, State.load, State.load, loads]

theorem holdFollowsCauses_announce {s : State} (i : Nat) (c : Change) (k : HoldFollowsCauses s) :
    HoldFollowsCauses (announce s i c) := by
  unfold announce
  split
  · refine holdFollowsCauses_handItems _ _ _ ?_
    split
    · exact k
    · exact holdFollowsCauses_reads.of_changes (pointNotice_changes s i c.noted c.chatter) (by decide) k
  · exact k

theorem holdFollowsCauses_releaseGroup {s : State} (g : GroupIdx) (x : Group) (k : HoldFollowsCauses s) :
    HoldFollowsCauses (releaseGroup s g x) := by
  refine foldl_keeps (fun t m h => ?_) _
    (holdFollowsCauses_reads.of_changes (setGroup_changes s g _) (by decide) k)
  unfold releaseMember
  split
  · split
    · exact holdFollowsCauses_announce _ _
        (holdFollowsCauses_reads.of_changes (setPoint_changes t m _) (by decide) h)
    · exact h
  · exact h

theorem holdFollowsCauses_start {t : State} (h : t.records = .replicate 8 none) : HoldFollowsCauses t := by
  intro i r hr
  simp [State.record, h] at hr

theorem holdFollowsCauses_act {F : List Field} {s t : State} (a : Act false F s t)
    (touched : ∃ f ∈ holdFields, f ∈ F) (k : HoldFollowsCauses s) : HoldFollowsCauses t := by
  cases a <;> simp [holdFields, inertFields] at touched
  case setRecord holds => exact holdFollowsCauses_setRecord holds k
  case handItems => exact holdFollowsCauses_handItems _ _ _ k
  case resolveMoved => exact holdFollowsCauses_resolveMoved _ _ _ k
  case applyLoad => exact holdFollowsCauses_applyLoad _ _ k
  case setLoad a x load state count =>
    refine holdFollowsCauses_of (s := s) (fun b => ?_) (fun i q hq => ⟨q, hq, rfl, rfl, rfl, rfl⟩) k
    by_cases e : b = a
    · rw [e, setLoad_load, state]
    · rw [setLoad_load_ne _ _ e]
  case releaseGroup => exact holdFollowsCauses_releaseGroup _ _ k
  case takeIntoUse => exact holdFollowsCauses_start rfl
  case reset h _ _ _ => exact holdFollowsCauses_start h.records
  case cleared => exact holdFollowsCauses_start rfl
  case edit => contradiction

/-- Settles O15: the load meter tells every record of each change of FLOOD, and the state of a record follows
its causes. -/
theorem everyStepHoldsFloodedRecords : Obligations.EveryStepHoldsFloodedRecords :=
  keptByStep_of_act false holdFollowsCauses_reads (by decide) fun _ _ _ => holdFollowsCauses_act

end Sys2Proof.Proofs
end

/-! PROOFS. The parameters lie in their ranges, the thresholds keep their orders and the load states agree with
the loads (R64, R71, R77, R176, R179). -/

section
namespace Sys2Proof.Proofs

open Machine

/-! ## Stored values -/

theorem setSlot_param (s : State) (slot : Slot) (v : Nat) (n : Fin 29) :
    (setSlot s slot v).param n = if slot = .param n then v else s.param n := by
  cases slot with
  | param m =>
    by_cases e : m = n
    · subst e
      simp [setSlot, State.param]
    · have : m.val ≠ n.val := fun h => e (Fin.ext h)
      simp [setSlot, State.param, e, this]
  | idle d => simp [setSlot, State.param]
  | absent d => simp [setSlot, State.param]
  | release g =>
    unfold setSlot
    dsimp only
    split <;> simp [State.param, State.setGroup]

theorem storeValues_cons (s : State) (e : Nat × Nat) (vs : List (Nat × Nat)) :
    storeValues s (e :: vs) = storeValues (match slotOf e.1 with
      | some slot => setSlot s slot e.2
      | none => s) vs := rfl

/-- A parameter that no value is carried for stands. -/
theorem storeValues_param_kept {s : State} {vs : List (Nat × Nat)} {n : Fin 29}
    (h : ∀ e ∈ vs, slotOf e.1 ≠ some (.param n)) : (storeValues s vs).param n = s.param n := by
  induction vs generalizing s with
  | nil => rfl
  | cons e rest ih =>
    rw [storeValues_cons, ih fun e' he => h e' (List.mem_cons_of_mem _ he)]
    split
    · rename_i slot hs
      rw [setSlot_param, if_neg fun here => h e (by simp) (hs.trans (congrArg some here))]
    · rfl

theorem storeValues_inRange {s : State} {vs : List (Nat × Nat)}
    (h : ∀ e ∈ vs, ∃ slot, slotOf e.1 = some slot ∧ inRange slot.range e.2 = true)
    (k : ParamsInRange s) : ParamsInRange (storeValues s vs) := by
  induction vs generalizing s with
  | nil => exact k
  | cons e rest ih =>
    obtain ⟨slot, hs, range⟩ := h e (by simp)
    rw [storeValues_cons, hs]
    refine ih (fun e' he => h e' (List.mem_cons_of_mem _ he)) fun n => ?_
    rw [setSlot_param]
    split
    · rename_i here
      subst here
      exact range
    · exact k n

/-! ## Parameters in range -/

def paramFields : List Field := [.params]

theorem paramsInRange_reads : Reads paramFields ParamsInRange := by
  intro s t h k n
  have hp : t.params = s.params := h .params (by decide)
  simpa only [State.param, hp] using k n

theorem fault_none {st : Staged} (h : st.fault = none) : st.check2 = none ∧ st.check3 = none := by
  simp only [Staged.fault, List.findSome?_eq_none_iff] at h
  exact ⟨by simpa using h (2, st.check2) (by simp), by simpa using h (3, st.check3) (by simp)⟩

theorem takeIntoUse_param (s : State) (n : Fin 29) : (takeIntoUse s).param n = s.staged.parameter n := by
  simp [State.param, takeIntoUse, Staged.parameters]

theorem paramsInRange_takeIntoUse {s : State} (h : s.staged.fault = none) :
    ParamsInRange (takeIntoUse s) := by
  intro n
  have check := (fault_none h).1
  simp only [Staged.check2, Option.map_eq_none_iff, List.find?_eq_none, Bool.not_eq_true'] at check
  rw [takeIntoUse_param]
  simpa using check n ((List.mem_ofFn).2 ⟨n, rfl⟩)

theorem paramsInRange_reset : ParamsInRange State.reset := by
  unfold ParamsInRange
  decide

theorem paramsInRange_act {F : List Field} {s t : State} (a : Act false F s t)
    (touched : ∃ f ∈ paramFields, f ∈ F) (k : ParamsInRange s) : ParamsInRange t := by
  cases a <;> simp [paramFields, inertFields, loadFields, handingFields] at touched
  case takeIntoUse h => exact paramsInRange_takeIntoUse h
  case reset h _ _ _ => exact paramsInRange_reads.of_changes h (by decide) paramsInRange_reset
  case cleared => exact k
  case store h => exact storeValues_inRange h.inRange k
  case edit => contradiction

/-! ## Loads and load states -/

theorem thresholdsOrdered_iff (s : State) : thresholdsOrdered s.params = true ↔
    s.param 7 < s.param 6 ∧ s.param 9 < s.param 8 ∧ s.param 6 ≤ s.param 8 ∧ s.param 7 ≤ s.param 9 := by
  simp [thresholdsOrdered, State.param, and_assoc]

/-- Under the orders of R64 a second evaluation changes nothing. -/
theorem evalLoad_evalLoad {s : State} (h : thresholdsOrdered s.params = true) (x : LoadState) (l : Nat) :
    s.evalLoad (s.evalLoad x l) l = s.evalLoad x l := by
  rw [thresholdsOrdered_iff] at h
  cases x <;> unfold State.evalLoad <;> grind

/-- An area without load is CALM. -/
theorem evalLoad_quiet {s : State} (h : thresholdsOrdered s.params = true) :
    s.evalLoad .calm 0 = .calm := by
  rw [thresholdsOrdered_iff] at h
  unfold State.evalLoad
  grind

theorem evalLoad_congr {s t : State} (h : t.params = s.params) (x : LoadState) (l : Nat) :
    t.evalLoad x l = s.evalLoad x l := by
  have param : ∀ n, t.param n = s.param n := fun n => by simp only [State.param, h]
  cases x <;> simp only [State.evalLoad, param]

def agreeFields : List Field := [.params, .loads, .map]

theorem loadsAgree_of {s t : State} (params : t.params = s.params)
    (loads : ∀ a, (t.load a).load = (s.load a).load ∧ (t.load a).state = (s.load a).state)
    (defined : ∀ a, (t.area a).isSome = (s.area a).isSome) (k : LoadsAgree s) : LoadsAgree t := by
  refine ⟨params ▸ k.ordered, fun a ha => ?_⟩
  rw [evalLoad_congr params, (loads a).1, (loads a).2]
  exact k.agree a (defined a ▸ ha)

theorem loadsAgree_reads : Reads agreeFields LoadsAgree := by
  intro s t h
  have hl : t.loads = s.loads := h .loads (by decide)
  have hm : t.map = s.map := h .map (by decide)
  exact loadsAgree_of (h .params (by decide)) (fun a => by simp only [State.load, hl, and_self])
    (fun a => by simp only [State.area, hm])

/-- Quiet loads agree with CALM. -/
theorem loadsAgree_start {t : State} (h : thresholdsOrdered t.params = true)
    (loads : t.loads = .replicate 16 .quiet) : LoadsAgree t := by
  refine ⟨h, fun a _ => ?_⟩
  have quiet : t.load a = .quiet := by simp [State.load, loads]
  rw [quiet]
  exact evalLoad_quiet h

theorem applyLoad_params (s : State) (a : Area) (l : Nat) : (applyLoad s a l).params = s.params :=
  (applyLoad_changes s a l).params

theorem loadsAgree_applyLoad {s : State} (a : Area) (l : Nat) (k : LoadsAgree s) :
    LoadsAgree (applyLoad s a l) := by
  obtain ⟨load, state, others, _⟩ := applyLoad_load s a l
  have params := applyLoad_params s a l
  refine ⟨params ▸ k.ordered, fun b hb => ?_⟩
  rw [evalLoad_congr params]
  by_cases e : b = a
  · rw [e, load, state]
    exact evalLoad_evalLoad k.ordered _ _
  · rw [others b e]
    exact k.agree b ((applyLoad_changes s a l).at_area b ▸ hb)

/-! ## The re-evaluation after an edit of the thresholds -/

theorem endRecord_defined (s : State) (i : RecordIdx) (r : Record) (o : HandoverOutcome) (p : Option Port)
    (b : Option Badge) (a : Area) : ((endRecord s i r o p b).area a).isSome = (s.area a).isSome := by
  cases ho : o.transfers
  · rw [endRecord_area ho, Option.isSome_map]
  · rw [endRecord_area_transfer ho]
    split <;> simp only [Option.isSome_map]

theorem endOverruns_defined (s : State) (a : Area) : ((endOverruns s).area a).isSome = (s.area a).isSome := by
  refine foldl_keeps (X := fun t => (t.area a).isSome = (s.area a).isSome) (fun t i h => ?_) _ rfl
  split
  · split
    · exact (endRecord_defined _ _ _ _ _ _ _).trans h
    · exact h
  · exact h

theorem reevaluateArea_of {s : State} {a : Area} (h : (s.area a).isSome = true) :
    reevaluateArea s a = endOverruns (applyLoad s a (s.load a).load) := if_pos h

theorem reevaluateArea_of_undefined {s : State} {a : Area} (h : ¬ (s.area a).isSome = true) :
    reevaluateArea s a = s := if_neg h

/-- What a re-evaluation leaves: the parameters, the areas that are defined, and the loads of the others. -/
theorem reevaluateArea_keeps (s : State) (a : Area) : (reevaluateArea s a).params = s.params ∧
    (∀ b, ((reevaluateArea s a).area b).isSome = (s.area b).isSome) ∧
    (∀ b, b ≠ a → (reevaluateArea s a).load b = s.load b) := by
  refine ⟨(reevaluateArea_changes s a).params, fun b => ?_, fun b e => ?_⟩ <;>
    by_cases h : (s.area a).isSome = true
  · rw [reevaluateArea_of h, endOverruns_defined, (applyLoad_changes _ _ _).at_area]
  · rw [reevaluateArea_of_undefined h]
  · rw [reevaluateArea_of h, (endOverruns_changes _).at_load]
    exact (applyLoad_load s a _).2.2.1 b e
  · rw [reevaluateArea_of_undefined h]

/-- The load state of an area agrees with its load. -/
def AgreesAt (s : State) (a : Area) : Prop :=
  (s.area a).isSome = true → s.evalLoad (s.load a).state (s.load a).load = (s.load a).state

theorem reevaluateArea_agrees {s : State} (ordered : thresholdsOrdered s.params = true) (a : Area) :
    AgreesAt (reevaluateArea s a) a := by
  obtain ⟨kept, defined, _⟩ := reevaluateArea_keeps s a
  intro h
  rw [defined] at h
  obtain ⟨load, state, _, _⟩ := applyLoad_load s a (s.load a).load
  rw [evalLoad_congr kept, reevaluateArea_of h, (endOverruns_changes _).at_load, load, state]
  exact evalLoad_evalLoad ordered _ _

theorem reevaluateArea_agreesAt {s : State} (ordered : thresholdsOrdered s.params = true) {a b : Area}
    (h : b = a ∨ AgreesAt s b) : AgreesAt (reevaluateArea s a) b := by
  by_cases e : b = a
  · exact e ▸ reevaluateArea_agrees ordered a
  · obtain ⟨kept, defined, others⟩ := reevaluateArea_keeps s a
    intro hb
    rw [evalLoad_congr kept, others b e]
    exact h.resolve_left e (defined b ▸ hb)

/-- A re-evaluation of areas keeps the parameters and makes load and state of each of them agree. -/
theorem reevaluateAreas_agree (l : List Area) {s : State} (ordered : thresholdsOrdered s.params = true) :
    (l.foldl reevaluateArea s).params = s.params ∧
    ∀ b, b ∈ l ∨ AgreesAt s b → AgreesAt (l.foldl reevaluateArea s) b := by
  induction l generalizing s with
  | nil => exact ⟨rfl, fun b h => h.resolve_left (by simp)⟩
  | cons a rest ih =>
    have kept := (reevaluateArea_keeps s a).1
    obtain ⟨params, agree⟩ := ih (s := reevaluateArea s a) (kept.symm ▸ ordered)
    refine ⟨params.trans kept, fun b h => agree b ?_⟩
    rw [List.mem_cons, or_assoc, or_left_comm] at h
    exact h.imp_right (reevaluateArea_agreesAt ordered)

theorem loadsAgree_reevaluated {s : State} (ordered : thresholdsOrdered s.params = true) :
    LoadsAgree (allAreas.foldl reevaluateArea s) := by
  obtain ⟨params, agree⟩ := reevaluateAreas_agree allAreas ordered
  exact ⟨params.symm ▸ ordered, fun a => agree a (.inl (mem_allAreas a))⟩

/-- The orders hold after an edit: one that a carried value takes part in was checked, another stands. -/
theorem storeValues_ordered {s : State} {vs : List (Nat × Nat)} (h : Carried (storeValues s vs) vs)
    (k : thresholdsOrdered s.params = true) : thresholdsOrdered (storeValues s vs).params = true := by
  have stands : ∀ n : Fin 29, orderBroken (storeValues s vs) (.param n) = false ∨
      (storeValues s vs).param n = s.param n := by
    intro n
    by_cases carried : ∃ e ∈ vs, slotOf e.1 = some (.param n)
    · obtain ⟨e, he, hs⟩ := carried
      exact .inl (h.ordered e he _ hs)
    · exact .inr (storeValues_param_kept fun e he hs => carried ⟨e, he, hs⟩)
  rw [thresholdsOrdered_iff] at k ⊢
  have h6 := stands 6
  have h7 := stands 7
  have h8 := stands 8
  have h9 := stands 9
  simp [orderBroken] at h6 h7 h8 h9
  omega

theorem loadsAgree_edited {s : State} {vs : List (Nat × Nat)} (h : Carried (storeValues s vs) vs)
    (k : LoadsAgree s) : LoadsAgree (edited s vs) := by
  have ordered := storeValues_ordered h k.ordered
  unfold edited
  split
  · exact loadsAgree_reevaluated ordered
  · rename_i same
    simp only [thresholdsChanged, Bool.or_eq_true, bne_iff_ne, ne_eq, not_or, not_not] at same
    have changes := storeValues_changes s vs
    refine ⟨ordered, fun a ha => ?_⟩
    rw [changes.at_area] at ha
    rw [changes.at_load]
    obtain ⟨⟨⟨h6, h7⟩, h8⟩, h9⟩ := same
    have eval : ∀ x l, (storeValues s vs).evalLoad x l = s.evalLoad x l := fun x l => by
      cases x <;> simp only [State.evalLoad, h6, h7, h8, h9]
    rw [eval]
    exact k.agree a ha

theorem check3_ordered {st : Staged} (h : st.check3 = none) : thresholdsOrdered st.parameters = true := by
  by_contra broken
  rw [Staged.check3, if_pos (by simpa using broken)] at h
  cases h

theorem loadsAgree_act {F : List Field} {s t : State} (a : Act true F s t)
    (touched : ∃ f ∈ agreeFields, f ∈ F) (k : LoadsAgree s) : LoadsAgree t := by
  cases a <;> simp [agreeFields, inertFields, handingFields] at touched
  case rederived h defined _ =>
    exact loadsAgree_of ((rederive_changes _ _ _ _).params.trans h.params) (fun a => by
        rw [(rederive_changes _ _ _ _).at_load, h.at_load]
        exact ⟨rfl, rfl⟩)
      (fun a => ((rederive_ownersSame _ _ _ _).defined a).trans (defined a)) k
  case changeAreas set f _ =>
    exact loadsAgree_of (changeAreas_changes s set f).params (fun a => by
        rw [(changeAreas_changes s set f).at_load]
        exact ⟨rfl, rfl⟩) (changeAreas_defined s set f) k
  case applyLoad => exact loadsAgree_applyLoad _ _ k
  case setLoad a x load state _ =>
    refine loadsAgree_of (s := s) rfl (fun b => ?_) (fun _ => rfl) k
    by_cases e : b = a
    · rw [e, setLoad_load]
      exact ⟨load, state⟩
    · rw [setLoad_load_ne _ _ e]
      exact ⟨rfl, rfl⟩
  case takeIntoUse h =>
    have ordered : thresholdsOrdered s.staged.parameters = true := check3_ordered (fault_none h).2
    exact loadsAgree_start ordered rfl
  case reset h _ _ _ =>
    exact loadsAgree_start (by rw [show t.params = defaultParams from h.params]; decide) h.loads
  case cleared => exact loadsAgree_start k.ordered rfl
  case store => contradiction
  case edit h => exact loadsAgree_edited h k

/-- Settles O19: a load is evaluated where it is applied, and an edit of the thresholds is checked and followed
by an evaluation of every area. -/
theorem everyStepKeepsLoadsAgreeing : Obligations.EveryStepKeepsLoadsAgreeing :=
  ⟨keptByStep_of_act true loadsAgree_reads (by decide) fun _ _ _ => loadsAgree_act,
   keptByStep_of_act false paramsInRange_reads (by decide) fun _ _ _ => paramsInRange_act⟩

end Sys2Proof.Proofs
end

/-! PROOFS. Points are sound, and the shelve list agrees with them and stands in the order of its expiries (R22,
R39, R44, R47, R49, R53). -/

section
namespace Sys2Proof.Proofs

open Machine

/-! ## Sound points -/

def pointFields : List Field := [.points]

theorem pointsSound_reads : Reads pointFields PointsSound := by
  intro s t h k i p hp
  have points : t.points = s.points := h .points (by decide)
  exact k i p (by simpa only [State.point, points] using hp)

theorem pointsSound_setPoint {s : State} {i : Nat} {p q : Point} (h : s.point i = some p)
    (sound : PointSound p → PointSound q) (k : PointsSound s) : PointsSound (s.setPoint i q) := by
  intro j r hr
  rcases setPoint_origin h hr with ⟨_, hr⟩ | ⟨rfl, rfl⟩
  · exact k j r hr
  · exact sound (k j p h)

theorem fresh_sound (cfg : PointCfg) : PointSound (Point.fresh cfg) :=
  ⟨fun _ => ⟨rfl, rfl, rfl⟩, fun h => (by cases h), rfl, Nat.zero_le _⟩

theorem restarted_sound (serial : Word32) (p : Point) : PointSound (p.restarted serial) :=
  ⟨fun _ => ⟨rfl, rfl, rfl⟩, fun h => (by cases h), rfl, Nat.zero_le _⟩

theorem released_sound {p : Point} (h : PointSound p) : PointSound p.released :=
  ⟨h.idle, h.escalated, h.serial, h.chatter⟩

/-- What a release of a group makes of the points. -/
theorem releaseGroup_origin {s : State} {g : GroupIdx} {x : Group} {i : Nat} {q : Point}
    (h : (releaseGroup s g x).point i = some q) :
    ∃ p, s.point i = some p ∧ (q = p ∨ q = p.released) := by
  rw [releaseGroup_point] at h
  split at h
  · obtain ⟨p, hp, rfl⟩ := Option.map_eq_some_iff.1 h
    exact ⟨p, hp, .inr rfl⟩
  · exact ⟨q, h, .inl rfl⟩

theorem pointsSound_act {F : List Field} {s t : State} (a : Act false F s t)
    (touched : ∃ f ∈ pointFields, f ∈ F) (k : PointsSound s) : PointsSound t := by
  cases a <;> simp [pointFields, inertFields, loadFields, editFields] at touched
  case setPoint h follows => exact pointsSound_setPoint h follows.sound k
  case shelve h follows _ _ _ =>
    exact pointsSound_setPoint (s := { s with shelf := _ }) h follows.sound k
  case unshelve h follows =>
    exact pointsSound_setPoint (s := { s with shelf := _ }) h follows.sound k
  case releaseGroup =>
    intro i q hq
    obtain ⟨p, hp, rfl | rfl⟩ := releaseGroup_origin hq
    · exact k i q hp
    · exact released_sound (k i p hp)
  case takeIntoUse =>
    intro i q hq
    obtain ⟨r, rfl⟩ := takeIntoUse_point hq
    exact fresh_sound _
  case reset h _ _ _ => exact pointsSound_reads.of_changes h (by decide) fun i p hp => by cases hp
  case cleared =>
    intro i q hq
    rw [cleared_point] at hq
    obtain ⟨p, hp, rfl⟩ := Option.map_eq_some_iff.1 hq
    exact restarted_sound _ _

/-! ## The shelve list -/

theorem mem_withoutEntry {l : List ShelveEntry} {i : Nat} {e : ShelveEntry} :
    e ∈ withoutEntry l i ↔ e ∈ l ∧ e.point ≠ i := by
  simp [withoutEntry]

theorem withoutEntry_sublist (l : List ShelveEntry) (i : Nat) : (withoutEntry l i).Sublist l :=
  List.filter_sublist

theorem insertShelve_perm (e : ShelveEntry) (l : List ShelveEntry) : (insertShelve e l).Perm (e :: l) :=
  insertBy_perm _ _ _

theorem mem_insertShelve {e x : ShelveEntry} {l : List ShelveEntry} :
    x ∈ insertShelve e l ↔ x = e ∨ x ∈ l := by
  rw [(insertShelve_perm e l).mem_iff, List.mem_cons]

theorem insertShelve_once {e : ShelveEntry} {l : List ShelveEntry}
    (h : l.Pairwise (fun x y => x.point ≠ y.point)) :
    (insertShelve e (withoutEntry l e.point)).Pairwise (fun x y => x.point ≠ y.point) := by
  refine (List.Perm.pairwise_iff (fun h => h.symm) (insertShelve_perm e _)).2 (List.pairwise_cons.2 ⟨?_, ?_⟩)
  · exact fun x hx => (mem_withoutEntry.1 hx).2.symm
  · exact h.sublist (withoutEntry_sublist l e.point)

/-- A list that holds an entry of the point is shorter without it. -/
theorem withoutEntry_length {l : List ShelveEntry} {i : Nat} (h : ∃ e ∈ l, e.point = i) :
    (withoutEntry l i).length < l.length := by
  obtain ⟨e, he, rfl⟩ := h
  exact List.length_filter_lt_length_iff_exists.2 ⟨e, he, by simp⟩

theorem insertShelve_length (e : ShelveEntry) (l : List ShelveEntry) :
    (insertShelve e l).length = l.length + 1 := by
  rw [(insertShelve_perm e l).length_eq, List.length_cons]

def shelfFields : List Field := [.points, .shelf]

theorem shelfAgrees_reads : Reads shelfFields ShelfAgrees := by
  intro s t h k
  have points : t.points = s.points := h .points (by decide)
  have shelf : t.shelf = s.shelf := h .shelf (by decide)
  refine ⟨fun i p hp => ?_, shelf ▸ k.fits, shelf ▸ k.once⟩
  rw [shelf]
  exact k.flagged i p (by simpa only [State.point, points] using hp)

theorem shelfAgrees_setPoint {s : State} {i : Nat} {p q : Point} (h : s.point i = some p)
    (shelved : q.shelved = p.shelved) (k : ShelfAgrees s) : ShelfAgrees (s.setPoint i q) := by
  refine ⟨fun j r hr => ?_, k.fits, k.once⟩
  rcases setPoint_origin h hr with ⟨_, hr⟩ | ⟨rfl, rfl⟩
  · exact k.flagged j r hr
  · rw [shelved]
    exact k.flagged j p h

/-- The shelve list is written for one point alone. -/
theorem shelfAgrees_written {s : State} {i : Nat} {q : Point} {l : List ShelveEntry} (k : ShelfAgrees s)
    (h : (s.point i).isSome = true) (others : ∀ j, j ≠ i → ((∃ e ∈ l, e.point = j) ↔ ∃ e ∈ s.shelf, e.point = j))
    (here : q.shelved = true ↔ ∃ e ∈ l, e.point = i) (fits : l.length ≤ Config.shelveCapacity)
    (once : l.Pairwise (fun e f => e.point ≠ f.point)) :
    ShelfAgrees ({ s with shelf := l }.setPoint i q) := by
  obtain ⟨p, h⟩ := Option.isSome_iff_exists.1 h
  refine ⟨fun j r hr => ?_, fits, once⟩
  show r.shelved = true ↔ ∃ e ∈ l, e.point = j
  rcases setPoint_origin (s := { s with shelf := l }) h hr with ⟨apart, hr⟩ | ⟨rfl, rfl⟩
  · rw [others j apart]
    exact k.flagged j r hr
  · exact here

theorem others_of_insertShelve {l : List ShelveEntry} {e : ShelveEntry} {j : Nat} (h : j ≠ e.point) :
    (∃ x ∈ insertShelve e (withoutEntry l e.point), x.point = j) ↔ ∃ x ∈ l, x.point = j := by
  simp only [mem_insertShelve, mem_withoutEntry]
  constructor
  · rintro ⟨x, rfl | ⟨hx, _⟩, rfl⟩
    · exact absurd rfl h
    · exact ⟨x, hx, rfl⟩
  · rintro ⟨x, hx, rfl⟩
    exact ⟨x, .inr ⟨hx, h⟩, rfl⟩

theorem others_of_withoutEntry {l : List ShelveEntry} {i j : Nat} (h : j ≠ i) :
    (∃ x ∈ withoutEntry l i, x.point = j) ↔ ∃ x ∈ l, x.point = j := by
  simp only [mem_withoutEntry]
  exact exists_congr fun x => ⟨fun ⟨⟨hx, _⟩, e⟩ => ⟨hx, e⟩, fun ⟨hx, e⟩ => ⟨⟨hx, e ▸ h⟩, e⟩⟩

/-- The entry of a point that becomes or stays SHELVED is placed. -/
theorem shelfAgrees_placed {s : State} {q : Point} {e : ShelveEntry} (k : ShelfAgrees s)
    (h : (s.point e.point).isSome = true) (shelved : q.shelved = true)
    (room : (withoutEntry s.shelf e.point).length < Config.shelveCapacity) :
    ShelfAgrees ({ s with shelf := insertShelve e (withoutEntry s.shelf e.point) }.setPoint e.point q) := by
  refine shelfAgrees_written k h (fun j hj => others_of_insertShelve hj) ?_ ?_ (insertShelve_once k.once)
  · simp [shelved, mem_insertShelve]
  · rw [insertShelve_length]
    exact room

theorem withoutEntry_length_le (l : List ShelveEntry) (i : Nat) : (withoutEntry l i).length ≤ l.length :=
  (withoutEntry_sublist l i).length_le

theorem shelfAgrees_reshelve {s : State} {p : Point} {e : ShelveEntry} (k : ShelfAgrees s)
    (h : s.point e.point = some p) (shelved : p.shelved = true) :
    ShelfAgrees { s with shelf := insertShelve e (withoutEntry s.shelf e.point) } := by
  have shorter := withoutEntry_length ((k.flagged e.point p h).1 shelved)
  refine ⟨fun j r hr => ?_, ?_, insertShelve_once k.once⟩
  · by_cases here : j = e.point
    · subst here
      obtain rfl := Option.some.inj (h.symm.trans hr)
      simp [shelved, mem_insertShelve]
    · rw [k.flagged j r hr]
      exact (others_of_insertShelve here).symm
  · show (insertShelve e (withoutEntry s.shelf e.point)).length ≤ _
    rw [insertShelve_length]
    have := k.fits
    omega

theorem shelfAgrees_unshelve {s : State} {i : Nat} {q : Point} (k : ShelfAgrees s)
    (h : (s.point i).isSome = true) (shelved : q.shelved = false) :
    ShelfAgrees ({ s with shelf := withoutEntry s.shelf i }.setPoint i q) := by
  refine shelfAgrees_written k h (fun j hj => others_of_withoutEntry hj) ?_
    ((withoutEntry_length_le _ _).trans k.fits) (k.once.sublist (withoutEntry_sublist _ _))
  simp [shelved, mem_withoutEntry]

theorem shelfAgrees_dropEntry {s : State} {i : Nat} (k : ShelfAgrees s) (h : s.point i = none) :
    ShelfAgrees { s with shelf := withoutEntry s.shelf i } := by
  refine ⟨fun j r hr => ?_, (withoutEntry_length_le _ _).trans k.fits,
    k.once.sublist (withoutEntry_sublist _ _)⟩
  have apart : j ≠ i := by
    rintro rfl
    exact absurd (h.symm.trans hr) (by simp)
  rw [k.flagged j r hr]
  exact (others_of_withoutEntry apart).symm

/-- With an empty list no point is SHELVED. -/
theorem shelfAgrees_empty {t : State} (h : t.shelf = [])
    (points : ∀ i p, t.point i = some p → p.shelved = false) : ShelfAgrees t := by
  refine ⟨fun i p hp => ?_, by simp [h], by simp [h]⟩
  simp [points i p hp, h]

theorem shelfAgrees_act {F : List Field} {s t : State} (a : Act false F s t)
    (touched : ∃ f ∈ shelfFields, f ∈ F) (k : ShelfAgrees s) : ShelfAgrees t := by
  cases a <;> simp [shelfFields, inertFields, loadFields, editFields] at touched
  case setPoint shelved h _ => exact shelfAgrees_setPoint h shelved k
  case reshelve shelved he h _ _ =>
    subst he
    exact shelfAgrees_reshelve k h shelved
  case shelve _ shelved he h _ room _ _ =>
    subst he
    exact shelfAgrees_placed k (Option.isSome_of_mem h) shelved
      ((withoutEntry_length_le _ _).trans_lt room)
  case unshelve shelved h _ => exact shelfAgrees_unshelve k (Option.isSome_of_mem h) shelved
  case dropEntry h => exact shelfAgrees_dropEntry k h
  case releaseGroup g x _ =>
    have shelf := (releaseGroup_changes s g x).shelf
    refine ⟨fun i q hq => ?_, shelf ▸ k.fits, shelf ▸ k.once⟩
    rw [shelf]
    obtain ⟨p, hp, rfl | rfl⟩ := releaseGroup_origin hq
    · exact k.flagged i q hp
    · exact k.flagged i p hp
  case takeIntoUse =>
    refine shelfAgrees_empty rfl fun i q hq => ?_
    obtain ⟨r, rfl⟩ := takeIntoUse_point hq
    rfl
  case reset h _ _ _ =>
    exact shelfAgrees_reads.of_changes h (by decide) (shelfAgrees_empty rfl fun i p hp => by cases hp)
  case cleared =>
    refine shelfAgrees_empty rfl fun i q hq => ?_
    rw [cleared_point] at hq
    obtain ⟨p, hp, rfl⟩ := Option.map_eq_some_iff.1 hq
    rfl

/-! ## The order of the shelve list -/

/-- Times whose distances from now are less than half the range apart compare as the distances do. -/
theorem atOrBefore_iff {now x y : Time} (h : (x - now).toInt - (y - now).toInt < 2 ^ 31)
    (h' : -(2 ^ 31) ≤ (x - now).toInt - (y - now).toInt) :
    atOrBefore y x = true ↔ (y - now).toInt ≤ (x - now).toInt := by
  have split : x - y = (x - now) - (y - now) := by bv_omega
  simp only [atOrBefore, decide_eq_true_eq, split]
  generalize x - now = a at *
  generalize y - now = b at *
  rw [BitVec.toNat_sub]
  simp only [BitVec.toInt_eq_toNat_cond] at h h' ⊢
  have := a.isLt
  have := b.isLt
  split at h <;> split at h <;> simp_all <;> omega

/-- An expiry after at most a million tenths lies that far ahead. -/
theorem toInt_after {now : Time} {n : Nat} (h : n ≤ 1000000) : (after now n - now).toInt = n := by
  have : after now n - now = BitVec.ofNat 32 n := by
    simp [after, BitVec.add_comm now]
  rw [this, BitVec.toInt_eq_toNat_cond, BitVec.toNat_ofNat]
  split <;> omega

/-- A time that many tenths nearer, while it comes to lie at most 2^30 tenths past. -/
theorem toInt_sub_ofNat {x : Word32} {n : Nat} (h : (n : Int) ≤ x.toInt + 2 ^ 30) :
    (x - BitVec.ofNat 32 n).toInt = x.toInt - n := by
  have := x.isLt
  simp only [BitVec.toInt_eq_toNat_cond, BitVec.toNat_sub, BitVec.toNat_ofNat] at h ⊢
  split at h <;> split <;> omega

theorem toInt_bounds (x : Word32) : -(2 ^ 31) ≤ x.toInt ∧ x.toInt < 2 ^ 31 :=
  ⟨x.le_toInt, x.toInt_lt⟩

theorem shelfInOrder_reads : Reads [.elapsed, .shelf] ShelfInOrder := by
  intro s t h k
  have elapsed : t.elapsed = s.elapsed := h .elapsed (by decide)
  have shelf : t.shelf = s.shelf := h .shelf (by decide)
  have tenths : ∀ e, t.tenthsTo e = s.tenthsTo e := fun e => by simp only [State.tenthsTo, elapsed]
  refine ⟨?_, fun e he => ?_⟩
  · simpa only [shelf, tenths] using k.ordered
  · rw [tenths]
    exact k.recent e (shelf ▸ he)

theorem shelfInOrder_withoutEntry {s : State} (i : Nat) (k : ShelfInOrder s) :
    ShelfInOrder { s with shelf := withoutEntry s.shelf i } :=
  ⟨k.ordered.sublist (withoutEntry_sublist _ _), fun e he => k.recent e (mem_withoutEntry.1 he).1⟩

/-- An entry with an expiry within a million tenths from now is inserted in the order of the list. -/
theorem shelfInOrder_insert {s : State} {e : ShelveEntry} {n : Nat} (near : n ≤ 1000000)
    (expiry : e.expiry = after s.elapsed n) (k : ShelfInOrder s) :
    ShelfInOrder { s with shelf := insertShelve e s.shelf } := by
  have ahead : s.tenthsTo e.expiry = n := by
    rw [State.tenthsTo, expiry, toInt_after near]
  have compare : ∀ y ∈ s.shelf, (atOrBefore y.expiry e.expiry = true ↔
      s.tenthsTo y.expiry ≤ s.tenthsTo e.expiry) := by
    intro y hy
    have recent := k.recent y hy
    obtain ⟨_, high⟩ := toInt_bounds (y.expiry - s.elapsed)
    simp only [State.tenthsTo] at recent ahead ⊢
    exact atOrBefore_iff (by omega) (by omega)
  refine ⟨?_, fun x hx => ?_⟩
  · show (insertShelve e s.shelf).Pairwise _
    obtain ⟨pre, post, hins, hl, before, first⟩ :=
      insertBy_split (fun x y => !atOrBefore y.expiry x.expiry) e s.shelf
    have ordered := k.ordered
    rw [← hl] at ordered compare
    obtain ⟨hpre, hpost, cross⟩ := List.pairwise_append.1 ordered
    have low : ∀ y ∈ pre, s.tenthsTo y.expiry ≤ s.tenthsTo e.expiry := fun y hy =>
      (compare y (by simp [hy])).1 (by simpa using before y hy)
    have high : ∀ y ∈ post, s.tenthsTo e.expiry ≤ s.tenthsTo y.expiry := by
      cases post with
      | nil => simp
      | cons f rest =>
        have hf : ¬ s.tenthsTo f.expiry ≤ s.tenthsTo e.expiry := fun le => by
          have := first f rfl
          rw [(compare f (by simp)).2 le] at this
          cases this
        intro y hy
        rcases List.mem_cons.1 hy with rfl | hy
        · omega
        · have := (List.pairwise_cons.1 hpost).1 y hy
          omega
    rw [insertShelve, hins]
    refine List.pairwise_append.2 ⟨hpre, List.pairwise_cons.2 ⟨high, hpost⟩, fun x hx y hy => ?_⟩
    rcases List.mem_cons.1 hy with rfl | hy
    · exact low x hx
    · exact cross x hx y hy
  · show -(2 ^ 30) ≤ s.tenthsTo x.expiry
    rcases mem_insertShelve.1 hx with rfl | hx
    · omega
    · exact k.recent x hx

theorem maxShelve_le {s : State} (k : ParamsInRange s) (priority : Nat) : s.maxShelve priority ≤ 86400 := by
  have duration : ∀ n : Fin 29, 13 ≤ n.val → n.val ≤ 16 → paramRange n = (0, 86400) := by decide
  have bound : ∀ n : Fin 29, 13 ≤ n.val → n.val ≤ 16 → s.param n ≤ 86400 := by
    intro n low high
    have range := k n
    simpa [duration n low high, inRange] using range
  unfold State.maxShelve
  split <;> exact bound _ (by decide) (by decide)

theorem shelfInOrder_placed {s : State} {e : ShelveEntry} {n priority : Nat} (i : Nat)
    (hn : n ≤ s.maxShelve priority) (expiry : e.expiry = after s.elapsed (10 * n)) (range : ParamsInRange s)
    (k : ShelfInOrder s) : ShelfInOrder { s with shelf := insertShelve e (withoutEntry s.shelf i) } := by
  have near := maxShelve_le range priority
  exact shelfInOrder_insert (s := { s with shelf := withoutEntry s.shelf i }) (n := 10 * n) (by omega) expiry
    (shelfInOrder_withoutEntry i k)

theorem shelfInOrder_empty {t : State} (h : t.shelf = []) : ShelfInOrder t :=
  ⟨by simp [h], by simp [h]⟩

def orderFields : List Field := [.elapsed, .shelf, .params]

theorem shelfInOrder_act {F : List Field} {s t : State} (a : Act false F s t)
    (touched : ∃ f ∈ orderFields, f ∈ F) (k : ParamsInRange s ∧ ShelfInOrder s) :
    ParamsInRange t ∧ ShelfInOrder t := by
  obtain ⟨range, order⟩ := k
  have ranged : ParamsInRange t := by
    by_cases hf : ∃ f ∈ paramFields, f ∈ F
    · exact paramsInRange_act a hf range
    · exact paramsInRange_reads.of_changes a.changes (by simpa using hf) range
  refine ⟨ranged, ?_⟩
  cases a <;> simp [orderFields, inertFields, loadFields, handingFields] at touched
  case reshelve hn expiry => exact shelfInOrder_placed _ hn expiry range order
  case shelve hn expiry =>
    exact shelfInOrder_reads.of_changes (setPoint_changes _ _ _) (by decide)
      (shelfInOrder_placed _ hn expiry range order)
  case unshelve i _ q _ _ _ =>
    exact shelfInOrder_reads.of_changes (setPoint_changes _ _ _) (by decide)
      (shelfInOrder_withoutEntry i order)
  case dropEntry i _ => exact shelfInOrder_withoutEntry i order
  case takeIntoUse => exact shelfInOrder_empty rfl
  case reset h _ _ _ => exact shelfInOrder_empty h.shelf
  case cleared => exact shelfInOrder_empty rfl
  case store vs _ _ => exact shelfInOrder_reads.of_changes (storeValues_changes s vs) (by decide) order
  case edit => contradiction

theorem shelf_in_order_of_step {s t : State} (order : ShelfInOrder s) (range : ParamsInRange s)
    (h : step s = .next t) (elapsed : t.elapsed = s.elapsed) : ShelfInOrder t := by
  rcases step_cases h with rfl | ⟨c, rest, h⟩
  · exact order
  · have popped : ParamsInRange { s with pending := rest } ∧ ShelfInOrder { s with pending := rest } :=
      ⟨range, order.ordered, order.recent⟩
    by_cases tick : ∃ n, c = .timeReferenceTick n
    · obtain ⟨n, rfl⟩ := tick
      have shelf : t.shelf = s.shelf := by
        rw [← Host.Outcome.next.inj h]
        rfl
      refine ⟨?_, fun e he => ?_⟩
      · simpa only [shelf, State.tenthsTo, elapsed] using order.ordered
      · simpa only [State.tenthsTo, elapsed] using order.recent e (shelf ▸ he)
    · refine (kept_by_acts (T := orderFields) (w := false) (X := fun u => ParamsInRange u ∧ ShelfInOrder u)
        (fun u v same k => ⟨?_, ?_⟩) (fun _ _ _ => shelfInOrder_act) (exec_acts (fun n e => tick ⟨n, e⟩) h)
        popped).2
      · exact paramsInRange_reads u v (fun f hf => same f (by simp_all [paramFields, orderFields])) k.1
      · exact shelfInOrder_reads u v (fun f hf => same f (by simp_all [orderFields]; tauto)) k.2

/-- Time passes: each expiry comes nearer by the same tenths, as long as none comes to lie further past than
the list allows. -/
theorem shelf_in_order_of_tick {s t : State} {n : Nat} (order : ShelfInOrder s)
    (h : exec (.timeReferenceTick n) s = .next t)
    (recent : ∀ e ∈ s.shelf, (((s.refCycles.val + n) / 100 : Nat) : Int) ≤ s.tenthsTo e.expiry + 2 ^ 30) :
    ShelfInOrder t := by
  obtain rfl := Host.Outcome.next.inj h
  generalize hk : (s.refCycles.val + n) / 100 = tenths at recent
  have nearer : ∀ e ∈ s.shelf, (settle (passCycles s n)).tenthsTo e.expiry = s.tenthsTo e.expiry - tenths := by
    intro e he
    have near := recent e he
    have past : e.expiry - (s.elapsed + BitVec.ofNat 32 tenths) =
        e.expiry - s.elapsed - BitVec.ofNat 32 tenths := by
      rw [BitVec.sub_sub]
    simp only [State.tenthsTo, settle, passCycles, after, hk, past] at near ⊢
    exact toInt_sub_ofNat near
  refine ⟨?_, fun e he => ?_⟩
  · exact order.ordered.imp_of_mem fun {e f} he hf le => by
      rw [nearer e he, nearer f hf]
      omega
  · rw [nearer e he]
    have := recent e he
    omega

/-- Settles O16: no act leaves a point unsound, entries come and go with the flag, and a new entry is placed by
the circular comparison, which is exact for expiries so near. -/
theorem everyStepKeepsPointsSound : Obligations.EveryStepKeepsPointsSound :=
  ⟨keptByStep_of_act false pointsSound_reads (by decide) fun _ _ _ => pointsSound_act,
   keptByStep_of_act false shelfAgrees_reads (by decide) fun _ _ _ => shelfAgrees_act,
   fun _ _ => shelf_in_order_of_step, fun _ _ _ => shelf_in_order_of_tick⟩

end Sys2Proof.Proofs
end

/-! PROOFS. Transactions: bad frames, overruns, FETCH, LINK RESET, frames on the wire and dispatch (spec/11). -/

section
namespace Sys2Proof.Proofs

open Machine

/-! ## The health of a gateway -/

/-- What a transaction moves of a gateway (R170). -/
def vitals (x : GatewayState) : Health × List Time × Option Time := (x.health, x.history, x.doubtExpiry)

theorem vitals_iff {x y : GatewayState} :
    vitals x = vitals y ↔ x.health = y.health ∧ x.history = y.history ∧ x.doubtExpiry = y.doubtExpiry := by
  simp [vitals]

theorem next_vitals {x y : GatewayState} (h : vitals x = vitals y) (now : Time) (ev : FrameEvent) :
    vitals (x.next now ev) = vitals (y.next now ev) := by
  obtain ⟨health, history, expiry, _, _⟩ := x
  obtain ⟨health', history', expiry', _, _⟩ := y
  obtain ⟨rfl, rfl, rfl⟩ := vitals_iff.1 h
  cases ev with
  | sound => unfold GatewayState.next; dsimp only; split <;> rfl
  | bad =>
    unfold GatewayState.next GatewayState.badFrame
    cases health
    case doubt => dsimp only; split <;> rfl
    all_goals rfl
  | fetch => rfl
  | linkReset => unfold GatewayState.next; dsimp only; split <;> rfl

theorem setGateway_at (s : State) (g h : Gateway) (x : GatewayState) :
    (s.setGateway g x).gateway h = if h = g then x else s.gateway h := by
  by_cases e : h = g
  · subst e
    simp [State.setGateway, State.gateway]
  · have : g.val ≠ h.val := fun k => e (Fin.ext k.symm)
    simp [State.setGateway, State.gateway, e, this]

theorem setGateway_vitals {s : State} {g : Gateway} {x : GatewayState} (hx : vitals x = vitals (s.gateway g))
    (h : Gateway) : vitals ((s.setGateway g x).gateway h) = vitals (s.gateway h) := by
  rw [setGateway_at]
  split
  · rename_i e
    rw [e, hx]
  · rfl

/-- The exchange of roles moves no health. -/
theorem exchangeRoles_vitals (s : State) (g : Gateway) (c : Byte) (h : Gateway) :
    vitals ((exchangeRoles s g c).gateway h) = vitals (s.gateway h) := by
  have first : ∀ h, vitals ((s.setGateway g { s.gateway g with role := .secondary, refresh := false }).gateway h) =
      vitals (s.gateway h) := setGateway_vitals rfl
  unfold exchangeRoles
  dsimp only
  rw [enter_at_gateway]
  exact (setGateway_vitals (by rfl) h).trans (first h)

theorem judgeRoles_vitals (s : State) (h : Gateway) :
    vitals ((judgeRoles s).gateway h) = vitals (s.gateway h) := by
  unfold judgeRoles
  split
  · split
    · exact exchangeRoles_vitals _ _ _ _
    · rfl
  · rfl

theorem hear_vitals (s : State) (p : Port) (h : Gateway) :
    vitals ((hear s p).gateway h) = vitals (s.gateway h) := by
  unfold hear
  dsimp only
  split
  · rfl
  · split
    · rw [(rederive_changes _ _ _ _).at_gateway]
      rfl
    · exact judgeRoles_vitals _ _

theorem changeHealth_vitals (s : State) (g : Gateway) (y : GatewayState) (h : Gateway) :
    vitals ((changeHealth s g y).gateway h) = vitals (if h = g then y else s.gateway h) := by
  unfold changeHealth
  dsimp only
  split
  · rw [setGateway_at]
  · rw [enter_at_gateway, judgeRoles_vitals, ← setGateway_at]
    split <;> rfl

theorem changeHealth_ports (s : State) (g : Gateway) (y : GatewayState) :
    (changeHealth s g y).ports = if y.health ≠ (s.gateway g).health ∧ y.health = .failed then
      s.ports.set (gatewayPort g) { s.ports[gatewayPort g] with slot := none } else s.ports := by
  unfold changeHealth
  dsimp only
  split
  · rename_i same
    rw [if_neg fun h => h.1 same]
    rfl
  · rename_i moved
    rw [enter_ports, (judgeRoles_changes _).ports]
    by_cases failed : y.health = .failed
    · rw [if_pos failed, if_pos ⟨moved, failed⟩]
      rfl
    · rw [if_neg failed, if_neg fun h => failed h.2]
      rfl

/-- The same as it reads at one port. -/
theorem changeHealth_port (s : State) (g : Gateway) (y : GatewayState) (q : Port) :
    (changeHealth s g y).port q =
      if q = gatewayPort g ∧ y.health ≠ (s.gateway g).health ∧ y.health = .failed then
        { s.port q with slot := none } else s.port q := by
  have written := changeHealth_ports s g y
  by_cases moved : y.health ≠ (s.gateway g).health ∧ y.health = .failed
  · rw [if_pos moved] at written
    simp only [State.port, written]
    by_cases e : q = gatewayPort g
    · subst e
      rw [if_pos ⟨rfl, moved⟩]
      simp
    · have : (gatewayPort g).val ≠ q.val := fun k => e (Fin.ext k.symm)
      rw [if_neg fun h => e h.1]
      simp [this]
  · rw [if_neg moved] at written
    rw [if_neg fun h => moved h.2, State.port, State.port]
    simp only [written]

/-! ## The beginning of a transaction -/

theorem hear_port (s : State) (p q : Port) :
    (hear s p).port q = if q = p then
      { s.port p with
        link := .good, lastHeard := some s.elapsed
        liveness := some (after s.elapsed (10 * s.silenceLimit p + 1)) } else s.port q := by
  simp only [State.port, hear_ports]
  by_cases e : q = p
  · subst e
    simp
  · have : p.val ≠ q.val := fun k => e (Fin.ext k.symm)
    simp [e, this]

theorem beginTransaction_desk (s : State) (d : Desk) (ev : FrameEvent) :
    beginTransaction s (deskPort d) ev = hear s (deskPort d) := by
  simp [beginTransaction]

theorem beginTransaction_gateway_changes (s : State) (g : Gateway) (ev : FrameEvent) :
    OnlyChanges [.queues] (changeHealth (hear s (gatewayPort g)) g
      (((hear s (gatewayPort g)).gateway g).next s.elapsed ev)) (beginTransaction s (gatewayPort g) ev) := by
  unfold beginTransaction
  rw [splitPort_gatewayPort]
  dsimp only
  split
  · exact .refl _
  · exact gatewayNotice_changes _

theorem beginTransaction_vitals (s : State) (g : Gateway) (ev : FrameEvent) (h : Gateway) :
    vitals ((beginTransaction s (gatewayPort g) ev).gateway h) =
      vitals (if h = g then (s.gateway g).next s.elapsed ev else s.gateway h) := by
  rw [(beginTransaction_gateway_changes s g ev).at_gateway, changeHealth_vitals]
  split
  · exact next_vitals (hear_vitals s _ g) _ _
  · exact hear_vitals s _ h

theorem beginTransaction_health (s : State) (g : Gateway) (ev : FrameEvent) :
    ((beginTransaction s (gatewayPort g) ev).gateway g).health = ((s.gateway g).next s.elapsed ev).health := by
  have := beginTransaction_vitals s g ev g
  rw [if_pos rfl] at this
  exact (vitals_iff.1 this).1

theorem otherGateway_ne (g : Gateway) : otherGateway g ≠ g := by
  revert g; decide

theorem beginTransaction_otherHealth (s : State) (g : Gateway) (ev : FrameEvent) :
    ((beginTransaction s (gatewayPort g) ev).gateway (otherGateway g)).health =
      (s.gateway (otherGateway g)).health := by
  have := beginTransaction_vitals s g ev (otherGateway g)
  rw [if_neg (otherGateway_ne g)] at this
  exact (vitals_iff.1 this).1

/-- At a gateway the heard port alone is written, and its slot is emptied when the health becomes FAILED. -/
theorem beginTransaction_port (s : State) (g : Gateway) (ev : FrameEvent) (q : Port) :
    (beginTransaction s (gatewayPort g) ev).port q =
      if q = gatewayPort g ∧ ((s.gateway g).next s.elapsed ev).health ≠ (s.gateway g).health ∧
          ((s.gateway g).next s.elapsed ev).health = .failed then
        { (hear s (gatewayPort g)).port q with slot := none }
      else (hear s (gatewayPort g)).port q := by
  have same := hear_vitals s (gatewayPort g) g
  rw [(beginTransaction_gateway_changes s g ev).at_port, changeHealth_port,
    (vitals_iff.1 (next_vitals same _ _)).1, (vitals_iff.1 same).1]

theorem hear_gateway_changes (s : State) (g : Gateway) :
    OnlyChanges [.ports, .gateways, .journal] s (hear s (gatewayPort g)) := by
  unfold hear
  rw [splitPort_gatewayPort]
  dsimp only
  split
  · exact (setPort_changes _ _ _).mono (by decide)
  · exact ((setPort_changes _ _ _).mono (by decide)).trans ((judgeRoles_changes _).mono (by decide))

theorem beginTransaction_at_gateway_changes (s : State) (g : Gateway) (ev : FrameEvent) :
    OnlyChanges [.ports, .gateways, .queues, .journal] s (beginTransaction s (gatewayPort g) ev) :=
  ((hear_gateway_changes s g).mono (by decide)).trans
    (((changeHealth_changes _ _ _).mono (by decide)).trans
      ((beginTransaction_gateway_changes s g ev).mono (by decide)))

/-- The lines settle and nothing else moves. -/
theorem settled_of_changes {T : List Field} {s u : State} (h : OnlyChanges T s u) :
    OnlyChanges (T ++ [.horns, .attention]) s (settle u) :=
  h.andThen (settle_changes u) (List.subset_append_left _ _) (List.subset_append_right _ _)

/-! ## Bad frames -/

theorem exec_badFrame_of_bad {p : Port} {bytes : List Byte} {s : State} (h : parseTransaction bytes = .bad) :
    exec (.badFrame p bytes) s = .next (settle (beginTransaction s p .bad)) := by
  show execBadFrame p bytes s = _
  rw [execBadFrame, h]
  rfl

/-- The frames still remembered at a bad one, and it (R170). -/
def recentFrames (s : State) (x : GatewayState) : List Time :=
  x.history.filter (fun b => age s.elapsed b ≤ 99) ++ [s.elapsed]

theorem badFrame_fresh {x : GatewayState} (now : Time) (h : x.health = .absent ∨ x.health = .good) :
    vitals (x.next now .bad) = (.doubt, [now], some (after now 100)) := by
  rcases h with h | h <;> simp [GatewayState.next, GatewayState.badFrame, h, vitals]

theorem badFrame_doubt {s : State} {x : GatewayState} (h : x.health = .doubt) :
    vitals (x.next s.elapsed .bad) = if 3 ≤ (recentFrames s x).length then (.failed, recentFrames s x, none)
      else (.doubt, recentFrames s x, some (after s.elapsed 100)) := by
  have body : x.next s.elapsed .bad = if 3 ≤ (recentFrames s x).length then
      { x with health := .failed, history := recentFrames s x, doubtExpiry := none }
      else { x with history := recentFrames s x, doubtExpiry := some (after s.elapsed 100) } := by
    simp only [GatewayState.next, GatewayState.badFrame, h]
    rfl
  rw [body]
  split
  · rfl
  · simp only [vitals, h]

theorem badFrame_failed {x : GatewayState} (now : Time) (h : x.health = .failed) :
    vitals (x.next now .bad) = vitals x := by
  simp [GatewayState.next, GatewayState.badFrame, h]

theorem badFrame_desk (d : Desk) (bytes : List Byte) (s : State) (h : parseTransaction bytes = .bad) :
    ∃ t, exec (.badFrame (deskPort d) bytes) s = .next t ∧
      OnlyChanges [.horns, .attention] (heardAt s (deskPort d)) t ∧
      ∀ p, (t.port p).slot = (s.port p).slot := by
  refine ⟨_, exec_badFrame_of_bad h, ?_, fun p => ?_⟩
  · rw [beginTransaction_desk, heardAt_desk]
    exact settle_changes _
  · rw [beginTransaction_desk]
    exact hear_slot s _ p

/-- Settles O5: the health of a gateway moves by the table of R170 and judging the roles moves none of it. -/
theorem badFrameDiscarded : Obligations.BadFrameDiscarded := by
  refine ⟨badFrame_desk, fun g bytes s h => ?_⟩
  have here := beginTransaction_vitals s g .bad g
  rw [if_pos rfl] at here
  have ports := beginTransaction_port s g .bad
  refine ⟨_, exec_badFrame_of_bad h, settled_of_changes (beginTransaction_at_gateway_changes s g .bad),
    fun p hp => ?_, ?_, beginTransaction_otherHealth s g .bad, ?_⟩
  · show (beginTransaction s (gatewayPort g) .bad).port p = _
    rw [ports, if_neg fun k => hp k.1, hear_port, if_neg hp]
  · show ((beginTransaction s (gatewayPort g) .bad).port (gatewayPort g)).link = _
    rw [ports, hear_port, if_pos rfl]
    split <;> rfl
  · have slot : (((s.gateway g).next s.elapsed .bad).health = .failed → (s.gateway g).health = .failed) →
        ((beginTransaction s (gatewayPort g) .bad).port (gatewayPort g)).slot =
          (s.port (gatewayPort g)).slot := by
      intro stays
      rw [ports, if_neg fun k => k.2.1 (k.2.2.trans (stays k.2.2).symm), hear_slot]
    have table : ∀ {health history expiry},
        vitals ((s.gateway g).next s.elapsed .bad) = (health, history, expiry) →
        ((beginTransaction s (gatewayPort g) .bad).gateway g).health = health ∧
        ((beginTransaction s (gatewayPort g) .bad).gateway g).history = history ∧
        ((beginTransaction s (gatewayPort g) .bad).gateway g).doubtExpiry = expiry := by
      intro health history expiry k
      have := here.trans k
      simpa [vitals] using this
    refine ⟨fun k => table (badFrame_fresh _ k), fun k => slot fun failed => ?_, fun k few => ?_,
      fun k many => ?_, fun k => table ((badFrame_failed _ k).trans (by rw [vitals, k]))⟩
    · by_contra sound
      cases hx : (s.gateway g).health with
      | absent => simp [GatewayState.next, GatewayState.badFrame, hx] at failed
      | good => simp [GatewayState.next, GatewayState.badFrame, hx] at failed
      | doubt =>
        have few := k hx
        have := congrArg (·.1) ((badFrame_doubt (s := s) hx).trans (if_neg (Nat.not_le.2 few)))
        exact nomatch (failed.symm.trans this : Health.failed = .doubt)
      | failed => exact sound hx
    · exact table ((badFrame_doubt (s := s) k).trans (if_neg (Nat.not_le.2 few)))
    · have failed : vitals ((s.gateway g).next s.elapsed .bad) = (.failed, recentFrames s (s.gateway g), none) :=
        (badFrame_doubt (s := s) k).trans (if_pos many)
      obtain ⟨health, _, expiry⟩ := table failed
      refine ⟨health, expiry, ?_⟩
      show ((beginTransaction s (gatewayPort g) .bad).port (gatewayPort g)).slot = none
      have moved : ((s.gateway g).next s.elapsed .bad).health = .failed := congrArg (·.1) failed
      rw [ports, if_pos ⟨rfl, by rw [moved, k]; decide, moved⟩]

/-! ## Sound frames that are not taken -/

theorem exec_overrun {p : Port} {kind tag : Byte} {body : Body} {s : State} (h : body.length ≤ maxBody) :
    exec (.overrun p kind tag body) s = .next (settle (soundFrame p kind tag body (requestFor kind) s)) := by
  show execOverrun p kind tag body s = _
  rw [execOverrun, send, if_pos h]

theorem soundFrame_full {p : Port} {kind tag : Byte} {body : Body} {req : Option Request} {s : State}
    (deaf : (heardAt s p).deaf p = false) (full : ((heardAt s p).port p).slot.isSome = true) :
    soundFrame p kind tag body req s =
      (heardAt s p).setPort p { (heardAt s p).port p with overrun := true } := by
  unfold soundFrame
  dsimp only
  rw [← heardAt, if_neg (by rw [deaf]; decide), if_pos full]

theorem soundFrame_deaf {p : Port} {kind tag : Byte} {body : Body} {req : Option Request} {s : State}
    (deaf : (heardAt s p).deaf p = true) : soundFrame p kind tag body req s = heardAt s p := by
  unfold soundFrame
  dsimp only
  rw [← heardAt, if_pos deaf]

/-- A sound frame at an empty slot: its answer is placed. -/
theorem soundFrame_taken {p : Port} {kind tag : Byte} {body : Body} {req : Option Request} {s : State}
    (deaf : (heardAt s p).deaf p = false) (slot : ((heardAt s p).port p).slot = none) :
    soundFrame p kind tag body req s = (dispatch req p body (heardAt s p)).1.setPort p
      { (dispatch req p body (heardAt s p)).1.port p with
        slot := some { kind := kind, tag := tag, reply := (dispatch req p body (heardAt s p)).2 } } := by
  unfold soundFrame
  dsimp only
  rw [← heardAt, if_neg (by rw [deaf]; decide), slot, if_neg (by decide)]

theorem port_cases (p : Port) : (∃ d, p = deskPort d) ∨ ∃ g, p = gatewayPort g := by
  revert p; decide

theorem deaf_gateway (s : State) (g : Gateway) :
    s.deaf (gatewayPort g) = ((s.gateway g).health == .failed) := by
  simp [State.deaf]

/-- A sound frame empties no slot. -/
theorem heardAt_slot (s : State) (p q : Port) : ((heardAt s p).port q).slot = (s.port q).slot := by
  rcases port_cases p with ⟨d, rfl⟩ | ⟨g, rfl⟩
  · exact heardAt_desk_slot s d q
  · have stays : ((s.gateway g).next s.elapsed .sound).health = .failed → (s.gateway g).health = .failed := by
      unfold GatewayState.next
      dsimp only
      split
      · exact fun h => nomatch (h : Health.good = .failed)
      · exact id
    rw [heardAt, beginTransaction_port, if_neg fun k => k.2.1 (k.2.2.trans (stays k.2.2).symm), hear_slot]

theorem heardAt_failed {s : State} {g : Gateway} (h : (s.gateway g).health = .failed) :
    (heardAt s (gatewayPort g)).deaf (gatewayPort g) = true := by
  rw [deaf_gateway, heardAt, beginTransaction_health]
  simp [GatewayState.next, h]

theorem requestFor_none {kind : Byte} (h : kindOf kind = none) : requestFor kind = none := by
  rw [requestFor, h]
  rfl

theorem dispatch_none (p : Port) (body : Body) (s : State) :
    dispatch none p body s = (s, refuse .malformed) := by
  unfold dispatch
  cases splitPort p <;> rfl

/-- Settles O6: the three frames that run no rule. -/
theorem overrunAndUnknownKind : Obligations.OverrunAndUnknownKind := by
  refine ⟨fun p kind tag body s hb deaf full => ⟨_, exec_overrun hb, ?_, ?_, ?_⟩,
    fun g kind tag body s hb failed => ⟨_, exec_overrun hb, ?_⟩,
    fun p kind tag body s hb hk deaf slot => ⟨_, exec_overrun hb, ?_, ?_⟩⟩
  · rw [soundFrame_full deaf full]
    exact answer_changes _ _ _
  · rw [soundFrame_full deaf full]
    rfl
  · rw [soundFrame_full deaf full, settle_at_port, setPort_port, ← heardAt_slot s p p]
  · rw [soundFrame_deaf (heardAt_failed failed)]
    exact settle_changes _
  · rw [requestFor_none hk, soundFrame_taken deaf slot, dispatch_none]
    exact answer_changes _ _ _
  · rw [requestFor_none hk, soundFrame_taken deaf slot, dispatch_none]
    rfl

/-! ## FETCH -/

theorem setShiftedOut_at (s : State) (p q : Port) (l : List Byte) :
    (s.setShiftedOut p l).shiftedOut[q] = if q = p then l else s.shiftedOut[q] := by
  by_cases e : q = p
  · subst e
    simp [State.setShiftedOut]
  · have : p.val ≠ q.val := fun k => e (Fin.ext k.symm)
    simp [State.setShiftedOut, e, this]

theorem fetchTransaction_none (p : Port) (s : State) :
    fetchTransaction p 0 s = (beginTransaction s p .fetch).setShiftedOut p [] := rfl

theorem fetchTransaction_some {p : Port} {clocked : Nat} {s : State} (h : 0 < clocked) :
    fetchTransaction p clocked s = (fetchItem (beginTransaction s p .fetch) p).1.setShiftedOut p
      (clockedOut (fetchItem (beginTransaction s p .fetch) p).2 clocked) :=
  if_neg (Nat.pos_iff_ne_zero.1 h)

theorem fetchDesk_answer {s : State} {d : Desk} {a : Answer} (h : (s.port (deskPort d)).slot = some a) :
    fetchDesk s d = (s.setPort (deskPort d) { s.port (deskPort d) with slot := none, overrun := false },
      answerFrame a (s.port (deskPort d)).overrun) := by
  unfold fetchDesk
  simp only [h]

theorem fetchDesk_resync {s : State} {d : Desk} (h : (s.port (deskPort d)).slot = none)
    (hr : (s.queue d).resync = true) :
    fetchDesk s d = (s.setQueue d { s.queue d with resync := false }, resyncFrame) := by
  unfold fetchDesk
  simp only [h, hr, if_true]

theorem fetchDesk_entry {s : State} {d : Desk} {n : Notice} {rest : List Notice}
    (h : (s.port (deskPort d)).slot = none) (hr : (s.queue d).resync = false)
    (he : (s.queue d).entries = n :: rest) :
    fetchDesk s d = (s.setQueue d { s.queue d with entries := rest }, noticeFrame n) := by
  unfold fetchDesk
  simp only [h, hr, he, Bool.false_eq_true, if_false]

theorem fetchDesk_empty {s : State} {d : Desk} (h : (s.port (deskPort d)).slot = none)
    (hr : (s.queue d).resync = false) (he : (s.queue d).entries = []) : fetchDesk s d = (s, emptyFrame) := by
  unfold fetchDesk
  simp only [h, hr, he, Bool.false_eq_true, if_false]

/-- A desk's FETCH writes its own port and queue. -/
theorem fetchDesk_keeps (s : State) (d : Desk) : OnlyChanges [.ports, .queues] s (fetchDesk s d).1 ∧
    (∀ p, p ≠ deskPort d → (fetchDesk s d).1.port p = s.port p) ∧
    (∀ e, e ≠ d → (fetchDesk s d).1.queue e = s.queue e) ∧
    ((s.port (deskPort d)).slot = none → (fetchDesk s d).1.port (deskPort d) = s.port (deskPort d)) := by
  cases h : (s.port (deskPort d)).slot with
  | some a =>
    rw [fetchDesk_answer h]
    exact ⟨(setPort_changes _ _ _).mono (by decide), fun p hp => setPort_port_ne _ _ hp, fun _ _ => rfl,
      fun k => absurd k (by simp)⟩
  | none =>
    have queued : ∀ q, OnlyChanges [.ports, .queues] s (s.setQueue d q) := fun q =>
      (setQueue_changes _ _ _).mono (by decide)
    cases hr : (s.queue d).resync with
    | true =>
      rw [fetchDesk_resync h hr]
      exact ⟨queued _, fun _ _ => rfl, fun e he => setQueue_queue_ne _ _ he, fun _ => rfl⟩
    | false =>
      cases he : (s.queue d).entries with
      | nil =>
        rw [fetchDesk_empty h hr he]
        exact ⟨.refl s, fun _ _ => rfl, fun _ _ => rfl, fun _ => rfl⟩
      | cons n rest =>
        rw [fetchDesk_entry h hr he]
        exact ⟨queued _, fun _ _ => rfl, fun e he => setQueue_queue_ne _ _ he, fun _ => rfl⟩

theorem fetchItem_desk (s : State) (d : Desk) : fetchItem s (deskPort d) = fetchDesk s d := by
  simp [fetchItem]

theorem fetchItem_gateway (s : State) (g : Gateway) : fetchItem s (gatewayPort g) = fetchGateway s g := by
  simp [fetchItem]

/-- What is shifted out at a port, beside the state. -/
theorem shiftedOut_changes (u : State) (p : Port) (l : List Byte) :
    OnlyChanges [.shiftedOut, .horns, .attention] u (settle (u.setShiftedOut p l)) :=
  ((setShiftedOut_changes _ _ _).mono (by decide)).trans ((settle_changes _).mono (by decide))

end Sys2Proof.Proofs
end

/-! PROOFS. FETCH and LINK RESET (R101, R102, R167, R168). -/

section
namespace Sys2Proof.Proofs

open Machine

/-! ## FETCH at a desk -/

theorem exec_fetch (p : Port) (clocked : Nat) (s : State) :
    exec (.fetch (p, clocked)) s = .next (settle (fetchTransaction p clocked s)) := rfl

/-- What a FETCH that clocks a byte leaves at a desk, in terms of the item it takes. -/
theorem fetch_desk_some {d : Desk} {clocked : Nat} {s : State} (h : 0 < clocked) :
    fetchTransaction (deskPort d) clocked s =
      (fetchDesk (heardAt s (deskPort d)) d).1.setShiftedOut (deskPort d)
        (clockedOut (fetchDesk (heardAt s (deskPort d)) d).2 clocked) := by
  rw [fetchTransaction_some h, fetchItem_desk, beginTransaction_desk, ← heardAt_desk]

theorem fetch_desk_none (d : Desk) (s : State) :
    fetchTransaction (deskPort d) 0 s = (heardAt s (deskPort d)).setShiftedOut (deskPort d) [] := by
  rw [fetchTransaction_none, beginTransaction_desk, ← heardAt_desk]

theorem settled_shiftedOut (u : State) (p : Port) (l : List Byte) :
    (settle (u.setShiftedOut p l)).shiftedOut[p] = l := by
  show (u.setShiftedOut p l).shiftedOut[p] = l
  rw [setShiftedOut_at, if_pos rfl]

theorem settled_shiftedOut_ne (u : State) {p q : Port} (l : List Byte) (h : q ≠ p) :
    (settle (u.setShiftedOut p l)).shiftedOut[q] = u.shiftedOut[q] := by
  show (u.setShiftedOut p l).shiftedOut[q] = _
  rw [setShiftedOut_at, if_neg h]

/-- Whatever is clocked, a FETCH at a desk is its item and what is shifted out. -/
theorem fetch_desk_of (d : Desk) (clocked : Nat) (s : State) : ∃ (u : State) (l : List Byte),
    fetchTransaction (deskPort d) clocked s = u.setShiftedOut (deskPort d) l ∧
    OnlyChanges [.ports, .queues] (heardAt s (deskPort d)) u ∧
    (∀ p, p ≠ deskPort d → u.port p = (heardAt s (deskPort d)).port p) ∧
    (∀ e, e ≠ d → u.queue e = (heardAt s (deskPort d)).queue e) ∧
    (clocked = 0 → u = heardAt s (deskPort d) ∧ l = []) ∧
    (0 < clocked → u = (fetchDesk (heardAt s (deskPort d)) d).1 ∧
      l = clockedOut (fetchDesk (heardAt s (deskPort d)) d).2 clocked) := by
  rcases Nat.eq_zero_or_pos clocked with rfl | h
  · exact ⟨_, _, fetch_desk_none d s, .refl _, fun _ _ => rfl, fun _ _ => rfl, fun _ => ⟨rfl, rfl⟩,
      fun k => absurd k (by decide)⟩
  · obtain ⟨changes, ports, queues, _⟩ := fetchDesk_keeps (heardAt s (deskPort d)) d
    exact ⟨_, _, fetch_desk_some h, changes, ports, queues, fun k => absurd k (Nat.pos_iff_ne_zero.1 h),
      fun _ => ⟨rfl, rfl⟩⟩

theorem fetch_desk (d : Desk) (clocked : Nat) (s : State) :
    ∃ t, exec (.fetch (deskPort d, clocked)) s = .next t ∧
    OnlyChanges [.ports, .queues, .shiftedOut, .horns, .attention] (heardAt s (deskPort d)) t ∧
    (∀ p : Port, p ≠ deskPort d → t.shiftedOut[p] = s.shiftedOut[p] ∧
      t.port p = (heardAt s (deskPort d)).port p) ∧
    (∀ e, e ≠ d → t.queue e = (heardAt s (deskPort d)).queue e) ∧
    (let p := deskPort d
     let h := heardAt s p
     let x := h.port p
     let q := h.queue d
     let shifts := fun frame => t.shiftedOut[p] = clockedOut frame clocked
     (clocked = 0 → t.shiftedOut[p] = [] ∧ t.port p = x ∧ t.queue d = q) ∧
     (0 < clocked →
       (∀ a, x.slot = some a → shifts (answerFrame a x.overrun) ∧
         t.port p = { x with slot := none, overrun := false } ∧ t.queue d = q) ∧
       (x.slot = none → t.port p = x) ∧
       (x.slot = none → q.resync = true → shifts resyncFrame ∧
         t.queue d = { q with resync := false }) ∧
       (∀ n rest, x.slot = none → q.resync = false → q.entries = n :: rest →
         shifts (noticeFrame n) ∧ t.queue d = { q with entries := rest }) ∧
       (x.slot = none → q.resync = false → q.entries = [] →
         shifts emptyFrame ∧ t.queue d = q))) := by
  obtain ⟨u, l, taken, changes, ports, queues, none, some⟩ := fetch_desk_of d clocked s
  have written : OnlyChanges [.shiftedOut, .horns, .attention] u (settle (u.setShiftedOut (deskPort d) l)) :=
    shiftedOut_changes u _ l
  refine ⟨settle (u.setShiftedOut (deskPort d) l), by rw [exec_fetch, taken],
    changes.andThen written (by decide) (by decide), fun p hp => ⟨?_, ?_⟩, fun e he => ?_, ?_⟩
  · have before := ((heardAt_desk_changes s d).mono (U := .ports :: .queues :: hearFields) (by decide)).trans
      (changes.mono (by decide))
    rw [settled_shiftedOut_ne u l hp]
    simp only [before.shiftedOut]
  · exact (written.at_port p).trans (ports p hp)
  · exact (written.at_queue e).trans (queues e he)
  · dsimp only
    rw [settled_shiftedOut, written.at_port, written.at_queue]
    refine ⟨fun h => ?_, fun h => ?_⟩
    · obtain ⟨rfl, rfl⟩ := none h
      exact ⟨rfl, rfl, rfl⟩
    · obtain ⟨rfl, rfl⟩ := some h
      refine ⟨fun a ha => ?_, (fetchDesk_keeps _ d).2.2.2, fun ha hr => ?_, fun n rest ha hr he => ?_,
        fun ha hr he => ?_⟩
      · rw [fetchDesk_answer ha]
        exact ⟨rfl, setPort_port _ _ _, rfl⟩
      · rw [fetchDesk_resync ha hr]
        exact ⟨rfl, setQueue_queue _ _ _⟩
      · rw [fetchDesk_entry ha hr he]
        exact ⟨rfl, setQueue_queue _ _ _⟩
      · rw [fetchDesk_empty ha hr he]
        exact ⟨rfl, rfl⟩

/-! ## FETCH at a gateway -/

theorem fetchGateway_failed {s : State} {g : Gateway} (h : (s.gateway g).health = .failed) :
    fetchGateway s g = (s, emptyFrame) := if_pos h

theorem fetchGateway_answer {s : State} {g : Gateway} {a : Answer} (h : (s.gateway g).health ≠ .failed)
    (ha : (s.port (gatewayPort g)).slot = some a) :
    fetchGateway s g = (s.setPort (gatewayPort g) { s.port (gatewayPort g) with slot := none, overrun := false },
      answerFrame a (s.port (gatewayPort g)).overrun) := by
  unfold fetchGateway
  simp only [h, ha, if_false]

theorem fetchGateway_refresh {s : State} {g : Gateway} (h : (s.gateway g).health ≠ .failed)
    (ha : (s.port (gatewayPort g)).slot = none) (hr : (s.gateway g).refresh = true) :
    fetchGateway s g = ({ s with freeCount := s.freeCount + 1 }.setGateway g { s.gateway g with refresh := false },
      refreshFrame (Config.refreshClass s.freeCount + 1)) := by
  unfold fetchGateway
  simp only [h, ha, hr, if_false, if_true]

theorem fetchGateway_empty {s : State} {g : Gateway} (h : (s.gateway g).health ≠ .failed)
    (ha : (s.port (gatewayPort g)).slot = none) (hr : (s.gateway g).refresh = false) :
    fetchGateway s g = (s, emptyFrame) := by
  unfold fetchGateway
  simp only [h, ha, hr, Bool.false_eq_true, if_false]

theorem setGateway_gateway_of_ne {s : State} {g h : Gateway} (x : GatewayState) (e : h ≠ g) :
    (s.setGateway g x).gateway h = s.gateway h := by
  rw [setGateway_at, if_neg e]

/-- A gateway's FETCH writes its own port and its own REFRESH. -/
theorem fetchGateway_keeps (s : State) (g : Gateway) :
    OnlyChanges [.ports, .gateways, .freeCount] s (fetchGateway s g).1 ∧
    (∀ p, p ≠ gatewayPort g → (fetchGateway s g).1.port p = s.port p) ∧
    (∀ h, h ≠ g → (fetchGateway s g).1.gateway h = s.gateway h) := by
  by_cases h : (s.gateway g).health = .failed
  · rw [fetchGateway_failed h]
    exact ⟨.refl s, fun _ _ => rfl, fun _ _ => rfl⟩
  · cases ha : (s.port (gatewayPort g)).slot with
    | some a =>
      rw [fetchGateway_answer h ha]
      exact ⟨(setPort_changes _ _ _).mono (by decide), fun p hp => setPort_port_ne _ _ hp, fun _ _ => rfl⟩
    | none =>
      cases hr : (s.gateway g).refresh with
      | true =>
        rw [fetchGateway_refresh h ha hr]
        refine ⟨?_, fun _ _ => rfl, fun k hk => setGateway_gateway_of_ne _ hk⟩
        intro f hf
        cases f <;> first | rfl | simp at hf
      | false =>
        rw [fetchGateway_empty h ha hr]
        exact ⟨.refl s, fun _ _ => rfl, fun _ _ => rfl⟩

/-- Whatever is clocked, a FETCH at a gateway is its item and what is shifted out. -/
theorem fetch_gateway_of (g : Gateway) (clocked : Nat) (s : State) : ∃ (u : State) (l : List Byte),
    fetchTransaction (gatewayPort g) clocked s = u.setShiftedOut (gatewayPort g) l ∧
    OnlyChanges [.ports, .gateways, .freeCount] (beginTransaction s (gatewayPort g) .fetch) u ∧
    (∀ p, p ≠ gatewayPort g → u.port p = (beginTransaction s (gatewayPort g) .fetch).port p) ∧
    (∀ h, h ≠ g → u.gateway h = (beginTransaction s (gatewayPort g) .fetch).gateway h) ∧
    (clocked = 0 → u = beginTransaction s (gatewayPort g) .fetch ∧ l = []) ∧
    (0 < clocked → u = (fetchGateway (beginTransaction s (gatewayPort g) .fetch) g).1 ∧
      l = clockedOut (fetchGateway (beginTransaction s (gatewayPort g) .fetch) g).2 clocked) := by
  rcases Nat.eq_zero_or_pos clocked with rfl | h
  · exact ⟨_, _, fetchTransaction_none _ s, .refl _, fun _ _ => rfl, fun _ _ => rfl, fun _ => ⟨rfl, rfl⟩,
      fun k => absurd k (by decide)⟩
  · obtain ⟨changes, ports, gateways⟩ := fetchGateway_keeps (beginTransaction s (gatewayPort g) .fetch) g
    refine ⟨_, _, ?_, changes, ports, gateways, fun k => absurd k (Nat.pos_iff_ne_zero.1 h), fun _ => ⟨rfl, rfl⟩⟩
    rw [fetchTransaction_some h, fetchItem_gateway]

theorem fetch_gateway (g : Gateway) (clocked : Nat) (s : State) :
    ∃ t, exec (.fetch (gatewayPort g, clocked)) s = .next t ∧
    (let p := gatewayPort g
     let h := beginTransaction s p .fetch
     let x := h.port p
     let y := h.gateway g
     let shifts := fun frame => t.shiftedOut[p] = clockedOut frame clocked
     OnlyChanges [.ports, .gateways, .shiftedOut, .freeCount, .horns, .attention] h t ∧
     (∀ q : Port, q ≠ p → t.shiftedOut[q] = s.shiftedOut[q] ∧ t.port q = h.port q) ∧
     t.gateway (otherGateway g) = h.gateway (otherGateway g) ∧
     (clocked = 0 → t.shiftedOut[p] = [] ∧ t.port p = x ∧ t.gateway g = y ∧
       t.freeCount = s.freeCount) ∧
     (0 < clocked →
       (y.health = .failed → shifts emptyFrame ∧ t.port p = x ∧ t.gateway g = y) ∧
       (∀ a, y.health ≠ .failed → x.slot = some a → shifts (answerFrame a x.overrun) ∧
         t.port p = { x with slot := none, overrun := false } ∧ t.gateway g = y) ∧
       (y.health ≠ .failed → x.slot = none → y.refresh = true →
         (∃ cls, 1 ≤ cls ∧ cls ≤ 4 ∧ shifts (refreshFrame cls)) ∧ t.port p = x ∧
         t.gateway g = { y with refresh := false }) ∧
       (y.health ≠ .failed → x.slot = none → y.refresh = false →
         shifts emptyFrame ∧ t.port p = x ∧ t.gateway g = y))) := by
  obtain ⟨u, l, taken, changes, ports, gateways, none, some⟩ := fetch_gateway_of g clocked s
  have begun := beginTransaction_changes s (gatewayPort g) .fetch
  have written : OnlyChanges [.shiftedOut, .horns, .attention] u
      (settle (u.setShiftedOut (gatewayPort g) l)) := shiftedOut_changes u _ l
  refine ⟨settle (u.setShiftedOut (gatewayPort g) l), by rw [exec_fetch, taken], ?_⟩
  dsimp only
  rw [settled_shiftedOut, written.at_port, written.at_gateway, written.at_gateway, written.freeCount]
  refine ⟨changes.andThen written (by decide) (by decide), fun q hq => ⟨?_, ?_⟩,
    gateways _ (otherGateway_ne g), fun h => ?_, fun h => ?_⟩
  · have before := (begun.mono (U := .freeCount :: hearFields) (by decide)).trans (changes.mono (by decide))
    rw [settled_shiftedOut_ne u l hq]
    simp only [before.shiftedOut]
  · exact (written.at_port q).trans (ports q hq)
  · obtain ⟨rfl, rfl⟩ := none h
    exact ⟨rfl, rfl, rfl, begun.freeCount⟩
  · obtain ⟨rfl, rfl⟩ := some h
    refine ⟨fun hf => ?_, fun a hf ha => ?_, fun hf ha hr => ?_, fun hf ha hr => ?_⟩
    · rw [fetchGateway_failed hf]
      exact ⟨rfl, rfl, rfl⟩
    · rw [fetchGateway_answer hf ha]
      exact ⟨rfl, setPort_port _ _ _, rfl⟩
    · rw [fetchGateway_refresh hf ha hr]
      refine ⟨⟨_, Nat.succ_le_succ (Nat.zero_le _), ?_, rfl⟩, rfl, by rw [setGateway_at, if_pos rfl]⟩
      exact (Config.refreshClass _).isLt
    · rw [fetchGateway_empty hf ha hr]
      exact ⟨rfl, rfl, rfl⟩

/-- Settles O7: the item of a FETCH by the first that waits, then the bytes that are clocked. -/
theorem fetchTakesFirstWaiting : Obligations.FetchTakesFirstWaiting := by
  refine ⟨fetch_desk, fetch_gateway, fun frame clocked => ⟨clockedOut_length frame clocked, fun k hk => ?_⟩⟩
  unfold clockedOut
  refine ⟨fun h => ?_, fun h => ?_⟩
  · rw [List.getElem?_append_left (by simp only [List.length_take]; omega), List.getElem?_take, if_pos hk]
  · rw [List.getElem?_append_right (by simp only [List.length_take]; omega), List.length_take,
      List.getElem?_replicate, if_pos (by omega)]

/-! ## LINK RESET -/

/-- The port after its LINK RESET. -/
def clearedPort (x : PortState) : PortState := { x with slot := none, overrun := false }

theorem resetLink_of (s : State) (p : Port) : ∃ u : State,
    resetLink s p = u.enter .linkReset { port := some p } ∧ OnlyChanges [.ports, .queues] s u ∧
    u.ports = s.ports.set p (clearedPort s.ports[p]) ∧
    (∀ d, p = deskPort d → u.queue d = { entries := [], resync := true } ∧
      ∀ e, e ≠ d → u.queue e = s.queue e) ∧
    (∀ g, p = gatewayPort g → u.queues = s.queues) := by
  refine ⟨_, rfl, ?_, ?_, ?_, ?_⟩
  · cases splitPort p with
    | inl d => exact ((setPort_changes _ _ _).mono (by decide)).trans ((setQueue_changes _ _ _).mono (by decide))
    | inr g => exact (setPort_changes _ _ _).mono (by decide)
  · cases splitPort p <;> rfl
  · rintro d rfl
    rw [splitPort_deskPort]
    exact ⟨setQueue_queue _ _ _, fun e he => setQueue_queue_ne _ _ he⟩
  · rintro g rfl
    rw [splitPort_gatewayPort]
    rfl

/-- Settles O8: the health moves with the transaction, and the link is then cleared. -/
theorem linkResetClearsThePort : Obligations.LinkResetClearsThePort := by
  intro p s
  obtain ⟨u, reset, changes, ports, desk, gateway⟩ := resetLink_of (beginTransaction s p .linkReset) p
  have entered := (enter_changes u .linkReset { port := some p }).andThen (V := [.journal, .horns, .attention])
    (settle_changes _) (by decide) (by decide)
  have begun := beginTransaction_changes s p .linkReset
  refine ⟨settle (resetLink (beginTransaction s p .linkReset) p), rfl, ?_⟩
  rw [reset]
  refine ⟨changes.andThen entered (by decide) (by decide), ports, fun hr => ?_, fun d hd => ?_,
    fun g hg => ⟨?_, fun hf => ?_, fun hf => ?_⟩⟩
  · exact enter_last u _ _ (by rw [changes.dev, begun.dev, hr])
  · obtain ⟨here, others⟩ := desk d hd
    exact ⟨(entered.at_queue d).trans here, fun e he => (entered.at_queue e).trans (others e he)⟩
  · exact entered.queues.trans (gateway g hg)
  all_goals
    subst hg
    have same : (settle (u.enter .linkReset { port := some (gatewayPort g) })).gateway g =
        (beginTransaction s (gatewayPort g) .linkReset).gateway g :=
      (entered.at_gateway g).trans (changes.at_gateway g)
    have vital := beginTransaction_vitals s g .linkReset g
    rw [if_pos rfl] at vital
    obtain ⟨health, history, _⟩ := vitals_iff.1 vital
    simp only [GatewayState.next, hf, if_true, if_false] at health history
    rw [same]
  · exact ⟨health, history⟩
  · exact health

end Sys2Proof.Proofs
end

/-! PROOFS. Frames on the wire and dispatch (R123, R165, R166; 11.6, 11.7). -/

section
namespace Sys2Proof.Proofs

open Machine

/-! ## Frames -/

theorem be16_eq (x : Word16) : be16 x = [x.extractLsb' 8 8, x.extractLsb' 0 8] := rfl

/-- A two-byte field is read back. -/
theorem read16_extract (x : Word16) : read16 (x.extractLsb' 8 8) (x.extractLsb' 0 8) = x := by
  unfold read16
  refine BitVec.eq_of_getLsbD_eq fun i hi => ?_
  rw [BitVec.getLsbD_append, BitVec.getLsbD_extractLsb', BitVec.getLsbD_extractLsb']
  by_cases low : i < 8
  · simp [low]
  · have : i - 8 < 8 := by omega
    have : 8 + (i - 8) = i := by omega
    simp [*]

theorem num16_toNat {n : Nat} (h : n ≤ maxBody) :
    (read16 ((BitVec.ofNat 16 n).extractLsb' 8 8) ((BitVec.ofNat 16 n).extractLsb' 0 8)).toNat = n := by
  rw [read16_extract, BitVec.toNat_ofNat]
  unfold maxBody at h
  omega

theorem parseFrame_frameBytes (kind tag : Byte) {body : Body} (h : body.length ≤ maxBody) :
    parseFrame (frameBytes kind tag body) = some (kind, tag, body) := by
  have bytes : frameBytes kind tag body =
      kind :: tag :: (BitVec.ofNat 16 body.length).extractLsb' 8 8 ::
        (BitVec.ofNat 16 body.length).extractLsb' 0 8 ::
          (body ++ be16 (crc16 (kind :: tag :: (num16 body.length ++ body)))) := rfl
  rw [bytes, parseFrame]
  simp only [num16_toNat h, List.take_left', List.drop_left', List.length_append]
  rw [if_pos ⟨h, rfl, rfl⟩]

/-- Settles O9: the length field and the CRC are read back as they were written. -/
theorem sentFrameIsReadBack : Obligations.SentFrameIsReadBack := by
  intro kind tag body h
  rw [sendBytes, parseTransaction, if_pos rfl, parseFrame_frameBytes kind tag h]

theorem kindOf_code (k : Kind) : kindOf k.code = some k := by
  cases k <;> rfl

theorem requestFor_code (k : Kind) : requestFor k.code = some (requestOf k) := by
  rw [requestFor, kindOf_code, Option.map_some]

/-- A request command runs the request of its kind. -/
theorem exec_requestCommand (k : Kind) (p : Port) (tag : Byte) (body : Body) (s : State) :
    exec (requestCommand k p tag body) s = runRequest p k tag body (requestOf k) s := by
  cases k <;> rfl

theorem runRequest_sound {p : Port} {k : Kind} {tag : Byte} {body : Body} {req : Request} {s : State}
    (h : body.length ≤ maxBody) :
    runRequest p k tag body req s = .next (settle (soundFrame p k.code tag body (some req) s)) := by
  rw [runRequest, send, if_pos h]

/-- Settles O10: the bytes of a frame are parsed to the request that the command carries. -/
theorem requestIsItsFrame : Obligations.RequestIsItsFrame := by
  refine ⟨kindOf_code, fun k p tag body s h => ?_⟩
  show _ = execBadFrame p (sendBytes k.code tag body) s
  rw [exec_requestCommand, runRequest_sound h, execBadFrame, sentFrameIsReadBack _ _ _ h, takeTransaction,
    requestFor_code]

/-! ## Dispatch -/

/-- What dispatch refuses is answered and nothing else. -/
theorem refused_by_dispatch {k : Kind} {p : Port} {tag : Byte} {body : Body} {s : State} {st : Status}
    (hb : body.length ≤ maxBody) (deaf : (heardAt s p).deaf p = false)
    (slot : ((heardAt s p).port p).slot = none)
    (refused : dispatch (some (requestOf k)) p body (heardAt s p) = (heardAt s p, refuse st)) :
    ∃ t, exec (requestCommand k p tag body) s = .next t ∧ OnlyChanges answering (heardAt s p) t ∧
      Replied (heardAt s p) t p k tag (refuse st) := by
  refine ⟨_, (exec_requestCommand k p tag body s).trans (runRequest_sound hb), ?_, ?_⟩ <;>
    rw [soundFrame_taken deaf slot, refused]
  · exact answer_changes _ _ _
  · rfl

theorem requestOf_gateway (k : Kind) :
    (∃ rule, requestOf k = .gateway rule) ↔ k = .channelReport ∨ k = .heartbeat := by
  cases k <;> simp [requestOf]

theorem requestOf_desk {k : Kind} (h : ¬ (k = .channelReport ∨ k = .heartbeat)) :
    ∃ conf rule, requestOf k = .desk conf rule ∧
      (conf = true ↔ k = .loadStart ∨ k = .configBlock ∨ k = .loadEnd ∨ k = .loadAbandon) := by
  cases k <;> simp [requestOf] at h ⊢

theorem dispatch_refuses {k : Kind} {p : Port} {body : Body} {h : State} :
    let gatewayKind := k = .channelReport ∨ k = .heartbeat
    let loadKind := k = .loadStart ∨ k = .configBlock ∨ k = .loadEnd ∨ k = .loadAbandon
    let refused := fun st => dispatch (some (requestOf k)) p body h = (h, refuse st)
    (∀ g, p = gatewayPort g → ¬gatewayKind → refused .noPermission) ∧
    (∀ d, p = deskPort d → gatewayKind → refused .noPermission) ∧
    (∀ d, p = deskPort d → ¬gatewayKind → h.enabled d = false → refused .noPermission) ∧
    (∀ d, p = deskPort d → ¬gatewayKind → h.enabled d = true → h.dev ≠ .running → ¬loadKind →
      refused .notRunning) := by
  refine ⟨?_, ?_, ?_, ?_⟩
  · rintro g rfl hk
    obtain ⟨conf, rule, hr, _⟩ := requestOf_desk hk
    simp [hr, dispatch]
  · rintro d rfl hk
    obtain ⟨rule, hr⟩ := (requestOf_gateway k).2 hk
    simp [hr, dispatch]
  · rintro d rfl hk disabled
    obtain ⟨conf, rule, hr, _⟩ := requestOf_desk hk
    simp [hr, dispatch, disabled]
  · rintro d rfl hk enabled stopped hl
    obtain ⟨conf, rule, hr, load⟩ := requestOf_desk hk
    have plain : conf = false := by simpa [hl] using load
    simp [hr, dispatch, enabled, stopped, plain]

/-! ## No session -/

section
variable {s : State} {d : Desk} (unheld : (s.desk d).session = none)
include unheld

theorem withSession_none (k : State → Session → State × Reply) :
    withSession s d k = (s, refuse .noSession) := by
  have same : interact s d = s := by simp only [interact, unheld]
  simp only [withSession, same, unheld]

theorem onPoint_none {point : Word16} (h : (s.point point.toNat).isSome = true) (perm : Permission)
    (limit : State → Point → Bool) (k : State → Session → Nat → Point → State × Reply) :
    onPoint s d point perm limit k = (s, refuse .noSession) := by
  obtain ⟨p, hp⟩ := Option.isSome_iff_exists.1 h
  simp only [onPoint, hp, withSession_none unheld]

theorem onArea_none {b : Byte} (h : (s.definedArea b).isSome = true) (perm : Permission)
    (k : State → Session → Area → State × Reply) : onArea s d b perm k = (s, refuse .noSession) := by
  obtain ⟨a, ha⟩ := Option.isSome_iff_exists.1 h
  simp only [onArea, ha, withSession_none unheld]

theorem onRecord_none {i : Byte} (h : (recordOf i).isSome = true) (n : Word16)
    (k : State → Session → RecordIdx → Record → State × Reply) :
    onRecord s d i n k = (s, refuse .noSession) := by
  obtain ⟨a, ha⟩ := Option.isSome_iff_exists.1 h
  simp only [onRecord, ha, withSession_none unheld]

theorem onRecordSupervised_none {i : Byte} (h : (recordOf i).isSome = true) (n : Word16)
    (k : State → Session → RecordIdx → Record → State × Reply) :
    onRecordSupervised s d i n k = (s, refuse .noSession) := by
  obtain ⟨a, ha⟩ := Option.isSome_iff_exists.1 h
  simp only [onRecordSupervised, ha, withSession_none unheld]

end

theorem values_of_length {n : Nat} {bytes : List Byte} (h : bytes.length = 4 * n) :
    ∃ vs, values bytes = some vs ∧ vs.length = n := by
  induction n generalizing bytes with
  | zero =>
    obtain rfl := List.length_eq_zero_iff.1 h
    exact ⟨[], rfl, rfl⟩
  | succ n ih =>
    match bytes, h with
    | a :: b :: c :: e :: rest, h =>
      obtain ⟨vs, hv, hl⟩ := ih (bytes := rest) (by simpa [Nat.mul_succ] using h)
      exact ⟨_, by rw [values, hv, Option.map_some], by simp [hl]⟩

theorem mem_numbered {first : Nat} {vs : List Nat} {e : Nat × Nat} (h : e ∈ numbered first vs) :
    ∃ j, j < vs.length ∧ e.1 = first + j := by
  induction vs generalizing first with
  | nil => cases h
  | cons v rest ih =>
    rcases List.mem_cons.1 h with rfl | h
    · exact ⟨0, by simp, rfl⟩
    · obtain ⟨j, hj, he⟩ := ih h
      exact ⟨j + 1, by simpa using hj, by omega⟩

theorem rawPoint_of_length {l : List Byte} (h : l.length = 17) : ∃ r, rawPoint l = some r := by
  match l, h with
  | [_, _, _, _, _, _, _, _, _, _, _, _, _, _, _, _, _], _ => exact ⟨_, rfl⟩

/-- The rule of a kind is refused NO_SESSION. -/
def RefusedNoSession (k : Kind) (s : State) (d : Desk) (body : Body) : Prop :=
  ∃ rule, requestOf k = .desk false rule ∧ rule d body s = (s, refuse .noSession)

/-! A rule without a session whose earlier checks all pass, by what these look up. -/

section
variable {k : Kind} {s : State} {d : Desk} {body : Body} (unheld : (s.desk d).session = none)
  (h : reachesSession s d k body = true)
include unheld h

theorem noSession_body
    (hk : k = .logout ∨ k = .present ∨ k = .silence ∨ k = .swapGateways ∨ k = .restart ∨
      k = .restartToLoad ∨ k = .endSession ∨ k = .revoke ∨ k = .timeSet) :
    RefusedNoSession k s d body := by
  rcases hk with rfl | rfl | rfl | rfl | rfl | rfl | rfl | rfl | rfl
  iterate 6
    unfold reachesSession at h
    dsimp only at h
    obtain rfl := List.isEmpty_iff.1 h
    exact ⟨_, rfl, by simp only [logoutRule, presentRule, silenceRule, swapGatewaysRule, restartRule,
      restartToLoadRule, onEngineer, withSession_none unheld]⟩
  · unfold reachesSession at h
    dsimp only at h
    obtain ⟨b, rfl⟩ := List.length_eq_one_iff.1 (beq_iff_eq.1 h)
    exact ⟨_, rfl, by simp only [endSessionRule, withSession_none unheld]⟩
  iterate 2
    unfold reachesSession at h
    dsimp only at h
    obtain ⟨a, b, c, e, rfl⟩ := List.length_eq_four.1 (beq_iff_eq.1 h)
    exact ⟨_, rfl, by simp only [revokeRule, timeSetRule, withSession_none unheld]⟩

theorem noSession_point
    (hk : k = .ackPoint ∨ k = .resetPoint ∨ k = .unshelve ∨ k = .returnToService ∨
      k = .setOutOfService ∨ k = .shelve ∨ k = .editPoint) :
    RefusedNoSession k s d body := by
  rcases hk with rfl | rfl | rfl | rfl | rfl | rfl | rfl
  iterate 5
    unfold reachesSession at h
    dsimp only at h
    split at h
    · exact ⟨_, rfl, by simp only [ackPointRule, resetPointRule, unshelveRule, returnToServiceRule,
        setOutOfServiceRule, onPoint_none unheld h]⟩
    · cases h
  · unfold reachesSession at h
    dsimp only at h
    split at h
    · rename_i p1 p0 t3 t2 t1 t0 reason
      simp only [Bool.and_eq_true, bne_iff_ne, ne_eq] at h
      have seconds : ¬ (read32 t3 t2 t1 t0).toNat = 0 := fun zero => h.2 (BitVec.eq_of_toNat_eq zero)
      exact ⟨_, rfl, by simp only [shelveRule, seconds, if_false, onPoint_none unheld h.1]⟩
    · cases h
  · unfold reachesSession at h
    dsimp only at h
    split at h
    · rename_i p1 p0 rest
      simp only [Bool.and_eq_true, beq_iff_eq] at h
      obtain ⟨length, point⟩ := h
      obtain ⟨r, hr⟩ := rawPoint_of_length (l := rest.take 17) (by simp [length])
      obtain ⟨gb, hb, hg⟩ := List.length_eq_two.1 (show (rest.drop 17).length = 2 by simp [length])
      obtain ⟨p, hp⟩ := Option.isSome_iff_exists.1 point
      exact ⟨_, rfl, by simp only [editPointRule, hr, hg, hp, withSession_none unheld]⟩
    · cases h

theorem noSession_area
    (hk : k = .ackArea ∨ k = .claimArea ∨ k = .releaseArea ∨ k = .queryList ∨ k = .relocate ∨ k = .offer) :
    RefusedNoSession k s d body := by
  rcases hk with rfl | rfl | rfl | rfl | rfl | rfl
  · unfold reachesSession at h
    dsimp only at h
    split at h
    · exact ⟨_, rfl, by simp only [ackAreaRule, onArea_none unheld h]⟩
    · cases h
  iterate 2
    unfold reachesSession at h
    dsimp only at h
    split at h
    · obtain ⟨a, ha⟩ := Option.isSome_iff_exists.1 h
      exact ⟨_, rfl, by simp only [claimAreaRule, releaseAreaRule, ha, withSession_none unheld]⟩
    · cases h
  · unfold reachesSession at h
    dsimp only at h
    split at h
    · simp only [Bool.and_eq_true, decide_eq_true_eq] at h
      obtain ⟨a, ha⟩ := Option.isSome_iff_exists.1 h.1
      exact ⟨_, rfl, by simp only [queryListRule, ha, Nat.not_le.2 h.2, if_false, withSession_none unheld]⟩
    · cases h
  · unfold reachesSession at h
    dsimp only at h
    split at h
    · simp only [Bool.and_eq_true, bne_iff_ne, ne_eq] at h
      obtain ⟨⟨set, console⟩, defined⟩ := h
      obtain ⟨c, hc⟩ := Option.isSome_iff_exists.1 console
      exact ⟨_, rfl, by simp [relocateRule, set, hc, defined, withSession_none unheld]⟩
    · cases h
  · unfold reachesSession at h
    dsimp only at h
    split at h
    · simp only [Bool.and_eq_true, bne_iff_ne, ne_eq] at h
      obtain ⟨⟨target, set⟩, defined⟩ := h
      obtain ⟨c, hc⟩ := Option.isSome_iff_exists.1 target
      exact ⟨_, rfl, by simp [offerRule, set, hc, defined, withSession_none unheld]⟩
    · cases h

theorem noSession_record
    (hk : k = .accept ∨ k = .decline ∨ k = .withdraw ∨ k = .take ∨ k = .confirmItem ∨ k = .queryItems ∨
      k = .coSign ∨ k = .forceCommit ∨ k = .forceWithdraw ∨ k = .confirmPage) :
    RefusedNoSession k s d body := by
  rcases hk with rfl | rfl | rfl | rfl | rfl | rfl | rfl | rfl | rfl | rfl
  iterate 6
    unfold reachesSession at h
    dsimp only at h
    split at h
    · exact ⟨_, rfl, by simp only [acceptRule, declineRule, withdrawRule, takeRule, confirmItemRule,
        queryItemsRule, onRecord_none unheld h]⟩
    · cases h
  iterate 3
    unfold reachesSession at h
    dsimp only at h
    split at h
    · exact ⟨_, rfl, by simp only [coSignRule, forceCommitRule, forceWithdrawRule,
        onRecordSupervised_none unheld h]⟩
    · cases h
  · unfold reachesSession at h
    dsimp only at h
    split at h
    · rename_i i n1 n0 f c t3 t2 t1 t0
      simp only [Bool.and_eq_true, decide_eq_true_eq] at h
      have count : ¬ (c.toNat = 0 ∨ 16 < c.toNat) := by omega
      exact ⟨_, rfl, by simp only [confirmPageRule, count, if_false, onRecord_none unheld h.1.1]⟩
    · cases h

theorem noSession_value
    (hk : k = .grant ∨ k = .readJournal ∨ k = .editParameters) :
    RefusedNoSession k s d body := by
  rcases hk with rfl | rfl | rfl
  · unfold reachesSession at h
    dsimp only at h
    split at h
    · simp only [Bool.and_eq_true, bne_iff_ne, ne_eq] at h
      obtain ⟨role, hr⟩ := Option.isSome_iff_exists.1 h.1
      exact ⟨_, rfl, by simp only [grantRule, hr, h.2, if_false, withSession_none unheld]⟩
    · cases h
  · unfold reachesSession at h
    dsimp only at h
    split at h
    · rename_i n
      simp only [Bool.and_eq_true, decide_eq_true_eq] at h
      have count : ¬ (n.toNat = 0 ∨ 8 < n.toNat) := by omega
      exact ⟨_, rfl, by simp only [readJournalRule, count, if_false, withSession_none unheld]⟩
    · cases h
  · unfold reachesSession at h
    dsimp only at h
    split at h
    · rename_i first count bytes
      simp only [Bool.and_eq_true, decide_eq_true_eq, beq_iff_eq, List.all_eq_true, List.mem_range] at h
      obtain ⟨⟨⟨low, high⟩, length⟩, editable⟩ := h
      obtain ⟨vs, hv, hl⟩ := values_of_length length
      have carried : ¬ (numbered first.toNat vs).any (fun e => (s.editable e.1).isNone) = true := by
        simp only [List.any_eq_true, not_exists, not_and]
        intro e he none
        obtain ⟨j, hj, hn⟩ := mem_numbered he
        have := editable j (hl ▸ hj)
        rw [← hn] at this
        simp [Option.isNone_iff_eq_none.1 none] at this
      refine ⟨_, rfl, ?_⟩
      simp only [editParametersRule, hv]
      rw [if_neg (by omega), if_neg carried, withSession_none unheld]
    · cases h

theorem rule_noSession : RefusedNoSession k s d body := by
  cases k
  case login | channelReport | heartbeat | loadStart | configBlock | loadEnd | loadAbandon => cases h
  case logout | present | silence | swapGateways | restart | restartToLoad | endSession | revoke | timeSet =>
    exact noSession_body unheld h (by decide)
  case ackPoint | resetPoint | unshelve | returnToService | setOutOfService | shelve | editPoint =>
    exact noSession_point unheld h (by decide)
  case ackArea | claimArea | releaseArea | queryList | relocate | offer =>
    exact noSession_area unheld h (by decide)
  case accept | decline | withdraw | take | confirmItem | queryItems | coSign | forceCommit | forceWithdraw | confirmPage =>
    exact noSession_record unheld h (by decide)
  case grant | readJournal | editParameters =>
    exact noSession_value unheld h (by decide)

end

/-- What the checks before the session read is not changed by a port's being heard. -/
theorem reachesSession_heardAt (s : State) (d e : Desk) (k : Kind) (body : Body) :
    reachesSession (heardAt s (deskPort e)) d k body = reachesSession s d k body := by
  have hc := heardAt_desk_changes s e
  have area : ∀ b, ((heardAt s (deskPort e)).definedArea b) = s.definedArea b := by
    intro b
    have defined := (show OwnersSame s (heardAt s (deskPort e)) from heardAt_desk s e ▸ hear_ownersSame s e).defined
    simp only [State.definedArea, defined]
  have allDefined : ∀ set, (heardAt s (deskPort e)).allDefined set = s.allDefined set := by
    intro set
    have defined := (show OwnersSame s (heardAt s (deskPort e)) from heardAt_desk s e ▸ hear_ownersSame s e).defined
    simp only [State.allDefined, defined]
  have editable : ∀ n, (heardAt s (deskPort e)).editable n = s.editable n := by
    intro n
    simp only [State.editable, hc.at_group]
  unfold reachesSession
  simp only [area, allDefined, editable, hc.at_point]

/-- Settles O11: dispatch refuses before any rule runs, and a rule without a session changes nothing. -/
theorem dispatchRefuses : Obligations.DispatchRefuses := by
  refine ⟨fun k p tag body s hb deaf slot => ?_, fun k d tag body s taking unheld hb reaches => ?_⟩
  · obtain ⟨gateway, desk, disabled, stopped⟩ := dispatch_refuses (k := k) (p := p) (body := body) (h := heardAt s p)
    have answered := fun {st} => refused_by_dispatch (k := k) (tag := tag) (st := st) hb deaf slot
    exact ⟨fun g hp hk => answered (gateway g hp hk), fun d hp hk => answered (desk d hp hk),
      fun d hp hk off => answered (disabled d hp hk off),
      fun d hp hk on stop hl => answered (stopped d hp hk on stop hl)⟩
  · rw [← reachesSession_heardAt s d d] at reaches
    obtain ⟨rule, hr, answered⟩ := rule_noSession (by rw [heardAt_desk_session, unheld]) reaches
    obtain ⟨t, ht, replied, changes, _⟩ := request_done taking k tag hb false rule answered
      (OnlyChanges.refl (T := []) _) rfl
    exact ⟨t, by rw [exec_requestCommand, hr, ht], changes.mono (by simp), replied⟩

end Sys2Proof.Proofs
end

/-! PROOFS. Notices and where they go (R25, R93 to R96). -/

section
namespace Sys2Proof.Proofs

open Machine

/-! ## The insertion -/

theorem deliver_queues_stopped {s : State} (h : s.dev ≠ .running) (n : Notice) (names : Desk → Bool) :
    (deliver s n names).queues = s.queues := if_neg h

theorem deliver_queue {s : State} (h : s.dev = .running) (n : Notice) (names : Desk → Bool) (d : Desk) :
    (deliver s n names).queue d = if names d && s.enabled d then
        if s.linkGood (deskPort d) then (s.queue d).push (queueCapacity d) n
        else { s.queue d with resync := true }
      else s.queue d := by
  simp [deliver, State.queue, h]

theorem linkGood_iff (s : State) (p : Port) : s.linkGood p = true ↔ (s.port p).link = .good := by
  simp [State.linkGood]

theorem deliver_reaches (s : State) (n : Notice) (names : Desk → Bool) :
    OnlyChanges [.queues] s (deliver s n names) ∧
    (s.dev ≠ .running → (deliver s n names).queues = s.queues) ∧
    ∀ d, s.dev = .running →
      (names d = false ∨ s.enabled d = false → (deliver s n names).queue d = s.queue d) ∧
      (names d = true → s.enabled d = true → (s.port (deskPort d)).link = .good →
        (deliver s n names).queue d = (s.queue d).push (queueCapacity d) n) ∧
      (names d = true → s.enabled d = true → (s.port (deskPort d)).link = .silent →
        (deliver s n names).queue d = { s.queue d with resync := true }) := by
  refine ⟨deliver_changes s n names, fun h => deliver_queues_stopped h n names, fun d h => ?_⟩
  rw [deliver_queue h]
  refine ⟨?_, fun named enabled good => ?_, fun named enabled silent => ?_⟩
  · rintro (absent | disabled)
    · simp [absent]
    · simp [disabled]
  · simp [named, enabled, State.linkGood, good]
  · have : ¬ s.linkGood (deskPort d) = true := by simp [linkGood_iff, silent]
    simp [named, enabled, this]

/-- What is delivered depends on the part of the state that routing reads. -/
theorem deliver_queues_congr {s t : State} (n : Notice) (names : Desk → Bool) (hd : t.dev = s.dev)
    (hc : t.portCfg = s.portCfg) (hp : t.ports = s.ports) (hq : t.queues = s.queues) :
    (deliver t n names).queues = (deliver s n names).queues := by
  have enabled : ∀ d, t.enabled d = s.enabled d := enabled_congr hd hc
  have good : ∀ p, t.linkGood p = s.linkGood p := fun p => by simp only [State.linkGood, State.port, hp]
  have queue : ∀ d, t.queue d = s.queue d := fun d => by simp only [State.queue, hq]
  simp only [deliver, hd, enabled, good, queue, hq]

/-! ## The routing sets -/

theorem mem_liveRecords {s : State} {r : Record} : r ∈ s.liveRecords ↔ ∃ i, s.record i = some r := by
  simp only [State.liveRecords, List.mem_filterMap, id_eq, exists_eq_right, Vector.mem_toList_iff,
    Vector.mem_iff_getElem, State.record]
  constructor
  · rintro ⟨i, hi, h⟩
    exact ⟨⟨i, hi⟩, h⟩
  · rintro ⟨i, h⟩
    exact ⟨i.val, i.isLt, h⟩

theorem liveRecords_any {s : State} {f : Record → Bool} :
    s.liveRecords.any f = true ↔ ∃ i r, s.record i = some r ∧ f r = true := by
  simp only [List.any_eq_true, mem_liveRecords]
  constructor
  · rintro ⟨r, ⟨i, hi⟩, hf⟩
    exact ⟨i, r, hi, hf⟩
  · rintro ⟨i, r, hi, hf⟩
    exact ⟨r, ⟨i, hi⟩, hf⟩

theorem isParty_iff {d : Desk} {p : Option Party} :
    isParty d p = true ↔ ∃ x, p = some x ∧ consoleDesk x.console = d := by
  cases p <;> simp [isParty]

theorem accepted_iff {r : Record} : r.accepted = true ↔ r.state = .overlap ∨ r.state = .held := by
  cases h : r.state <;> simp [Record.accepted, h]

theorem areaNames_iff (s : State) (a : Area) (d : Desk) : s.areaNames a d = true ↔
    (s.attendance a = some .attended ∧ isParty d (s.owner a) = true) ∨
    (∃ i r, s.record i = some r ∧ (r.state = .overlap ∨ r.state = .held) ∧ inSet r.areas a = true ∧
      isParty d r.incoming = true) ∨
    (s.attendance a = some .covered ∧ d = supervisor) ∨
    (s.attendance a = some .unattended ∧ (d = supervisor ∨ (s.reaches d a = true ∧ s.present d = true))) := by
  simp only [State.areaNames, Bool.or_eq_true, Bool.and_eq_true, beq_iff_eq, liveRecords_any, accepted_iff,
    and_assoc, or_assoc]

theorem pointNames_iff (s : State) (a : Area) (escalated : Bool) (d : Desk) :
    s.pointNames a escalated d = true ↔ s.areaNames a d = true ∨ (escalated = true ∧ d = supervisor) := by
  simp only [State.pointNames, Bool.or_eq_true, Bool.and_eq_true, beq_iff_eq, and_comm]

theorem areaNoticeNames_iff (s : State) (a : Area) (before : Option Party) (d : Desk) :
    s.areaNoticeNames a before d = true ↔ d = supervisor ∨ s.reaches d a = true ∨
      isParty d (s.owner a) = true ∨ isParty d before = true ∨
      ∃ i r, s.record i = some r ∧ inSet r.areas a = true ∧
        (isParty d (some r.outgoing) = true ∨ isParty d r.incoming = true) := by
  simp only [State.areaNoticeNames, Bool.or_eq_true, Bool.and_eq_true, beq_iff_eq, liveRecords_any, or_assoc]

theorem routed_iff (s : State) (a : Area) (escalated : Bool) (d : Desk) :
    s.routed a escalated d = true ↔ s.pointNames a escalated d = true ∧ s.enabled d = true ∧
      (s.port (deskPort d)).link = .good := by
  simp only [State.routed, Bool.and_eq_true, linkGood_iff, and_assoc]

/-! ## The announcement of a point -/

/-- The body of the POINT notice that a change of a point hands on (R25). -/
def changeBody (i : Nat) (p : Point) (c : Change) : PointBody :=
  { point := i, area := p.cfg.area, priority := p.cfg.priority, state := p.state, occ := p.occ
    escalated := p.escalated, shelved := p.shelved, suppressed := p.suppressed
    badInput := p.badInput, chattering := p.chattering, muted := p.muted, noted := c.noted
    chatter := c.chatter, outOfService := !p.inService, raiseMill := p.stamp.map (·.mill)
    ack := p.ackRecord }

theorem announce_of {s : State} {i : Nat} {p : Point} (c : Change) (h : s.point i = some p) :
    announce s i c = handItems (if c.withheld then s else deliver s
      { cls := p.cfg.priority, body := .point (changeBody i p c) } (s.pointNames p.cfg.area p.escalated))
      i p c.fresh := by
  simp only [announce, pointNotice, h]
  rfl

theorem handItems_records_congr {s t : State} (h : t.records = s.records) (i : Nat) (p : Point) (fresh : Bool) :
    (handItems t i p fresh).records = (handItems s i p fresh).records := by
  simp only [handItems, State.record, h]

theorem sessionChanged_queues (s : State) (d : Desk) (b : Badge) (before now : Option Presence) (c : Cause) :
    (sessionChanged s d b before now c).queues =
      (sessionNotice (sessionTold (rederive s c 0 s) d b now) d b now c).queues := by
  unfold sessionChanged
  dsimp only
  rw [enter_queues]

/-- Settles O25: each notice is one delivery, by its own routing set. -/
theorem noticeReachesItsPorts : Obligations.NoticeReachesItsPorts := by
  refine ⟨deliver_reaches, fun a escalated d s => ⟨?_, routed_iff s a escalated d, ?_, fun before => ?_⟩,
    fun a before r s ha => ⟨?_, rfl⟩, fun b names s => ?_, fun d badge before now cause s => ⟨rfl, sessionChanged_queues s d badge before now cause⟩,
    fun old new d s => ⟨rfl, rfl, rfl⟩, fun i p c s hp => ?_⟩
  · rw [pointNames_iff, areaNames_iff]
    simp only [isParty_iff, present_iff, or_assoc]
  · simp [State.pointNames]
  · simp only [areaNoticeNames_iff, isParty_iff]
  · simp only [areaNotice, ha]
  · simp only [handoverNotice, beq_eq_decide]
  · dsimp only
    refine ⟨fun shown => ?_, fun withheld => ?_, ?_, (announce_changes s i c).mono (by decide)⟩
    · rw [announce_of c hp, shown]
      rfl
    · rw [announce_of c hp, withheld]
      rfl
    · rw [announce_of c hp]
      refine handItems_records_congr ?_ i p c.fresh
      split <;> rfl

end Sys2Proof.Proofs
end

/-! PROOFS. LOGIN, LOGOUT, END SESSION and the expiries of sessions (spec/07). -/

section
namespace Sys2Proof.Proofs

open Machine

/-! ## What a session request reads -/

theorem credential_congr {s t : State} (h : t.creds = s.creds) (b : Badge) : t.credential b = s.credential b := by
  simp only [State.credential, h]

theorem sessionOf_congr {s t : State} (h : t.desks = s.desks) (b : Badge) : t.sessionOf b = s.sessionOf b := by
  have desk : ∀ d, t.desk d = s.desk d := fun d => by simp only [State.desk, h]
  simp only [State.sessionOf, desk]

theorem ownedBy_congr {s t : State} (h : OwnersSame s t) (d : Desk) (b : Badge) :
    t.ownedBy d b = s.ownedBy d b := by
  simp only [State.ownedBy, h.owner]

theorem millOf_congr {s t : State} (h : t.offset = s.offset) (e : Time) : t.millOf e = s.millOf e := by
  simp only [State.millOf, h]

theorem heardAt_desk_ownersSame (s : State) (d : Desk) : OwnersSame s (heardAt s (deskPort d)) := by
  rw [heardAt_desk]
  exact hear_ownersSame s d

theorem otherDesksSame_of_desks {s t u : State} {d : Desk} (h : OtherDesksSame s t d) (k : u.desks = t.desks) :
    OtherDesksSame s u d :=
  fun e he => by rw [← h e he, State.desk, State.desk, k]

theorem setDesk_others {s t : State} {d : Desk} {x : DeskState} (h : t.desks = (s.setDesk d x).desks) :
    t.desk d = x ∧ OtherDesksSame s t d := by
  have desk : ∀ e, t.desk e = (s.setDesk d x).desk e := fun e => by rw [State.desk, State.desk, h]
  exact ⟨by rw [desk, setDesk_desk], fun e he => by rw [desk, setDesk_desk_ne _ _ he]⟩

/-! ## LOGIN -/

/-- The session a LOGIN at a desk opens (R120). -/
theorem newSession_heardAt (s : State) (d : Desk) (c : Credential) :
    (heardAt s (deskPort d)).newSession d c =
      { presence := .active, badge := c.badge, role := c.role, loginMill := s.mill, lastInteraction := s.elapsed
        idleExpiry := after s.elapsed (10 * s.portCfg[d].idleLimit)
        absentExpiry := after s.elapsed (10 * s.portCfg[d].absentLimit) } := by
  have hc := heardAt_desk_changes s d
  simp only [State.newSession, State.touched, hc.mill, hc.elapsed, hc.portCfg]

theorem loginRule_taken {s : State} {d : Desk} {b3 b2 b1 b0 c1 c0 : Byte} {c : Credential}
    (free : (s.desk d).session = none) (unlocked : (s.desk d).lockout = none)
    (known : s.credential (read32 b3 b2 b1 b0) = some c) (badge : c.badge = read32 b3 b2 b1 b0)
    (check : c.check = read16 c1 c0) (apart : s.sessionOf c.badge = none)
    (supervises : d = supervisor → s.roles[c.role].holds .supervise = true) :
    loginRule d [b3, b2, b1, b0, c1, c0] s = loginTaken s d c := by
  have admitted : ¬ (d = supervisor ∧ s.roles[c.role].holds .supervise = false) := fun h =>
    absurd ((supervises h.1).symm.trans h.2) (by decide)
  rw [badge] at apart
  simp only [loginRule, free, unlocked, known, check, apart, ne_eq, not_true_eq_false, if_false,
    Option.isSome_none, Bool.false_eq_true, admitted]

/-- The state once the session of a LOGIN stands, before it is handed on. -/
def loggedIn (s : State) (d : Desk) (c : Credential) : State :=
  s.setDesk d { s.desk d with session := some (s.newSession d c), failures := [] }

theorem loginTaken_of (s : State) (d : Desk) (c : Credential) : loginTaken s d c =
    (sessionChanged (loggedIn s d c) d c.badge none (some .active) .login,
      done [] ([byte c.role, s.roles[c.role].rights] ++ s.roles[c.role].perms.toList ++
        be16 (s.ownedBy d c.badge))) := rfl

/-- Settles O26: the session is opened at the desk, and its handing on touches neither desks nor owners. -/
theorem loginOpensSession : Obligations.LoginOpensSession := by
  intro d tag b3 b2 b1 b0 c1 c0 c s taking free unlocked known badge check apart supervises
  have hc := heardAt_desk_changes s d
  have desk := heardAt_desk_session s d d
  have owners := heardAt_desk_ownersSame s d
  have rule := (loginRule_taken (s := heardAt s (deskPort d)) (d := d) (desk ▸ free) (desk ▸ unlocked)
    ((credential_congr hc.creds _).trans known) badge check ((sessionOf_congr hc.desks _).trans apart)
    (fun h => by rw [hc.roles]; exact supervises h)).trans (loginTaken_of _ d c)
  have written : OnlyChanges [.desks] (heardAt s (deskPort d)) (loggedIn (heardAt s (deskPort d)) d c) :=
    setDesk_changes _ _ _
  obtain ⟨handed, same⟩ := sessionChanged_present (loggedIn (heardAt s (deskPort d)) d c) d c.badge none
    (y := .active) .login (by decide)
  obtain ⟨t, ht, replied, changes, answered⟩ := request_done taking .login tag (by simp [maxBody]) false
    loginRule rule (T := [.desks, .map, .queues, .journal])
    ((written.mono (by decide)).trans (handed.mono (by decide))) (handed.ports.trans written.ports)
  obtain ⟨here, others⟩ := setDesk_others (t := t) (answered.desks.trans handed.desks)
  refine ⟨t, ht, ?_, fun e he => (others e he).trans (heardAt_desk_session s d e), ?_, ?_, ?_, changes⟩
  · rw [here, newSession_heardAt, desk]
    simp only [unlocked]
  · exact (owners.trans (.of_map written.map)).trans (same.trans (.of_map answered.map))
  · exact answered.lastEntry (sessionChanged_last d c.badge none (some .active) .login
      (written.dev.trans (hc.dev.trans taking.running)))
  · rw [ownedBy_congr owners, hc.roles] at replied
    exact replied

/-- The failures of a desk within 300 s and this one (R121). -/
def recentFailures (s : State) (d : Desk) : List Time :=
  (s.desk d).failures.filter (fun t => age s.elapsed t < 3000) ++ [s.elapsed]

theorem loginRule_failed {s : State} {d : Desk} {b3 b2 b1 b0 c1 c0 : Byte}
    (free : (s.desk d).session = none) (unlocked : (s.desk d).lockout = none)
    (wrong : ∀ c, s.credential (read32 b3 b2 b1 b0) = some c → c.check ≠ read16 c1 c0) :
    loginRule d [b3, b2, b1, b0, c1, c0] s = loginFailure s d (read32 b3 b2 b1 b0) := by
  simp only [loginRule, free, unlocked]
  cases h : s.credential (read32 b3 b2 b1 b0) with
  | none => rfl
  | some c => simp only [wrong c h, ne_eq, not_false_eq_true, if_true]

/-- The desk after a failure (R121). -/
def failedDesk (s : State) (d : Desk) : DeskState :=
  { s.desk d with
    failures := recentFailures s d
    lockout := if decide (3 ≤ (recentFailures s d).length) then some (after s.elapsed 1200) else none }

/-- The state once a failure is recorded and journaled. -/
def failureEntered (s : State) (d : Desk) (b : Badge) : State :=
  (s.setDesk d (failedDesk s d)).enter .loginFailed
    { port := some (deskPort d), badge := some b, detail := detail4 (byte (recentFailures s d).length) 0 0 0 }

theorem loginFailure_of (s : State) (d : Desk) (b : Badge) : loginFailure s d b =
    (if decide (3 ≤ (recentFailures s d).length) then
      lockoutNotice ((failureEntered s d b).enter .lockout { port := some (deskPort d) }) d
        (s.millOf (after s.elapsed 1200))
      else failureEntered s d b,
      { status := .badCredential, inds := [decide (3 ≤ (recentFailures s d).length)], reason := none
        detail := num16 (recentFailures s d).length }) := rfl

theorem recentFailures_heardAt (s : State) (d : Desk) :
    recentFailures (heardAt s (deskPort d)) d = recentFailures s d := by
  rw [recentFailures, heardAt_desk_session, (heardAt_desk_changes s d).elapsed]
  rfl

theorem login_fails (d : Desk) (tag : Byte) (b3 b2 b1 b0 c1 c0 : Byte) (s : State) (taking : Taking s d)
    (free : (s.desk d).session = none) (unlocked : (s.desk d).lockout = none)
    (wrong : ∀ c, s.credential (read32 b3 b2 b1 b0) = some c → c.check ≠ read16 c1 c0) :
    ∃ t, exec (.login (deskPort d) tag [b3, b2, b1, b0, c1, c0]) s = .next t ∧
      (let h := heardAt s (deskPort d)
       let failures := (s.desk d).failures.filter (fun f => age s.elapsed f < 3000) ++ [s.elapsed]
       let locks := decide (3 ≤ failures.length)
       t.desk d =
         { session := none, failures := failures
           lockout := if locks then some (after s.elapsed 1200) else none } ∧
       OtherDesksSame s t d ∧
       (locks = false →
         LastEntry t .loginFailed
           { port := some (deskPort d), badge := some (read32 b3 b2 b1 b0)
             detail := detail4 (byte failures.length) 0 0 0 } ∧ t.queues = h.queues) ∧
       (locks = true → LastEntry t .lockout { port := some (deskPort d) } ∧
         t.queues = (lockoutNotice h d (after s.elapsed 1200 + s.offset)).queues) ∧
       Replied h t (deskPort d) .login tag
         { status := .badCredential, inds := [locks], reason := none
           detail := num16 failures.length } ∧
       OnlyChanges (answering ++ [.desks, .queues, .journal]) h t) := by
  have hc := heardAt_desk_changes s d
  have desk := heardAt_desk_session s d d
  have rule := loginRule_failed (s := heardAt s (deskPort d)) (d := d) (desk ▸ free) (desk ▸ unlocked)
    (fun c h => wrong c ((credential_congr hc.creds _).symm.trans h))
  have running : (heardAt s (deskPort d)).dev = .running := hc.dev.trans taking.running
  have recent := recentFailures_heardAt s d
  have failed : failedDesk (heardAt s (deskPort d)) d =
      { session := none
        failures := recentFailures s d
        lockout := if decide (3 ≤ (recentFailures s d).length) then some (after s.elapsed 1200) else none } := by
    rw [failedDesk, recent, desk, hc.elapsed]
    simp only [free]
  have outcome := rule.trans (loginFailure_of (heardAt s (deskPort d)) d (read32 b3 b2 b1 b0))
  rw [recent] at outcome
  have entered : OnlyChanges [.desks, .journal] (heardAt s (deskPort d))
      (failureEntered (heardAt s (deskPort d)) d (read32 b3 b2 b1 b0)) :=
    ((setDesk_changes _ _ _).mono (by decide)).trans ((enter_changes _ _ _).mono (by decide))
  have last := enter_last ((heardAt s (deskPort d)).setDesk d (failedDesk (heardAt s (deskPort d)) d)) .loginFailed
    { port := some (deskPort d), badge := some (read32 b3 b2 b1 b0)
      detail := detail4 (byte (recentFailures (heardAt s (deskPort d)) d).length) 0 0 0 } running
  rw [recent] at last
  dsimp only
  rw [show (s.desk d).failures.filter (fun f => age s.elapsed f < 3000) ++ [s.elapsed] = recentFailures s d from rfl]
  cases locks : decide (3 ≤ (recentFailures s d).length)
  · rw [locks, if_neg (by decide)] at outcome
    obtain ⟨t, ht, replied, changes, answered⟩ := request_done taking .login tag (by simp [maxBody]) false loginRule
      outcome (T := [.desks, .queues, .journal]) (entered.mono (by decide)) entered.ports
    obtain ⟨here, others⟩ := setDesk_others (t := t) answered.desks
    refine ⟨t, ht, ?_, fun e he => (others e he).trans (heardAt_desk_session s d e),
      fun _ => ⟨answered.lastEntry ?_, answered.queues.trans entered.queues⟩, fun h => absurd h (by decide), replied, changes⟩
    · rw [here, failed, locks]
    · rw [failureEntered, recent]
      exact last
  · rw [locks, if_pos rfl] at outcome
    have made : OnlyChanges [.desks, .queues, .journal] (heardAt s (deskPort d)) _ := (entered.mono (by decide)).trans ((((enter_changes (failureEntered (heardAt s (deskPort d)) d (read32 b3 b2 b1 b0))
      .lockout { port := some (deskPort d) }).mono (by decide)).trans ((lockoutNotice_changes _ d
        ((heardAt s (deskPort d)).millOf (after (heardAt s (deskPort d)).elapsed 1200))).mono (by decide))))
    obtain ⟨t, ht, replied, changes, answered⟩ := request_done taking .login tag (by simp [maxBody]) false loginRule
      outcome made made.ports
    obtain ⟨here, others⟩ := setDesk_others (t := t) answered.desks
    refine ⟨t, ht, ?_, fun e he => (others e he).trans (heardAt_desk_session s d e), fun h => absurd h (by decide),
      fun _ => ⟨?_, ?_⟩, replied, changes⟩
    · rw [here, failed, locks]
    · have locked := enter_last (failureEntered (heardAt s (deskPort d)) d (read32 b3 b2 b1 b0)) .lockout
        { port := some (deskPort d) } (entered.dev.trans running)
      exact answered.lastEntry ((lockoutNotice_changes _ _ _).lastEntry locked)
    · have noted := entered.trans ((enter_changes (failureEntered (heardAt s (deskPort d)) d (read32 b3 b2 b1 b0))
        .lockout { port := some (deskPort d) }).mono (by decide))
      rw [answered.queues, lockoutNotice, State.millOf, hc.elapsed, hc.offset]
      exact deliver_queues_congr _ _ noted.dev noted.portCfg noted.ports noted.queues

/-- Settles O27: a failure is recorded at the desk, and the third makes the lockout. -/
theorem loginFailuresLockPort : Obligations.LoginFailuresLockPort := by
  refine ⟨login_fails, fun d tag b3 b2 b1 b0 c1 c0 e s taking free locked => ?_⟩
  have desk := heardAt_desk_session s d d
  have rule : loginRule d [b3, b2, b1, b0, c1, c0] (heardAt s (deskPort d)) = (heardAt s (deskPort d),
      { refuse .lockedOut with detail := num32 ((remaining s.elapsed e + 9) / 10) }) := by
    simp only [loginRule, desk, free, locked, (heardAt_desk_changes s d).elapsed]
  obtain ⟨t, ht, replied, changes, _⟩ := request_done taking .login tag (by simp [maxBody]) false loginRule rule
    (OnlyChanges.refl (T := []) _) rfl
  exact ⟨t, ht, replied, changes.mono (by simp)⟩

/-! ## LOGOUT and END SESSION -/

/-- A session that no record names as a party tells the handover unit nothing. -/
theorem sessionTold_apart {s : State} {d : Desk} {b : Badge} (h : s.inHandover d b = false)
    (x : Option Presence) : sessionTold s d b x = s := by
  have apart : ∀ i r, s.record i = some r → ¬ ((isParty d (some r.outgoing) && r.outgoing.badge == b) ||
      (isParty d r.incoming && r.incoming.any (·.badge == b))) = true := by
    intro i r hr named
    rw [State.inHandover, Bool.eq_false_iff] at h
    exact h (liveRecords_any.2 ⟨i, r, hr, named⟩)
  unfold sessionTold
  suffices still : ∀ l : List RecordIdx, l.foldl (fun t i => match t.record i with
      | some r =>
        if x.isNone && isParty d r.incoming && r.incoming.any (·.badge == b) then
          endRecord t i r .revoked (some (deskPort d)) (some b)
        else if (x.isNone || x == some .absent) && isParty d (some r.outgoing) &&
            r.outgoing.badge == b && !r.outgoingLost then
          changeCauses t i { r with outgoingLost := true }
        else t
      | none => t) s = s from still _
  intro l
  induction l with
  | nil => rfl
  | cons i rest ih =>
    rw [List.foldl_cons]
    cases hr : s.record i with
    | none => exact ih
    | some r =>
      have := apart i r hr
      simp only [Bool.or_eq_true, Bool.and_eq_true, not_or] at this
      dsimp only
      rw [if_neg (by simp only [Bool.and_eq_true]; tauto), if_neg (by simp only [Bool.and_eq_true]; tauto)]
      exact ih

theorem endSession_of {s : State} {d : Desk} {x : Session} (h : (s.desk d).session = some x) (c : Cause) :
    endSession s d c = sessionChanged (s.setDesk d { s.desk d with session := none }) d x.badge (some x.presence)
      none c := by
  simp only [endSession, h]

/-- What the end of a session leaves at the desks. -/
theorem endSession_desks {s : State} {d : Desk} {x : Session} (h : (s.desk d).session = some x) (c : Cause) :
    (endSession s d c).desk d = { s.desk d with session := none } ∧ OtherDesksSame s (endSession s d c) d := by
  rw [endSession_of h]
  exact setDesk_others (sessionChanged_changes _ _ _ _ _ _).desks

theorem endSession_last {s : State} {d : Desk} {x : Session} (h : (s.desk d).session = some x) (c : Cause)
    (running : s.dev = .running) : LastEntry (endSession s d c) c.journalKind
      { port := some (deskPort d), badge := some x.badge
        detail := detail4 (presenceCode (some x.presence)) 0#8 c.code 0 } := by
  rw [endSession_of h]
  exact sessionChanged_last d x.badge (some x.presence) none c running

/-- The end of a session that no record names changes no record, owner or link. -/
theorem endSession_apart {s : State} {d : Desk} {x : Session} (h : (s.desk d).session = some x) (c : Cause)
    (apart : s.inHandover d x.badge = false) :
    OnlyChanges [.desks, .map, .queues, .journal] s (endSession s d c) ∧ OwnersSame s (endSession s d c) := by
  rw [endSession_of h]
  unfold sessionChanged
  generalize hu : s.setDesk d { s.desk d with session := none } = u
  have written : OnlyChanges [.desks] s u := hu ▸ setDesk_changes _ _ _
  have derived := rederive_changes u c 0 u
  have unnamed : (rederive u c 0 u).inHandover d x.badge = false := by
    rw [State.inHandover, State.liveRecords, derived.records, written.records]
    exact apart
  dsimp only
  rw [sessionTold_apart unnamed]
  have told : OnlyChanges [.queues, .journal] (rederive u c 0 u)
      ((sessionNotice (rederive u c 0 u) d x.badge none c).enter c.journalKind
        { port := some (deskPort d), badge := some x.badge
          detail := detail4 (presenceCode (some x.presence)) (presenceCode none) c.code 0 }) :=
    ((sessionNotice_changes _ _ _ _ _).mono (by decide)).trans ((enter_changes _ _ _).mono (by decide))
  exact ⟨(written.mono (by decide)).trans ((derived.mono (by decide)).trans (told.mono (by decide))),
    (OwnersSame.of_map written.map).trans ((rederive_ownersSame u c 0 u).trans (.of_map told.map))⟩

/-- The session of the desk once its interaction is recorded. -/
theorem actingAt_session {s : State} {d : Desk} {x : Session} (h : (s.desk d).session = some x) :
    ((actingAt s d).desk d).session = some (s.touched d x) := by
  have hx : ((heardAt s (deskPort d)).desk d).session = some x := by rw [heardAt_desk_session, h]
  rw [actingAt, State.desk, interact_desks hx, touched_heardAt]
  simp

/-- An interaction at one desk leaves the others. -/
theorem actingAt_others (s : State) (d : Desk) : OtherDesksSame s (actingAt s d) d := by
  intro e he
  cases h : ((heardAt s (deskPort d)).desk d).session with
  | none =>
    have : actingAt s d = heardAt s (deskPort d) := by simp only [actingAt, interact, h]
    rw [this, heardAt_desk_session]
  | some x =>
    have := interact_desks h
    have ne : d.val ≠ e.val := fun k => he (Fin.ext k.symm)
    rw [actingAt, State.desk, this, ← heardAt_desk_session s d e]
    simp [State.desk, ne]

theorem actingAt_running {s : State} {d : Desk} (h : s.dev = .running) : (actingAt s d).dev = .running :=
  (actingAt_desk_changes s d).dev.trans h

theorem logoutRule_taken {s : State} {d : Desk} {x : Session} (h : (s.desk d).session = some x)
    (unowned : (actingAt s d).ownedBy d x.badge = 0#16) (apart : (actingAt s d).inHandover d x.badge = false) :
    logoutRule d [] (heardAt s (deskPort d)) = (endSession (actingAt s d) d .logout, done [] []) := by
  have badge : (s.touched d x).badge = x.badge := rfl
  simp only [logoutRule, withSession_acting h, badge, unowned, apart, ne_eq, not_true_eq_false, if_false,
    Bool.false_eq_true]

theorem consoleDesk_supervises {s : State} {x : Session} {r : Right} (h : Supervisor s x r) :
    (actingAt s supervisor).supervises supervisor (s.touched supervisor x) r = true := by
  have roles := (actingAt_desk_changes s supervisor).roles
  have := h.right
  simp only [State.supervises, State.roleOf, roles, beq_self_eq_true, Bool.true_and]
  exact this

/-- Settles O28: LOGOUT ends a session that no record names, END SESSION that of a console. -/
theorem logoutAndEndSessionEndIt : Obligations.LogoutAndEndSessionEndIt := by
  refine ⟨fun d tag x s op unowned apart => ?_, fun c b tag x y s sup hc hy => ?_⟩
  · have session := actingAt_session op.session
    have running := actingAt_running (d := d) op.taking.running
    obtain ⟨changed, owners⟩ := endSession_apart session .logout apart
    obtain ⟨here, others⟩ := endSession_desks session .logout
    have last := endSession_last session .logout running
    obtain ⟨t, ht, replied, changes, answered⟩ := request_done op.taking .logout tag (by simp [maxBody]) false
      logoutRule (logoutRule_taken op.session unowned apart) changed changed.ports
    exact ⟨t, ht, (answered.at_desk d).trans here, otherDesksSame_of_desks others answered.desks,
      owners.trans (.of_map answered.map), answered.lastEntry last, replied, changes⟩
  · have apart := consoleDesk_ne_supervisor c
    have session : ((actingAt s supervisor).desk (consoleDesk c)).session = some y := by
      rw [actingAt_others s supervisor _ apart, hy]
    have running := actingAt_running (d := supervisor) sup.operator.taking.running
    have rule : endSessionRule supervisor [b] (heardAt s (deskPort supervisor)) =
        (endSession (actingAt s supervisor) (consoleDesk c) .endedBySupervisor, done [] (b :: be32 y.badge)) := by
      simp only [endSessionRule, withSession_acting sup.operator.session, consoleDesk_supervises sup, hc, session,
        Bool.not_true, Bool.false_eq_true, if_false]
    have changed := endSession_changes (actingAt s supervisor) (consoleDesk c) .endedBySupervisor
    obtain ⟨here, others⟩ := endSession_desks session .endedBySupervisor
    have last := endSession_last session .endedBySupervisor running
    obtain ⟨t, ht, replied, changes, answered⟩ := request_done sup.operator.taking .endSession tag (by simp [maxBody])
      false endSessionRule rule changed changed.ports
    exact ⟨t, ht, (answered.at_desk _).trans here, otherDesksSame_of_desks others answered.desks, answered.lastEntry last, replied,
      changes⟩

end Sys2Proof.Proofs
end

/-! PROOFS. The requests that only answer, and the expiries of sessions, lockouts and credentials
(spec/07). -/

section
namespace Sys2Proof.Proofs

open Machine

/-! ## What an interaction leaves of what the checks read -/

theorem actingAt_owners (s : State) (d : Desk) : OwnersSame s (actingAt s d) := (actingAt_present s d).2

theorem actingAt_roleOf (s : State) (d : Desk) (x : Session) :
    (actingAt s d).roleOf (s.touched d x) = s.roleOf x := by
  simp only [State.roleOf, State.touched, (actingAt_desk_changes s d).roles]

theorem actingAt_reaches (s : State) (d e : Desk) (a : Area) : (actingAt s d).reaches e a = s.reaches e a := by
  simp only [State.reaches, (actingAt_desk_changes s d).reach]

theorem actingAt_owner (s : State) (d : Desk) (a : Area) : (actingAt s d).owner a = s.owner a :=
  (actingAt_owners s d).owner a

theorem heardAt_desk_definedArea (s : State) (d : Desk) (b : Byte) :
    (heardAt s (deskPort d)).definedArea b = s.definedArea b := by
  simp only [State.definedArea, (heardAt_desk_ownersSame s d).defined]

theorem heardAt_desk_allDefined (s : State) (d : Desk) (set : Word16) :
    (heardAt s (deskPort d)).allDefined set = s.allDefined set := by
  simp only [State.allDefined, (heardAt_desk_ownersSame s d).defined]

/-- A request whose rule answers from the state of its interaction changes only the answer slot. -/
theorem request_answered {s : State} {d : Desk} {x : Session} {r : Reply} {body : Body} (op : Operator s d x)
    (k : Kind) (tag : Byte) (hb : body.length ≤ maxBody) (conf : Bool) (rule : DeskRule)
    (hr : rule d body (heardAt s (deskPort d)) = (actingAt s d, r)) :
    ∃ t, runRequest (deskPort d) k tag body (.desk conf rule) s = .next t ∧
      Replied (actingAt s d) t (deskPort d) k tag r ∧ OnlyChanges answering (actingAt s d) t := by
  obtain ⟨t, ht, replied, changes, _⟩ := request_done op.taking k tag hb conf rule hr
    (OnlyChanges.refl (T := []) _) rfl
  exact ⟨t, ht, replied, changes.mono (by simp)⟩

/-- The record that a reference names (R142). -/
theorem referred_of {s : State} {i : RecordIdx} {r : Record} {n : Word16} (h : s.record i = some r)
    (hn : r.number = n) : s.referred i n = some r := by
  simp only [State.referred, h, Option.bind_some, hn, if_true]

/-- A rule on a record, at a desk with a session, where the reference names a live record. -/
theorem onRecord_acting {s : State} {d : Desk} {x : Session} {b : Byte} {n : Word16} {i : RecordIdx} {r : Record}
    (h : (s.desk d).session = some x) (hi : recordOf b = some i) (hr : (actingAt s d).record i = some r)
    (hn : r.number = n) (k : State → Session → RecordIdx → Record → State × Reply) :
    onRecord (heardAt s (deskPort d)) d b n k = k (actingAt s d) (s.touched d x) i r := by
  simp only [onRecord, hi, withSession_acting h, referred_of hr hn]

/-! ## PRESENT, QUERY LIST, QUERY ITEMS, HEARTBEAT -/

theorem present_answers (d : Desk) (tag : Byte) (x : Session) (s : State) (op : Operator s d x) :
    ∃ t, exec (.present (deskPort d) tag []) s = .next t ∧
      Replied (actingAt s d) t (deskPort d) .present tag (done [] (1#8 :: be32 x.loginMill)) ∧
      OnlyChanges answering (actingAt s d) t :=
  request_answered op .present tag (by simp [maxBody]) false presentRule (by
    simp only [presentRule, withSession_acting op.session]
    rfl)

theorem queryList_answers (d : Desk) (b f1 f0 tag : Byte) (a : Area) (x : Session) (s : State)
    (op : Operator s d x) (ha : s.definedArea b = some a) (first : (read16 f1 f0).toNat < 2048)
    (permitted : (s.roleOf x).permits .view a = true) (reaches : (s.reaches d a || isParty d (s.owner a)) = true) :
    ∃ t, exec (.queryList (deskPort d) tag [b, f1, f0]) s = .next t ∧
      (let found := (s.points.filter (fun e => e.2.cfg.area == a && e.2.listable)).filter
        (fun e => (read16 f1 f0).toNat ≤ e.1)
       let listed := found.take 8
       let next := if found.length ≤ 8 then none else listed.getLast?.map (fun e => e.1 + 1)
       Replied (actingAt s d) t (deskPort d) .queryList tag
         (done [] (byte listed.length ::
           (listed.flatMap (fun e => (e.2.listedBody e.1).bytes) ++ pointField next)))) ∧
      OnlyChanges answering (actingAt s d) t := by
  refine request_answered op .queryList tag (by simp [maxBody]) false queryListRule ?_
  simp only [queryListRule, heardAt_desk_definedArea, ha, Nat.not_le.2 first, if_false, withSession_acting op.session,
    actingAt_roleOf, permitted, actingAt_reaches, actingAt_owner, reaches, Bool.not_true, Bool.false_eq_true,
    State.listablePoints, (actingAt_desk_changes s d).points, queryListMax]

theorem queryItems_answers (d : Desk) (b n1 n0 f tag : Byte) (i : RecordIdx) (r : Record) (x : Session) (s : State)
    (op : Operator s d x) (hi : recordOf b = some i) (hr : (actingAt s d).record i = some r)
    (number : r.number = read16 n1 n0) (named : (r.names d || d == supervisor) = true) :
    ∃ t, exec (.queryItems (deskPort d) tag [b, n1, n0, f]) s = .next t ∧
      (let shown := (r.items.drop f.toNat).take 8
       Replied (actingAt s d) t (deskPort d) .queryItems tag
        (done [r.coSigned.isSome, r.incomplete]
          ([handoverCode (some r.state), causesByte r.flood r.outgoingLost] ++
            num16 r.items.length ++ num16 (r.items.filter (·.status == .isOpen)).length ++
            num32 ((actingAt s d).overlap r / 10) ++ [byte shown.length] ++ itemsBytes f.toNat shown ++
            [byte (f.toNat + shown.length)]))) ∧
      OnlyChanges answering (actingAt s d) t := by
  refine request_answered op .queryItems tag (by simp [maxBody]) false queryItemsRule ?_
  simp only [queryItemsRule, onRecord_acting op.session hi hr number, named, Bool.not_true, Bool.false_eq_true,
    if_false, queryItemsMax, Record.openItems]

theorem deaf_of_sound {s : State} {g : Gateway} (h : (s.gateway g).health ≠ .failed) :
    s.deaf (gatewayPort g) = false := by
  rw [deaf_gateway]
  simpa using h

theorem heartbeat_answers (g : Gateway) (tag : Byte) (s : State)
    (sound : ((heardAt s (gatewayPort g)).gateway g).health ≠ .failed)
    (slot : ((heardAt s (gatewayPort g)).port (gatewayPort g)).slot = none) :
    ∃ t, exec (.heartbeat (gatewayPort g) tag []) s = .next t ∧
      Replied (heardAt s (gatewayPort g)) t (gatewayPort g) .heartbeat tag
        (done [((heardAt s (gatewayPort g)).gateway g).refresh]
          [((heardAt s (gatewayPort g)).gateway g).role.code, ((heardAt s (gatewayPort g)).gateway g).health.code]) ∧
      OnlyChanges answering (heardAt s (gatewayPort g)) t := by
  have answers : dispatch (some (.gateway heartbeatRule)) (gatewayPort g) [] (heardAt s (gatewayPort g)) =
      (heardAt s (gatewayPort g), done [((heardAt s (gatewayPort g)).gateway g).refresh]
        [((heardAt s (gatewayPort g)).gateway g).role.code, ((heardAt s (gatewayPort g)).gateway g).health.code]) := by
    unfold dispatch
    rw [splitPort_gatewayPort]
    rfl
  refine ⟨_, runRequest_sound (req := .gateway heartbeatRule) (by simp [maxBody]), ?_, ?_⟩ <;>
    rw [soundFrame_taken (deaf_of_sound sound) slot, answers]
  · rfl
  · exact answer_changes _ _ _

/-- Settles O29: each of the four rules answers from the state it is given. -/
theorem queriesOnlyAnswer : Obligations.QueriesOnlyAnswer :=
  ⟨present_answers, queryList_answers, queryItems_answers, heartbeat_answers⟩

/-! ## Expiries -/

/-- Settles O33: the lockout's expiry rewrites one desk. -/
theorem lockoutExpires : Obligations.LockoutExpires := by
  intro d e s locked due
  refine ⟨_, rfl, ?_⟩
  have expired : lockoutExpired s d = s.setDesk d { s.desk d with failures := [], lockout := none } := by
    simp only [lockoutExpired, locked, reachedOpt, due, if_true]
  have changes := (settle_changes (lockoutExpired s d))
  rw [expired] at changes ⊢
  obtain ⟨here, others⟩ := setDesk_others (t := settle (s.setDesk d { s.desk d with failures := [], lockout := none }))
    changes.desks
  exact ⟨here, others, changes.journal, ((setDesk_changes _ _ _).mono (by decide)).trans (changes.mono (by decide))⟩

end Sys2Proof.Proofs
end

/-! PROOFS. GRANT, REVOKE, the expiry of a credential and the fading of a session (spec/07). -/

section
namespace Sys2Proof.Proofs

open Machine

/-! ## GRANT -/

/-- A way that holds another badge or none, before and after it is written, does not bear on a badge. -/
theorem credential_setWay {s : State} {row : Fin 64} {way : Fin 4} {x : Option Credential} {b : Badge}
    (old : (s.creds[row][way]).any (·.badge == b) = false) (new : x.any (·.badge == b) = false) :
    ({ s with creds := setWay s.creds row way x } : State).credential b = s.credential b := by
  have holds : ∀ v : Fin 4, ((setWay s.creds row way x)[rowOf b][v]).any (·.badge == b) =
      (s.creds[rowOf b][v]).any (·.badge == b) := by
    intro v
    rw [setWay_get]
    split
    · rename_i here
      obtain ⟨rfl, rfl⟩ := here
      exact new.trans old.symm
    · rfl
  have ways : wayOf (setWay s.creds row way x)[rowOf b] b = wayOf s.creds[rowOf b] b := by
    simp only [wayOf, holds]
  unfold State.credential
  dsimp only
  rw [ways]
  cases hw : wayOf s.creds[rowOf b] b with
  | none => rfl
  | some v =>
    obtain ⟨c, hc, hb⟩ := wayOf_holds hw
    have apart : ¬ (rowOf b = row ∧ v = way) := by
      rintro ⟨rfl, rfl⟩
      have held : (s.creds[rowOf b][v]).any (·.badge == b) = true := by
        rw [hc, Option.any_some, hb, beq_self_eq_true]
      exact absurd (held.symm.trans old) (by decide)
    simp only [Option.bind_some, setWay_get, apart, if_false]

theorem roleIdx_byte {r : Byte} {role : Fin 8} (h : roleIdx r = some role) : byte role = r := by
  unfold roleIdx at h
  split at h
  · obtain rfl := Option.some.inj h
    simp [byte]
  · cases h

/-- The credential a GRANT writes (R116). -/
def grantedEntry (s : State) (issuer badge : Badge) (check : Word16) (role : Fin 8) (life : Nat) : Credential :=
  { badge := badge, check := check, role := role, temporary := some (after s.elapsed (10 * life), issuer) }

theorem grantTaken_of (s : State) (d : Desk) (issuer badge : Badge) (check : Word16) (role : Fin 8)
    (asked : Nat) (way : Fin 4) (replaced : Bool) :
    grantTaken s d issuer badge check role asked way replaced =
      (({ s with
          creds := setWay s.creds (rowOf badge) way
            (some (grantedEntry s issuer badge check role (max 60 (min 86400 asked)))) } : State).enter .grant
        { port := some (deskPort d), badge := some badge
          detail := detailFlag (byte role) replaced ((max 60 (min 86400 asked) + 59) / 60) },
      done [max 60 (min 86400 asked) != asked, replaced]
        (be32 badge ++ [byte (rowOf badge)] ++ num32 (max 60 (min 86400 asked)) ++
          be32 (s.millOf (after s.elapsed (10 * max 60 (min 86400 asked)))))) := rfl

theorem setCreds_changes (s : State) (creds : Vector CredRow 64) :
    OnlyChanges [.creds] s { s with creds := creds } := by
  intro f hf
  cases f <;> first | rfl | simp at hf

/-- A GRANT past its checks goes to the ways of its row. -/
theorem grantRule_checked {s : State} {d : Desk} {x : Session} {b3 b2 b1 b0 c1 c0 r l3 l2 l1 l0 : Byte}
    {role : Fin 8} (hx : (s.desk d).session = some x) (hr : roleIdx r = some role)
    (named : read32 b3 b2 b1 b0 ≠ 0#32) (grants : (s.roleOf x).holds .grant = true)
    (rights : s.roles[role].rights &&& ~~~(s.roleOf x).rights = 0#8)
    (temporary : ∀ c, s.credential (read32 b3 b2 b1 b0) = some c → c.temporary.isSome = true)
    (apart : (actingAt s d).sessionOf (read32 b3 b2 b1 b0) = none) :
    grantRule d [b3, b2, b1, b0, c1, c0, r, l3, l2, l1, l0] (heardAt s (deskPort d)) =
      match wayOf s.creds[rowOf (read32 b3 b2 b1 b0)] (read32 b3 b2 b1 b0),
        freeWay s.creds[rowOf (read32 b3 b2 b1 b0)] with
      | some w, _ => grantTaken (actingAt s d) d x.badge (read32 b3 b2 b1 b0) (read16 c1 c0) role
          (read32 l3 l2 l1 l0).toNat w true
      | none, some w => grantTaken (actingAt s d) d x.badge (read32 b3 b2 b1 b0) (read16 c1 c0) role
          (read32 l3 l2 l1 l0).toNat w false
      | none, none => (actingAt s d, refuse .rowFull) := by
  have hc := actingAt_desk_changes s d
  have replaceable : (((actingAt s d).credential (read32 b3 b2 b1 b0)).any (·.temporary.isNone) ||
      ((actingAt s d).sessionOf (read32 b3 b2 b1 b0)).isSome) = false := by
    rw [credential_congr hc.creds, apart]
    cases h : s.credential (read32 b3 b2 b1 b0) with
    | none => rfl
    | some c =>
      obtain ⟨e, he⟩ := Option.isSome_iff_exists.1 (temporary c h)
      simp [he]
  have badge : (s.touched d x).badge = x.badge := rfl
  simp only [grantRule, hr, named, if_false, withSession_acting hx, actingAt_roleOf, grants, Bool.not_true,
    Bool.false_eq_true, hc.roles, rights, ne_eq, not_true_eq_false, replaceable, hc.creds, badge] <;> rfl

/-- What a GRANT leaves, written in a way that holds its badge or none. -/
theorem grant_writes {s : State} {d : Desk} {x : Session} {b3 b2 b1 b0 c1 c0 r l3 l2 l1 l0 tag : Byte}
    {role : Fin 8} {w : Fin 4} {replaced : Bool} (op : Operator s d x) (hr : roleIdx r = some role)
    (here : ∀ c, s.creds[rowOf (read32 b3 b2 b1 b0)][w] = some c → c.badge = read32 b3 b2 b1 b0)
    (rule : grantRule d [b3, b2, b1, b0, c1, c0, r, l3, l2, l1, l0] (heardAt s (deskPort d)) =
      grantTaken (actingAt s d) d x.badge (read32 b3 b2 b1 b0) (read16 c1 c0) role (read32 l3 l2 l1 l0).toNat w
        replaced) :
    ∃ t, exec (.grant (deskPort d) tag [b3, b2, b1, b0, c1, c0, r, l3, l2, l1, l0]) s = .next t ∧
      t.creds = s.creds.set (rowOf (read32 b3 b2 b1 b0)) (s.creds[rowOf (read32 b3 b2 b1 b0)].set w
        (some (grantedEntry s x.badge (read32 b3 b2 b1 b0) (read16 c1 c0) role
          (max 60 (min 86400 (read32 l3 l2 l1 l0).toNat))))) ∧
      (∀ b, b ≠ read32 b3 b2 b1 b0 → t.credential b = s.credential b) ∧
      LastEntry t .grant
        { port := some (deskPort d), badge := some (read32 b3 b2 b1 b0)
          detail := detailFlag r replaced ((max 60 (min 86400 (read32 l3 l2 l1 l0).toNat) + 59) / 60) } ∧
      Replied (actingAt s d) t (deskPort d) .grant tag
        (done [max 60 (min 86400 (read32 l3 l2 l1 l0).toNat) != (read32 l3 l2 l1 l0).toNat, replaced]
          (be32 (read32 b3 b2 b1 b0) ++ [byte (rowOf (read32 b3 b2 b1 b0))] ++
            num32 (max 60 (min 86400 (read32 l3 l2 l1 l0).toNat)) ++
            be32 (after s.elapsed (10 * max 60 (min 86400 (read32 l3 l2 l1 l0).toNat)) + s.offset))) ∧
      OnlyChanges (answering ++ [.creds, .journal]) (actingAt s d) t := by
  have hc := actingAt_desk_changes s d
  have running := actingAt_running (d := d) op.taking.running
  have outcome := rule.trans (grantTaken_of _ _ _ _ _ _ _ _ _)
  have written := setCreds_changes (actingAt s d) (setWay (actingAt s d).creds (rowOf (read32 b3 b2 b1 b0)) w
    (some (grantedEntry (actingAt s d) x.badge (read32 b3 b2 b1 b0) (read16 c1 c0) role
      (max 60 (min 86400 (read32 l3 l2 l1 l0).toNat)))))
  have entered := (written.mono (U := [.creds, .journal]) (by decide)).trans
    ((enter_changes _ .grant
      { port := some (deskPort d), badge := some (read32 b3 b2 b1 b0)
        detail := detailFlag (byte role) replaced
          ((max 60 (min 86400 (read32 l3 l2 l1 l0).toNat) + 59) / 60) }).mono (by decide))
  obtain ⟨t, ht, replied, changes, answered⟩ := request_done op.taking .grant tag (by simp [maxBody]) false grantRule
    outcome entered entered.ports
  have creds : t.creds = setWay s.creds (rowOf (read32 b3 b2 b1 b0)) w
      (some (grantedEntry s x.badge (read32 b3 b2 b1 b0) (read16 c1 c0) role
        (max 60 (min 86400 (read32 l3 l2 l1 l0).toNat)))) := by
    rw [answered.creds, (enter_changes _ _ _).creds]
    simp only [hc.creds, grantedEntry, hc.elapsed]
  refine ⟨t, ht, creds, fun b hb => ?_, ?_, ?_, changes⟩
  · rw [← credential_setWay (s := s) (row := rowOf (read32 b3 b2 b1 b0)) (way := w) (b := b) ?_ ?_]
    · exact credential_congr creds b
    · rw [Option.any_eq_false]
      intro c hw
      rw [here c hw]
      exact beq_false_of_ne (Ne.symm hb)
    · exact beq_false_of_ne (Ne.symm hb)
  · rw [← roleIdx_byte hr]
    exact answered.lastEntry (enter_last _ _ _ (written.dev.trans running))
  · simp only [State.millOf, hc.elapsed, hc.offset] at replied
    exact replied

/-- Settles O30: a GRANT goes to the way that holds its badge, else to the lowest free one. -/
theorem grantWritesCredential : Obligations.GrantWritesCredential := by
  intro d b3 b2 b1 b0 c1 c0 r l3 l2 l1 l0 tag role x s op
  dsimp only
  intro hr named grants rights temporary apart
  have rule := grantRule_checked (c1 := c1) (c0 := c0) (l3 := l3) (l2 := l2) (l1 := l1) (l0 := l0) op.session hr named
    grants rights temporary apart
  refine ⟨fun w hw => ?_, fun w hw hf => ?_, fun hw hf => ?_⟩
  · rw [hw] at rule
    obtain ⟨c, hc, hb⟩ := wayOf_holds hw
    exact grant_writes op hr (fun c' h => by rw [hc] at h; exact Option.some.inj h ▸ hb) rule
  · rw [hw, hf] at rule
    exact grant_writes op hr (fun c' h => by rw [freeWay_free hf] at h; cases h) rule
  · rw [hw, hf] at rule
    exact request_answered op .grant tag (by simp [maxBody]) false grantRule rule

end Sys2Proof.Proofs
end

/-! PROOFS. REVOKE, the expiry of a credential, and what fades and touches a session (spec/07). -/

section
namespace Sys2Proof.Proofs

open Machine

/-! ## The removal of a credential (R117, R118) -/

/-- What the removal of a badge's credential leaves (R117, R118). -/
def CredentialRemoved (badge : Badge) (s t : State) : Prop :=
  (∃ w, wayOf s.creds[rowOf badge] badge = some w ∧
    t.creds = s.creds.set (rowOf badge) (s.creds[rowOf badge].set w none)) ∧
  (s.sessionOf badge = none → t.desks = s.desks ∧ t.records = s.records ∧ t.map = s.map ∧
    t.queues = s.queues) ∧
  (∀ e, s.sessionOf badge = some e →
    t.desk e = { s.desk e with session := none } ∧ OtherDesksSame s t e ∧
    (s.dev = .running → ∃ p, LastEntry t .sessionEnd
      { port := some (deskPort e), badge := some badge, detail := detail4 p 0#8 6#8 0#8 }))

theorem sessionOf_session {s : State} {b : Badge} {e : Desk} (h : s.sessionOf b = some e) :
    ∃ x, (s.desk e).session = some x ∧ x.badge = b := by
  have held := List.find?_some h
  obtain ⟨x, hx, hb⟩ := Option.any_eq_true _ _ |>.1 held
  exact ⟨x, hx, by simpa using hb⟩

theorem credential_way {s : State} {b : Badge} {c : Credential} (h : s.credential b = some c) :
    ∃ w, wayOf s.creds[rowOf b] b = some w := by
  cases hw : wayOf s.creds[rowOf b] b with
  | none => rw [State.credential, hw] at h; cases h
  | some w => exact ⟨w, rfl⟩

theorem removeCredential_of {s : State} {b : Badge} {w : Fin 4} (h : wayOf s.creds[rowOf b] b = some w) :
    removeCredential s b = { s with creds := setWay s.creds (rowOf b) w none } := by
  simp only [removeCredential, h]

/-- The removal is journaled, and then the session of the badge, if any, ends. -/
theorem removal {s : State} {b : Badge} {c : Credential} (h : s.credential b = some c) (k : JournalKind)
    (f : EntryFields) :
    CredentialRemoved b s (endRevoked ((removeCredential s b).enter k f) b) ∧
    (s.sessionOf b = none → s.dev = .running → LastEntry (endRevoked ((removeCredential s b).enter k f) b) k f) ∧
    OnlyChanges [.creds, .desks, .map, .records, .queues, .journal] s
      (endRevoked ((removeCredential s b).enter k f) b) := by
  obtain ⟨w, hw⟩ := credential_way h
  have removed := removeCredential_changes s b
  generalize hu : (removeCredential s b).enter k f = u
  have written : OnlyChanges [.creds, .journal] s u :=
    hu ▸ (removed.mono (by decide)).trans ((enter_changes _ k f).mono (by decide))
  have ended := endRevoked_changes u b
  have creds : u.creds = setWay s.creds (rowOf b) w none := by
    rw [← hu, (enter_changes _ _ _).creds, removeCredential_of hw]
  have held : u.sessionOf b = s.sessionOf b := sessionOf_congr written.desks b
  refine ⟨⟨⟨w, hw, ended.creds.trans creds⟩, fun none => ?_, fun e he => ?_⟩, fun none running => ?_,
    (written.mono (by decide)).trans (ended.mono (by decide))⟩
  · have idle : endRevoked u b = u := by simp only [endRevoked, held, none]
    rw [idle]
    exact ⟨written.desks, written.records, written.map, written.queues⟩
  · have ends : endRevoked u b = endSession u e .revoked := by simp only [endRevoked, held, he]
    obtain ⟨x, hx, hb⟩ := sessionOf_session he
    have here := written.at_desk e
    obtain ⟨gone, others⟩ := endSession_desks (s := u) (d := e) (here ▸ hx) .revoked
    rw [ends]
    exact ⟨gone.trans (by rw [here]), fun d hd => (others d hd).trans (written.at_desk d), fun running =>
      ⟨_, hb ▸ endSession_last (here ▸ hx) .revoked (written.dev.trans running)⟩⟩
  · have idle : endRevoked u b = u := by simp only [endRevoked, held, none]
    rw [idle, ← hu]
    exact enter_last _ k f (removed.dev.trans running)

/-- What a removal leaves is read from fields that an answer and the lines do not touch. -/
theorem CredentialRemoved.of_answering {b : Badge} {s t u : State} (h : CredentialRemoved b s t)
    (k : OnlyChanges answering t u) : CredentialRemoved b s u := by
  obtain ⟨⟨w, hw, creds⟩, apart, ended⟩ := h
  refine ⟨⟨w, hw, k.creds.trans creds⟩, fun none => ?_, fun e he => ?_⟩
  · obtain ⟨desks, records, map, queues⟩ := apart none
    exact ⟨k.desks.trans desks, k.records.trans records, k.map.trans map, k.queues.trans queues⟩
  · obtain ⟨here, others, last⟩ := ended e he
    refine ⟨(k.at_desk e).trans here, otherDesksSame_of_desks others k.desks, fun running => ?_⟩
    obtain ⟨p, hp⟩ := last running
    exact ⟨p, k.lastEntry hp⟩

/-- Settles O31: REVOKE and the expiry of a credential both remove it and end the session of its badge. -/
theorem credentialRemovedWithItsSession : Obligations.CredentialRemovedWithItsSession := by
  refine ⟨fun d b3 b2 b1 b0 tag c e issuer x s op grants hc temporary => ?_,
    fun badge c e issuer s hc temporary due => ?_⟩
  · have changes := actingAt_desk_changes s d
    have running := actingAt_running (d := d) op.taking.running
    have known : (actingAt s d).credential (read32 b3 b2 b1 b0) = some c := (credential_congr changes.creds _).trans hc
    obtain ⟨removed, last, only⟩ := removal known .revoke
      { port := some (deskPort d), badge := some (read32 b3 b2 b1 b0), detail := issuer }
    have held : ((removeCredential (actingAt s d) (read32 b3 b2 b1 b0)).enter .revoke
        { port := some (deskPort d), badge := some (read32 b3 b2 b1 b0), detail := issuer }).sessionOf
          (read32 b3 b2 b1 b0) = (actingAt s d).sessionOf (read32 b3 b2 b1 b0) :=
      sessionOf_congr ((enter_changes _ _ _).desks.trans (removeCredential_changes _ _).desks) _
    have rule : revokeRule d [b3, b2, b1, b0] (heardAt s (deskPort d)) =
        (endRevoked ((removeCredential (actingAt s d) (read32 b3 b2 b1 b0)).enter .revoke
          { port := some (deskPort d), badge := some (read32 b3 b2 b1 b0), detail := issuer }) (read32 b3 b2 b1 b0),
          done [((actingAt s d).sessionOf (read32 b3 b2 b1 b0)).isSome] (be32 (read32 b3 b2 b1 b0) ++
            [portByte (((actingAt s d).sessionOf (read32 b3 b2 b1 b0)).map (·.val))])) := by
      simp only [revokeRule, withSession_acting op.session, actingAt_roleOf, grants, Bool.not_true, Bool.false_eq_true,
        if_false, known, temporary, held]
    obtain ⟨t, ht, replied, within, answered⟩ := request_done op.taking .revoke tag (by simp [maxBody]) false
      revokeRule rule only only.ports
    exact ⟨t, ht, removed.of_answering answered, fun none => answered.lastEntry (last none running), replied, within⟩
  · obtain ⟨removed, last, only⟩ := removal hc .credentialExpired { badge := some badge, detail := issuer }
    have expired : credentialExpired s badge = endRevoked ((removeCredential s badge).enter .credentialExpired
        { badge := some badge, detail := issuer }) badge := by
      simp only [credentialExpired, hc, Option.bind_some, temporary, due, if_true]
    have settled := settle_changes (credentialExpired s badge)
    rw [expired] at settled
    refine ⟨settle (credentialExpired s badge), rfl, ?_⟩
    rw [expired]
    exact ⟨removed.of_answering (settled.mono (by decide)), fun running none => settled.lastEntry (last none running),
      (only.mono (by decide)).trans (settled.mono (by decide))⟩

/-! ## Fading and touching -/

/-- A session that remains tells the handover unit no more than causes. -/
theorem sessionTold_remains (s : State) (d : Desk) (b : Badge) (x : Presence) :
    OnlyChanges [.records, .queues, .journal] s (sessionTold s d b (some x)) := by
  refine .foldl (fun t i => ?_) _ _
  split
  · rw [if_neg (by simp)]
    split
    · exact changeCauses_changes _ _ _
    · exact .refl t
  · exact .refl t

theorem sessionChanged_remains (s : State) (d : Desk) (b : Badge) (x : Option Presence) (y : Presence) (c : Cause) :
    OwnersSame s (sessionChanged s d b x (some y) c) := by
  have told := sessionTold_remains (rederive s c 0 s) d b y
  have noted := sessionNotice_changes (sessionTold (rederive s c 0 s) d b (some y)) d b (some y) c
  refine (rederive_ownersSame s c 0 s).trans (.of_map ?_)
  unfold sessionChanged
  dsimp only
  rw [enter_map, noted.map, told.map]

theorem fade_ownersSame (s : State) (d : Desk) (x : Session) (dest : Presence) (c : Cause) :
    OwnersSame s (fadeSession s d x dest c) := by
  unfold fadeSession
  exact (OwnersSame.of_map (setDesk_changes _ _ _).map).trans (sessionChanged_remains _ _ _ _ _ _)

/-- The fading of a session, as it is handed on. -/
theorem fade_hands_on (s : State) (d : Desk) (x : Session) (dest : Presence) (c : Cause) :
    (fadeSession s d x dest c).desk d = { s.desk d with session := some { x with presence := dest } } ∧
    OtherDesksSame s (fadeSession s d x dest c) d ∧ OwnersSame s (fadeSession s d x dest c) ∧
    (s.dev = .running → LastEntry (fadeSession s d x dest c) c.journalKind
      { port := some (deskPort d), badge := some x.badge
        detail := detail4 (presenceCode (some x.presence)) (presenceCode (some dest)) c.code 0 }) ∧
    OnlyChanges [.desks, .map, .records, .queues, .journal] s (fadeSession s d x dest c) := by
  have desks : (fadeSession s d x dest c).desks =
      (s.setDesk d { s.desk d with session := some { x with presence := dest } }).desks :=
    by unfold fadeSession; exact (sessionChanged_changes _ _ _ _ _ _).desks
  obtain ⟨here, others⟩ := setDesk_others desks
  refine ⟨here, others, fade_ownersSame s d x dest c, fun running => ?_, fadeSession_changes s d x dest c⟩
  unfold fadeSession
  exact sessionChanged_last d x.badge (some x.presence) (some dest) c ((setDesk_dev _ _ _).trans running)

/-- An expiry that fades a session, with the lines settled. -/
theorem fades_settled {s t : State} {d : Desk} {x : Session} {dest : Presence} {c : Cause}
    (fades : t = fadeSession s d x dest c) (kind : c.journalKind = .sessionState) :
    (settle t).desk d = { s.desk d with session := some { x with presence := dest } } ∧
    OtherDesksSame s (settle t) d ∧ OwnersSame s (settle t) ∧
    (s.dev = .running → LastEntry (settle t) .sessionState
      { port := some (deskPort d), badge := some x.badge
        detail := detail4 (presenceCode (some x.presence)) (presenceCode (some dest)) c.code 0#8 }) ∧
    OnlyChanges [.desks, .map, .records, .queues, .journal, .horns, .attention] s (settle t) := by
  obtain ⟨here, others, owners, last, changes⟩ := fade_hands_on s d x dest c
  rw [← fades] at here others owners last changes
  have settled := settle_changes t
  rw [← kind]
  exact ⟨(settled.at_desk d).trans here, otherDesksSame_of_desks others settled.desks,
    owners.trans (.of_map settled.map), fun running => settled.lastEntry (last running),
    (changes.mono (by decide)).trans (settled.mono (by decide))⟩

/-- The interaction at a desk with a session (R123, R126). -/
theorem actingAt_touches {s : State} {d : Desk} {x : Session} (h : (s.desk d).session = some x) :
    (actingAt s d).desk d = { s.desk d with session := some (s.touched d x) } := by
  have hx : ((heardAt s (deskPort d)).desk d).session = some x := by rw [heardAt_desk_session, h]
  rw [actingAt, State.desk, interact_desks hx, touched_heardAt, heardAt_desk_session]
  simp

theorem actingAt_of_active {s : State} {d : Desk} {x : Session} (h : (s.desk d).session = some x)
    (active : x.presence = .active) : OnlyChanges [.desks] (heardAt s (deskPort d)) (actingAt s d) := by
  have hx : ((heardAt s (deskPort d)).desk d).session = some x := by rw [heardAt_desk_session, h]
  simp only [actingAt, interact, hx, active, if_true]
  exact setDesk_changes _ _ _

/-- What the handing on of a present session leaves. -/
theorem sessionChanged_derived (s : State) (d : Desk) (b : Badge) (x : Option Presence) (c : Cause) :
    AttendanceDerived (sessionChanged s d b x (some .active) c) := by
  unfold sessionChanged
  dsimp only
  rw [sessionTold_present _ _ _ (by decide)]
  have told : OnlyChanges [.queues, .journal] (rederive s c 0 s)
      ((sessionNotice (rederive s c 0 s) d b (some .active) c).enter c.journalKind
        { port := some (deskPort d), badge := some b
          detail := detail4 (presenceCode x) (presenceCode (some .active)) c.code 0 }) :=
    ((sessionNotice_changes _ _ _ _ _).mono (by decide)).trans ((enter_changes _ _ _).mono (by decide))
  intro a r ha
  rw [told.at_area] at ha
  rw [deriveAttendance_congr told.desks told.ports]
  exact rederive_derived s c 0 s a r ha

theorem actingAt_of_faded {s : State} {d : Desk} {x : Session} (h : (s.desk d).session = some x)
    (faded : x.presence ≠ .active) :
    AttendanceDerived (actingAt s d) ∧
    (s.dev = .running → LastEntry (actingAt s d) .sessionState
      { port := some (deskPort d), badge := some x.badge
        detail := detail4 (presenceCode (some x.presence)) 1#8 1#8 0#8 }) := by
  have hx : ((heardAt s (deskPort d)).desk d).session = some x := by rw [heardAt_desk_session, h]
  have hc := heardAt_desk_changes s d
  simp only [actingAt, interact, hx, faded, if_false]
  exact ⟨sessionChanged_derived _ _ _ _ _, fun running => sessionChanged_last d x.badge (some x.presence)
    (some .active) .interaction ((setDesk_changes _ _ _).dev.trans (hc.dev.trans running))⟩

/-- Settles O32: the expiries fade a session, and an interaction makes it ACTIVE. -/
theorem sessionsFade : Obligations.SessionsFade := by
  refine ⟨fun d x s h => ⟨fun active due => ?_, fun idle due => ?_⟩, fun d x s h => ?_, fun d s h => ?_⟩
  · exact ⟨_, rfl, fades_settled (t := idleExpired s d) (dest := .idle) (c := .idleLimit)
      (by simp only [idleExpired, h, active, due, and_self, if_true]) rfl⟩
  · exact ⟨_, rfl, fades_settled (t := absentExpired s d) (dest := .absent) (c := .absentLimit)
      (by simp only [absentExpired, h, idle, due, and_self, if_true]) rfl⟩
  · have present := interact_present (heardAt s (deskPort d)) d
    refine ⟨actingAt_touches h, actingAt_others s d, actingAt_owners s d, actingAt_of_active h, fun faded => ?_⟩
    obtain ⟨derived, last⟩ := actingAt_of_faded h faded
    exact ⟨derived, last, present.1.records, present.1⟩
  · have none : ((heardAt s (deskPort d)).desk d).session = none := by rw [heardAt_desk_session, h]
    simp only [actingAt, interact, none]

end Sys2Proof.Proofs
end

/-! PROOFS. The requests on one point that acknowledge, reset and list: ACK POINT, RESET POINT, SILENCE and
READ JOURNAL (spec/02, spec/06). -/

section
namespace Sys2Proof.Proofs

open Machine

/-! ## A request on one point -/

theorem actingAt_points (s : State) (d : Desk) : (actingAt s d).points = s.points :=
  (actingAt_desk_changes s d).points

theorem actingAt_point (s : State) (d : Desk) (i : Nat) : (actingAt s d).point i = s.point i :=
  (actingAt_desk_changes s d).at_point i

/-- A rule on a point whose checks pass. -/
theorem onPoint_acting {s : State} {d : Desk} {x : Session} {perm : Permission} {w : Word16} {p : Point}
    {limit : State → Point → Bool} (may : MayActOn s d x perm w.toNat p)
    (within : limit (actingAt s d) p = true) (k : State → Session → Nat → Point → State × Reply) :
    onPoint (heardAt s (deskPort d)) d w perm limit k = k (actingAt s d) (s.touched d x) w.toNat p := by
  obtain ⟨⟨_, session⟩, point, permitted, entitled⟩ := may
  have heard : (heardAt s (deskPort d)).point w.toNat = some p :=
    ((heardAt_desk_changes s d).at_point _).trans point
  have acting := (actingAt_point s d w.toNat).trans point
  simp only [onPoint, heard, withSession_acting session, acting, actingAt_roleOf, permitted, within, entitled,
    Bool.not_true, Bool.false_eq_true, if_false]

/-- The answer detail of a point that stands. -/
theorem pointDetail_of {s : State} {i : Nat} {p : Point} (h : s.point i = some p) :
    pointDetail s i = num16 i ++ be16 p.occ ++ [p.state.code] := by
  simp only [pointDetail, State.pointOcc, State.pointState, h]

theorem pointState_of {s : State} {i : Nat} {p : Point} (h : s.point i = some p) : s.pointState i = p.state := by
  simp only [State.pointState, h]

theorem otherPointsSame_of_points {s s' t u : State} {i : Nat} (h : OtherPointsSame s t i)
    (k : s.points = s'.points) (k' : u.points = t.points) : OtherPointsSame s' u i := by
  intro j hj
  have := h j hj
  simpa only [State.point, k, k'] using this

/-! ## ACK POINT and RESET POINT -/

/-- The record of an acknowledgement at a desk (R35). -/
theorem actingAt_ackNow (s : State) (d : Desk) (x : Session) :
    (actingAt s d).ackNow d (s.touched d x) = { badge := x.badge, desk := d, mill := s.mill } := by
  simp only [State.ackNow, (actingAt_desk_changes s d).mill]
  rfl

theorem acknowledged_unacked {p : Point} (a : AckRecord) (h : p.state = .unackActive ∨ p.state = .unackReturned) :
    p.acknowledged a =
      { p with
        state := if p.state = .unackActive then .ackActive
          else if p.cfg.mode = .latching then .latched else .normal
        acked := true, ackRecord := some a, escalated := false, escSerial := none } := by
  rcases h with h | h <;> simp [Point.acknowledged, h]

theorem ackPointRule_taken {s : State} {d : Desk} {x : Session} {p1 p0 o1 o0 : Byte} {p : Point}
    (may : MayActOn s d x .ack (read16 p1 p0).toNat p) (occ : p.occ = read16 o1 o0)
    (unacked : p.state = .unackActive ∨ p.state = .unackReturned) :
    ackPointRule d [p1, p0, o1, o0] (heardAt s (deskPort d)) =
      (let u := acknowledge (actingAt s d) (read16 p1 p0).toNat p { badge := x.badge, desk := d, mill := s.mill }
       (u.enter .ack
          { port := some (deskPort d), badge := some x.badge, area := some p.cfg.area
            point := some (read16 p1 p0).toNat, occ := p.occ
            detail := detail4 (u.pointState (read16 p1 p0).toNat).code 0 0 0 },
        done [] (pointDetail u (read16 p1 p0).toNat))) := by
  have held : p.state.unacked = true := by rcases unacked with h | h <;> rw [h] <;> rfl
  have badge : (s.touched d x).badge = x.badge := rfl
  simp only [ackPointRule, onPoint_acting may (limit := noLimit) rfl, occ, ne_eq, not_true_eq_false, if_false, held,
    Bool.not_true, Bool.false_eq_true, actingAt_ackNow, badge]

theorem ackPoint_moves (d : Desk) (p1 p0 o1 o0 tag : Byte) (x : Session) (p : Point) (s : State)
    (may : MayActOn s d x .ack (read16 p1 p0).toNat p) (occ : p.occ = read16 o1 o0)
    (unacked : p.state = .unackActive ∨ p.state = .unackReturned) :
    ∃ t, exec (.ackPoint (deskPort d) tag [p1, p0, o1, o0]) s = .next t ∧
      (let state := if p.state = .unackActive then .ackActive
        else if p.cfg.mode = .latching then .latched else .normal
       t.point (read16 p1 p0).toNat = some
         { p with
           state := state, acked := true
           ackRecord := some { badge := x.badge, desk := d, mill := s.mill }
           escalated := false, escSerial := none } ∧
       OtherPointsSame s t (read16 p1 p0).toNat ∧
       LastEntry t .ack
         { port := some (deskPort d), badge := some x.badge, area := some p.cfg.area
           point := some (read16 p1 p0).toNat, occ := p.occ, detail := detail4 (AlarmState.code state) 0 0 0 } ∧
       Replied (actingAt s d) t (deskPort d) .ackPoint tag
         (done [] (num16 (read16 p1 p0).toNat ++ be16 p.occ ++ [AlarmState.code state])) ∧
       OnlyChanges (answering ++ [.points, .records, .queues, .journal]) (actingAt s d) t) := by
  have running := actingAt_running (d := d) may.operator.taking.running
  have rule := ackPointRule_taken may occ unacked
  obtain ⟨here, others, changes⟩ := acknowledge_point { badge := x.badge, desk := d, mill := s.mill }
    ((actingAt_point s d _).trans may.point)
  generalize hu : acknowledge (actingAt s d) (read16 p1 p0).toNat p
    { badge := x.badge, desk := d, mill := s.mill } = u at here others changes rule
  dsimp only at rule
  rw [acknowledged_unacked _ unacked] at here
  rw [pointDetail_of here, pointState_of here] at rule
  have made := (changes.mono (U := [.points, .records, .queues, .journal]) (by decide)).trans
    ((enter_changes u .ack
      { port := some (deskPort d), badge := some x.badge, area := some p.cfg.area
        point := some (read16 p1 p0).toNat, occ := p.occ
        detail := detail4 (AlarmState.code (if p.state = .unackActive then .ackActive
          else if p.cfg.mode = .latching then .latched else .normal)) 0 0 0 }).mono (by decide))
  obtain ⟨t, ht, replied, within, answered⟩ := request_done may.operator.taking .ackPoint tag (by simp [maxBody])
    false ackPointRule rule made made.ports
  have points : t.points = u.points := answered.points.trans (enter_changes _ _ _).points
  refine ⟨t, ht, ?_, otherPointsSame_of_points others (actingAt_points s d) points,
    answered.lastEntry (enter_last _ _ _ (changes.dev.trans running)), replied, within⟩
  rw [State.point, points]
  exact here

theorem resetPoint_moves (d : Desk) (p1 p0 tag : Byte) (x : Session) (p : Point) (s : State)
    (may : MayActOn s d x .ack (read16 p1 p0).toNat p) (latched : p.state = .latched) :
    ∃ t, exec (.resetPoint (deskPort d) tag [p1, p0]) s = .next t ∧
      t.point (read16 p1 p0).toNat = some { p with state := .normal } ∧
      OtherPointsSame s t (read16 p1 p0).toNat ∧
      LastEntry t .reset
        { port := some (deskPort d), badge := some x.badge, area := some p.cfg.area
          point := some (read16 p1 p0).toNat, occ := p.occ } ∧
      Replied (actingAt s d) t (deskPort d) .resetPoint tag
        (done [] (num16 (read16 p1 p0).toNat ++ be16 p.occ)) ∧
      OnlyChanges (answering ++ [.points, .records, .queues, .journal]) (actingAt s d) t := by
  have running := actingAt_running (d := d) may.operator.taking.running
  have before := (actingAt_point s d _).trans may.point
  have set := setPoint_point_of before { p with state := .normal }
  have handed := handOn_same_changes (old := p) {} set (by simp only [Point.active, latched]; rfl)
  generalize hu : handOn ((actingAt s d).setPoint (read16 p1 p0).toNat { p with state := .normal })
    (read16 p1 p0).toNat p {} = u at handed
  have badge : (s.touched d x).badge = x.badge := rfl
  have rule : resetPointRule d [p1, p0] (heardAt s (deskPort d)) =
      (u.enter .reset
        { port := some (deskPort d), badge := some x.badge, area := some p.cfg.area
          point := some (read16 p1 p0).toNat, occ := p.occ },
        done [] (num16 (read16 p1 p0).toNat ++ be16 p.occ)) := by
    simp only [resetPointRule, onPoint_acting may (limit := noLimit) rfl, latched, ne_eq, not_true_eq_false, if_false,
      hu, badge]
  have written := (setPoint_changes (actingAt s d) (read16 p1 p0).toNat { p with state := .normal }).mono
    (U := [.points, .records, .queues, .journal]) (by decide)
  have moved := written.trans (handed.mono (by decide))
  have made := moved.trans ((enter_changes u .reset
    { port := some (deskPort d), badge := some x.badge, area := some p.cfg.area
      point := some (read16 p1 p0).toNat, occ := p.occ }).mono (by decide))
  obtain ⟨t, ht, replied, within, answered⟩ := request_done may.operator.taking .resetPoint tag (by simp [maxBody])
    false resetPointRule rule made made.ports
  have points : ∀ j, t.point j = ((actingAt s d).setPoint (read16 p1 p0).toNat { p with state := .normal }).point j :=
    fun j => (answered.at_point j).trans (((enter_changes _ _ _).at_point j).trans (handed.at_point j))
  exact ⟨t, ht, (points _).trans set, fun j hj => (points j).trans ((setPoint_point_ne _ _ hj).trans
    (actingAt_point s d j)), answered.lastEntry (enter_last _ _ _ (moved.dev.trans running)), replied, within⟩

/-- Settles O34: an acknowledged or reset point leaves its activity, so no group is told. -/
theorem ackAndResetMovePoint : Obligations.AckAndResetMovePoint := ⟨ackPoint_moves, resetPoint_moves⟩

/-! ## SILENCE and READ JOURNAL -/

/-- Settles O36: SILENCE writes one mark, READ JOURNAL takes the front of the journal. -/
theorem silenceAndReadJournal : Obligations.SilenceAndReadJournal := by
  refine ⟨fun d tag x s op => ?_, fun n tag x s sup low high => ?_⟩
  · have changes := actingAt_desk_changes s d
    have running := actingAt_running (d := d) op.taking.running
    have rule : silenceRule d [] (heardAt s (deskPort d)) =
        (((actingAt s d).setMark d s.serial).enter .silence
          { port := some (deskPort d), badge := some x.badge, detail := s.serial }, done [] (be32 s.serial)) := by
      have badge : (s.touched d x).badge = x.badge := rfl
      simp only [silenceRule, withSession_acting op.session, changes.serial, badge]
    have marked := setMark_changes (actingAt s d) d s.serial
    have made := (marked.mono (U := [.marks, .journal]) (by decide)).trans ((enter_changes _ .silence
      { port := some (deskPort d), badge := some x.badge, detail := s.serial }).mono (by decide))
    obtain ⟨t, ht, replied, within, answered⟩ := request_done op.taking .silence tag (by simp [maxBody]) false
      silenceRule rule made made.ports
    have mark : ∀ e, t.mark e = ((actingAt s d).setMark d s.serial).mark e := fun e =>
      (answered.at_mark e).trans ((enter_changes _ _ _).at_mark e)
    exact ⟨t, ht, (mark d).trans (setMark_mark _ _ _), fun e he => (mark e).trans ((setMark_mark_ne _ _ he).trans
      (changes.at_mark e)), answered.lastEntry (enter_last _ _ _ (marked.dev.trans running)), replied, within⟩
  · have rule : readJournalRule supervisor [n] (heardAt s (deskPort supervisor)) =
        ({ actingAt s supervisor with
            journal := { entries := (actingAt s supervisor).journal.entries.drop n.toNat, gap := 0 } },
          done [] (byte ((actingAt s supervisor).journal.entries.take n.toNat).length ::
            (((actingAt s supervisor).journal.entries.take n.toNat).flatMap JournalEntry.bytes ++
              num16 ((actingAt s supervisor).journal.entries.take n.toNat).length ++
              num16 ((actingAt s supervisor).journal.entries.drop n.toNat).length ++
              num16 (actingAt s supervisor).journal.gap))) := by
      have count : ¬ (n.toNat = 0 ∨ 8 < n.toNat) := by omega
      simp only [readJournalRule, count, if_false, withSession_acting sup.operator.session,
        consoleDesk_supervises sup, Bool.not_true, Bool.false_eq_true]
    have made : OnlyChanges [.journal] (actingAt s supervisor)
        { actingAt s supervisor with
          journal := { entries := (actingAt s supervisor).journal.entries.drop n.toNat, gap := 0 } } := by
      intro f hf
      cases f <;> first | rfl | simp at hf
    obtain ⟨t, ht, replied, within, answered⟩ := request_done sup.operator.taking .readJournal tag (by simp [maxBody])
      false readJournalRule rule made made.ports
    exact ⟨t, ht, answered.journal, replied, within⟩

end Sys2Proof.Proofs
end

/-! PROOFS. ACK AREA: the visit of the configured points of an area (spec/02, R40). -/

section
namespace Sys2Proof.Proofs

open Machine

/-! ## What the routing of a notice reads -/

/-- The records' states, areas and parties are as before. -/
def PartiesSame (s t : State) : Prop :=
  ∀ i, (t.record i).map (fun r => (r.state, r.areas, r.outgoing, r.incoming)) =
    (s.record i).map (fun r => (r.state, r.areas, r.outgoing, r.incoming))

theorem PartiesSame.refl (s : State) : PartiesSame s s := fun _ => rfl

theorem PartiesSame.trans {s t u : State} (h : PartiesSame s t) (k : PartiesSame t u) : PartiesSame s u :=
  fun i => (k i).trans (h i)

theorem PartiesSame.of_records {s t : State} (h : t.records = s.records) : PartiesSame s t := by
  intro i
  simp only [State.record, h]

theorem PartiesSame.symm {s t : State} (h : PartiesSame s t) : PartiesSame t s := fun i => (h i).symm

/-- A record that stands before has one with the same state, areas and parties after. -/
theorem PartiesSame.record {s t : State} (h : PartiesSame s t) {i : RecordIdx} {r : Record}
    (hr : s.record i = some r) : ∃ q, t.record i = some q ∧ q.state = r.state ∧ q.areas = r.areas ∧
      q.outgoing = r.outgoing ∧ q.incoming = r.incoming := by
  have := h i
  rw [hr] at this
  cases hq : t.record i with
  | none => rw [hq] at this; cases this
  | some q =>
    rw [hq] at this
    simp only [Option.map_some, Option.some.injEq, Prod.mk.injEq] at this
    exact ⟨q, rfl, this⟩

/-- A test of the records that reads states, areas and parties alone. -/
theorem PartiesSame.any {s t : State} (h : PartiesSame s t) {f : Record → Bool}
    (hf : ∀ q r : Record, q.state = r.state → q.areas = r.areas → q.outgoing = r.outgoing →
      q.incoming = r.incoming → f q = f r) : t.liveRecords.any f = s.liveRecords.any f := by
  rw [Bool.eq_iff_iff, liveRecords_any, liveRecords_any]
  constructor
  · rintro ⟨i, r, hr, hfr⟩
    obtain ⟨q, hq, state, areas, outgoing, incoming⟩ := h.symm.record hr
    exact ⟨i, q, hq, (hf q r state areas outgoing incoming).trans hfr⟩
  · rintro ⟨i, r, hr, hfr⟩
    obtain ⟨q, hq, state, areas, outgoing, incoming⟩ := h.record hr
    exact ⟨i, q, hq, (hf q r state areas outgoing incoming).trans hfr⟩

theorem partiesSame_handItems (s : State) (i : Nat) (p : Point) (fresh : Bool) :
    PartiesSame s (handItems s i p fresh) := by
  have follow : ∀ r : Record, ((r.follow i p fresh).state, (r.follow i p fresh).areas,
      (r.follow i p fresh).outgoing, (r.follow i p fresh).incoming) = (r.state, r.areas, r.outgoing, r.incoming) := by
    intro r
    unfold Record.follow
    split
    · rfl
    · split
      · split <;> rfl
      · rfl
  intro k
  have here : (handItems s i p fresh).record k =
      (s.record k).map (fun r => if r.accepted && inSet r.areas p.cfg.area then r.follow i p fresh else r) := by
    simp [handItems, State.record]
  rw [here]
  cases s.record k with
  | none => rfl
  | some r =>
    simp only [Option.map_some]
    split
    · rw [follow]
    · rfl

theorem partiesSame_announce (s : State) (i : Nat) (c : Change) : PartiesSame s (announce s i c) := by
  cases h : s.point i with
  | none => simp only [announce, h]; exact .refl s
  | some p =>
    rw [announce_of c h]
    refine PartiesSame.trans (.of_records ?_) (partiesSame_handItems _ i p c.fresh)
    split <;> rfl

/-- Routing reads the areas, the parties of records, the sessions, the links and the enabling. -/
theorem routed_congr {s t : State} (parties : PartiesSame s t) (hc : OnlyChanges [.points, .records, .queues] s t)
    (a : Area) (escalated : Bool) (d : Desk) : t.routed a escalated d = s.routed a escalated d := by
  have any : t.liveRecords.any (fun r => r.accepted && inSet r.areas a && isParty d r.incoming) =
      s.liveRecords.any (fun r => r.accepted && inSet r.areas a && isParty d r.incoming) :=
    parties.any fun q r state areas _ incoming => by simp only [Record.accepted, state, areas, incoming]
  simp only [State.routed, State.pointNames, State.areaNames, any, State.attendance, State.owner, hc.at_area,
    State.reaches, hc.reach, State.present, hc.at_desk, enabled_congr hc.dev hc.portCfg, State.linkGood, hc.at_port]

/-! ## The visits -/

/-- What a visit leaves of what the visits read. -/
structure Visited (s t : State) : Prop where
  changes : OnlyChanges [.points, .records, .queues] s t
  parties : PartiesSame s t

theorem Visited.ackable {s t : State} (h : Visited s t) (d : Desk) (a : Area) (seen : MillTime) (p : Point) :
    t.ackable d a seen p = s.ackable d a seen p := by
  simp only [State.ackable, routed_congr h.parties h.changes]

theorem visited_acknowledge {s : State} {i : Nat} {p : Point} (ack : AckRecord) (h : s.point i = some p) :
    Visited s (acknowledge s i p ack) := by
  refine ⟨(acknowledge_point ack h).2.2, ?_⟩
  unfold acknowledge
  rw [handOn_same {} (setPoint_point_of h (p.acknowledged ack)) (acknowledged_active p ack)]
  exact (PartiesSame.of_records (setPoint_changes _ _ _).records).trans (partiesSame_announce _ _ _)

/-- The point after its visit. -/
def ackedAt (s : State) (d : Desk) (a : Area) (seen : MillTime) (ack : AckRecord) (p : Point) : Point :=
  if s.ackable d a seen p then p.acknowledged ack else p

theorem ackVisit_of {s t : State} (h : Visited s t) (d : Desk) (a : Area) (seen : MillTime) (x : Session)
    (n i : Nat) (same : t.point i = s.point i) :
    Visited s (ackVisit d a seen x (t, n) i).1 ∧
    (ackVisit d a seen x (t, n) i).1.point i = (s.point i).map (ackedAt s d a seen (s.ackNow d x)) ∧
    (∀ j, j ≠ i → (ackVisit d a seen x (t, n) i).1.point j = t.point j) ∧
    (ackVisit d a seen x (t, n) i).2 = n + if (s.point i).any (s.ackable d a seen) then 1 else 0 := by
  have now : t.ackNow d x = s.ackNow d x := by simp only [State.ackNow, h.changes.mill]
  unfold ackVisit
  dsimp only
  rw [← same]
  cases hp : t.point i with
  | none => exact ⟨h, hp, fun j _ => rfl, rfl⟩
  | some p =>
    simp only [h.ackable, now, Option.map_some, Option.any_some, ackedAt]
    by_cases acked : s.ackable d a seen p = true
    · simp only [acked, if_true]
      obtain ⟨here, others, _⟩ := acknowledge_point (s.ackNow d x) hp
      have step := visited_acknowledge (s.ackNow d x) hp
      exact ⟨⟨h.changes.trans step.changes, h.parties.trans step.parties⟩, here, others, trivial⟩
    · simp only [acked]
      exact ⟨h, hp, fun j _ => rfl, rfl⟩

theorem ackVisits {s : State} (d : Desk) (a : Area) (seen : MillTime) (x : Session) (l : List Nat) :
    ∀ (t : State) (n : Nat), l.Nodup → Visited s t → (∀ j ∈ l, t.point j = s.point j) →
      Visited s (l.foldl (ackVisit d a seen x) (t, n)).1 ∧
      (∀ j ∈ l, (l.foldl (ackVisit d a seen x) (t, n)).1.point j =
        (s.point j).map (ackedAt s d a seen (s.ackNow d x))) ∧
      (∀ j, j ∉ l → (l.foldl (ackVisit d a seen x) (t, n)).1.point j = t.point j) ∧
      (l.foldl (ackVisit d a seen x) (t, n)).2 =
        n + (l.filter (fun j => (s.point j).any (s.ackable d a seen))).length := by
  induction l with
  | nil => exact fun t n _ h _ => ⟨h, fun j hj => absurd hj List.not_mem_nil, fun _ _ => rfl, rfl⟩
  | cons i rest ih =>
    intro t n nodup h same
    obtain ⟨fresh, nodup⟩ := List.nodup_cons.1 nodup
    obtain ⟨visited, here, others, count⟩ := ackVisit_of h d a seen x n i (same i List.mem_cons_self)
    rw [List.foldl_cons]
    generalize hr : ackVisit d a seen x (t, n) i = r at visited here others count
    obtain ⟨u, m⟩ := r
    dsimp only at visited here others count
    obtain ⟨visits, within, without, total⟩ := ih u m nodup visited fun j hj =>
      (others j fun e => fresh (e ▸ hj)).trans (same j (List.mem_cons_of_mem _ hj))
    refine ⟨visits, fun j hj => ?_, fun j hj => ?_, ?_⟩
    · rcases List.mem_cons.1 hj with rfl | hj
      · exact (without j fresh).trans here
      · exact within j hj
    · rw [List.mem_cons, not_or] at hj
      exact (without j hj.2).trans (others j hj.1)
    · rw [total, count, List.filter_cons]
      by_cases acked : (s.point i).any (s.ackable d a seen) = true
      · rw [if_pos acked, if_pos acked, List.length_cons]
        omega
      · rw [if_neg acked, if_neg acked]
        omega

/-- Every configured point is visited once. -/
theorem points_nodup {s : State} (h : TablesRise s) : (s.points.map (·.1)).Nodup := by
  rw [List.Nodup, List.pairwise_map]
  exact h.points.imp fun k => Nat.ne_of_lt k

theorem point_of_mem {s : State} (h : TablesRise s) {e : Nat × Point} (he : e ∈ s.points) : s.point e.1 = some e.2 :=
  h.points.get he

/-- The visits that acknowledge are those of the points that are acknowledged. -/
theorem ackable_count {s : State} (h : TablesRise s) (f : Point → Bool) :
    ((s.points.map (·.1)).filter (fun j => (s.point j).any f)).length = (s.points.filter (fun e => f e.2)).length := by
  rw [List.filter_map, List.length_map]
  refine congrArg List.length (List.filter_congr fun e he => ?_)
  simp only [Function.comp_apply, point_of_mem h he, Option.any_some]

theorem actingAt_tablesRise {s : State} (h : TablesRise s) (d : Desk) : TablesRise (actingAt s d) := by
  have hc := actingAt_desk_changes s d
  obtain ⟨points, channels, staged⟩ := h
  exact ⟨by rw [hc.points]; exact points, by rw [hc.channels]; exact channels, by rw [hc.staged]; exact staged⟩

/-- A rule on an area whose checks pass. -/
theorem onArea_acting {s : State} {d : Desk} {x : Session} {b : Byte} {a : Area} {perm : Permission}
    (h : (s.desk d).session = some x) (ha : s.definedArea b = some a)
    (permitted : (s.roleOf x).permits perm a = true) (entitled : (actingAt s d).entitled d a = true)
    (k : State → Session → Area → State × Reply) :
    onArea (heardAt s (deskPort d)) d b perm k = k (actingAt s d) (s.touched d x) a := by
  simp only [onArea, heardAt_desk_definedArea, ha, withSession_acting h, actingAt_roleOf, permitted, entitled,
    Bool.not_true, Bool.false_eq_true, if_false]

/-- Settles O35: the visits acknowledge the points that the area's test names, each once. -/
theorem ackAreaAcknowledgesSeenPoints : Obligations.AckAreaAcknowledgesSeenPoints := by
  intro d b t3 t2 t1 t0 tag a x s op
  dsimp only
  intro ha permitted entitled rise
  have running := actingAt_running (d := d) op.taking.running
  have rise' := actingAt_tablesRise rise d
  obtain ⟨visited, within, without, count⟩ := ackVisits (s := actingAt s d) d a (read32 t3 t2 t1 t0) (s.touched d x)
    ((actingAt s d).points.map (·.1)) (actingAt s d) 0 (points_nodup rise') ⟨.refl _, .refl _⟩ fun j _ => rfl
  rw [ackable_count rise', Nat.zero_add] at count
  rw [actingAt_ackNow] at within
  generalize hr : ((actingAt s d).points.map (·.1)).foldl (ackVisit d a (read32 t3 t2 t1 t0) (s.touched d x))
    (actingAt s d, 0) = r at visited within without count
  obtain ⟨u, n⟩ := r
  dsimp only at visited within without count
  have badge : (s.touched d x).badge = x.badge := rfl
  have rule : ackAreaRule d [b, t3, t2, t1, t0] (heardAt s (deskPort d)) =
      (u.enter .ackArea
        { port := some (deskPort d), badge := some x.badge, area := some a
          occ := BitVec.ofNat 16 n, detail := read32 t3 t2 t1 t0 }, done [] (num16 n)) := by
    simp only [ackAreaRule, onArea_acting op.session ha permitted entitled, hr, badge]
  have made := (visited.changes.mono (U := [.points, .records, .queues, .journal]) (by decide)).trans
    ((enter_changes u .ackArea
      { port := some (deskPort d), badge := some x.badge, area := some a
        occ := BitVec.ofNat 16 n, detail := read32 t3 t2 t1 t0 }).mono (by decide))
  obtain ⟨t, ht, replied, changes, answered⟩ := request_done op.taking .ackArea tag (by simp [maxBody]) false
    ackAreaRule rule made made.ports
  have point : ∀ j, t.point j = u.point j := fun j => (answered.at_point j).trans ((enter_changes _ _ _).at_point j)
  have last := answered.lastEntry (enter_last u .ackArea
    { port := some (deskPort d), badge := some x.badge, area := some a
      occ := BitVec.ofNat 16 n, detail := read32 t3 t2 t1 t0 } (visited.changes.dev.trans running))
  have listed : ∀ i p, s.point i = some p →
      t.point i = some (ackedAt (actingAt s d) d a (read32 t3 t2 t1 t0)
        { badge := x.badge, desk := d, mill := s.mill } p) := by
    intro i p hp
    have here : i ∈ (actingAt s d).points.map (·.1) := by
      rw [actingAt_points]
      exact List.mem_map.2 ⟨(i, p), tableGet_of_mem hp, rfl⟩
    rw [point, within i here, actingAt_point, hp, Option.map_some]
  refine ⟨t, ht, fun i p hp => ⟨fun acked => ?_, fun left => ?_⟩, fun i none => ?_, ?_, changes⟩
  · rw [listed i p hp, ackedAt, if_pos acked]
  · rw [listed i p hp, ackedAt, if_neg (by rw [left]; decide)]
  · rw [point]
    by_cases here : i ∈ (actingAt s d).points.map (·.1)
    · rw [within i here, actingAt_point, none]
      rfl
    · rw [without i here, actingAt_point, none]
  · rw [count, actingAt_points] at last replied
    exact ⟨last, replied⟩

end Sys2Proof.Proofs
end

/-! PROOFS. SHELVE, UNSHELVE and the expiry of shelving (spec/03). -/

section
namespace Sys2Proof.Proofs

open Machine

/-! ## SHELVE -/

theorem setShelf_changes (s : State) (l : List ShelveEntry) : OnlyChanges [.shelf] s { s with shelf := l } := by
  intro f hf
  cases f <;> first | rfl | simp at hf

/-- The entry that a SHELVE places (R47). -/
def shelvedEntry (s : State) (d : Desk) (x : Session) (i : Nat) (seconds : Nat) (reason : Byte) : ShelveEntry :=
  { point := i, badge := x.badge, desk := d, expiry := after s.elapsed (10 * seconds), reason := reason }

/-- The state once the entry is placed and the point is SHELVED, before the journal entry (R47, R48). -/
def shelvedState (s : State) (d : Desk) (x : Session) (i : Nat) (p : Point) (seconds : Nat) (reason : Byte) : State :=
  if p.shelved then
    { s with shelf := insertShelve (shelvedEntry s d x i seconds reason) (withoutEntry s.shelf i) }
  else
    handOn (({ s with shelf := insertShelve (shelvedEntry s d x i seconds reason) (withoutEntry s.shelf i) } :
        State).setPoint i (p.whenShelved { badge := x.badge, desk := d, mill := s.mill })) i p {}

theorem shelveTaken_of (s : State) (d : Desk) (x : Session) (i : Nat) (p : Point) (asked : Nat) (reason : Byte) :
    shelveTaken s d x i p asked reason =
      ((shelvedState s d x i p (min asked (s.maxShelve p.cfg.priority)) reason).enter .shelve
        { port := some (deskPort d), badge := some x.badge, area := some p.cfg.area, point := some i
          occ := p.occ, detail := detailFlag reason p.shelved (min asked (s.maxShelve p.cfg.priority)) },
      done [min asked (s.maxShelve p.cfg.priority) != asked]
        (pointDetail (shelvedState s d x i p (min asked (s.maxShelve p.cfg.priority)) reason) i ++
          num32 (min asked (s.maxShelve p.cfg.priority)) ++
          be32 (s.millOf (after s.elapsed (10 * min asked (s.maxShelve p.cfg.priority)))) ++
          num16 (shelvedState s d x i p (min asked (s.maxShelve p.cfg.priority)) reason).shelf.length)) := rfl

/-- Shelving for the first time leaves the activity of a point (R47). -/
theorem whenShelved_active (p : Point) (a : AckRecord) : (p.whenShelved a).active = p.active := by
  have alarm : (p.whenShelved a).state.inAlarm = p.state.inAlarm := by
    unfold Point.whenShelved
    cases p.state <;> rfl
  have service : (p.whenShelved a).inService = p.inService := by
    unfold Point.whenShelved
    cases p.state <;> rfl
  simp only [Point.active, alarm, service]

/-- What a SHELVE leaves of the points and the shelve list. -/
theorem shelvedState_of {s : State} {i : Nat} {p : Point} (h : s.point i = some p) (d : Desk) (x : Session)
    (seconds : Nat) (reason : Byte) :
    let u := shelvedState s d x i p seconds reason
    (p.shelved = true → u.points = s.points) ∧
    (p.shelved = false → u.point i = some (p.whenShelved { badge := x.badge, desk := d, mill := s.mill })) ∧
    OtherPointsSame s u i ∧
    u.shelf = insertShelve (shelvedEntry s d x i seconds reason) (withoutEntry s.shelf i) ∧
    OnlyChanges [.points, .shelf, .records, .queues] s u := by
  have listed := setShelf_changes s (insertShelve (shelvedEntry s d x i seconds reason) (withoutEntry s.shelf i))
  unfold shelvedState
  dsimp only
  by_cases shelved : p.shelved = true
  · rw [if_pos shelved]
    exact ⟨fun _ => listed.points, fun no => absurd (shelved.symm.trans no) (by decide), fun j _ => listed.at_point j, rfl,
      listed.mono (by decide)⟩
  · rw [if_neg shelved]
    generalize hv : ({ s with
      shelf := insertShelve (shelvedEntry s d x i seconds reason) (withoutEntry s.shelf i) } : State) = v at listed
    have shelf : v.shelf = insertShelve (shelvedEntry s d x i seconds reason) (withoutEntry s.shelf i) := hv ▸ rfl
    have before : v.point i = some p := (listed.at_point i).trans h
    have set := setPoint_point_of before (p.whenShelved { badge := x.badge, desk := d, mill := s.mill })
    have handed := handOn_same_changes (old := p) {} set (whenShelved_active p _)
    have written := setPoint_changes v i (p.whenShelved { badge := x.badge, desk := d, mill := s.mill })
    exact ⟨fun yes => absurd yes shelved, fun _ => (handed.at_point i).trans set,
      fun j hj => (handed.at_point j).trans ((setPoint_point_ne _ _ hj).trans (listed.at_point j)),
      handed.shelf.trans (written.shelf.trans shelf),
      (listed.mono (by decide)).trans ((written.mono (by decide)).trans (handed.mono (by decide)))⟩

/-- The entry stands behind those whose expiry is at or before its own, and before the rest (R44). -/
theorem insertShelve_placed (e : ShelveEntry) (l : List ShelveEntry) :
    ∃ pre post, insertShelve e l = pre ++ e :: post ∧ pre ++ post = l ∧
      (∀ f ∈ pre, atOrBefore f.expiry e.expiry = true) ∧
      ∀ f, post.head? = some f → atOrBefore f.expiry e.expiry = false := by
  obtain ⟨pre, post, split, rest, before, behind⟩ := insertBy_split
    (fun x y : ShelveEntry => !atOrBefore y.expiry x.expiry) e l
  exact ⟨pre, post, split, rest, fun f hf => by simpa using before f hf, fun f hf => by simpa using behind f hf⟩

theorem whenShelved_unackActive {p : Point} (a : AckRecord) (h : p.state = .unackActive) :
    p.whenShelved a = { p with
      state := .ackActive, acked := true, ackRecord := some a, escalated := false, escSerial := none
      shelved := true } := by
  simp only [Point.whenShelved, h]

theorem whenShelved_returned {p : Point} (a : AckRecord) (h : p.state = .unackReturned ∨ p.state = .latched) :
    p.whenShelved a = { p with state := .normal, shelved := true } := by
  rcases h with h | h <;> simp only [Point.whenShelved, h]

theorem whenShelved_quiet {p : Point} (a : AckRecord) (h : p.state = .ackActive ∨ p.state = .normal) :
    p.whenShelved a = { p with shelved := true } := by
  rcases h with h | h <;> simp only [Point.whenShelved, h]

theorem maxShelve_congr {s t : State} (h : t.params = s.params) (priority : Nat) :
    t.maxShelve priority = s.maxShelve priority := by
  simp only [State.maxShelve, State.param, h]

theorem shelveRule_taken {s : State} {d : Desk} {x : Session} {p1 p0 t3 t2 t1 t0 reason : Byte} {p : Point}
    (may : MayActOn s d x .shelve (read16 p1 p0).toNat p) (asked : (read32 t3 t2 t1 t0).toNat ≠ 0)
    (allowed : 0 < s.maxShelve p.cfg.priority) (service : p.inService = true)
    (room : p.shelved = false → s.shelf.length < 96) :
    shelveRule d [p1, p0, t3, t2, t1, t0, reason] (heardAt s (deskPort d)) =
      shelveTaken (actingAt s d) d (s.touched d x) (read16 p1 p0).toNat p (read32 t3 t2 t1 t0).toNat reason := by
  have changes := actingAt_desk_changes s d
  have within : decide (0 < (actingAt s d).maxShelve p.cfg.priority) = true := by
    rw [maxShelve_congr changes.params]
    exact decide_eq_true allowed
  have free : (!p.shelved && decide (Config.shelveCapacity ≤ (actingAt s d).shelf.length)) = false := by
    rw [changes.shelf]
    cases shelved : p.shelved with
    | true => rfl
    | false =>
      have := room shelved
      simp only [Bool.not_false, Bool.true_and, decide_eq_false_iff_not]
      show ¬ 96 ≤ _
      omega
  simp only [shelveRule, asked, if_false, onPoint_acting may (limit := fun s1 p => 0 < s1.maxShelve p.cfg.priority)
    within, service, Bool.not_true, Bool.false_eq_true, free]

/-- Settles O37: the entry is placed by its expiry, and the point is SHELVED with its activity kept. -/
theorem shelvePlacesEntry : Obligations.ShelvePlacesEntry := by
  intro d p1 p0 t3 t2 t1 t0 reason tag x p s
  dsimp only
  intro may asked allowed service room
  have changes := actingAt_desk_changes s d
  have running := actingAt_running (d := d) may.operator.taking.running
  have rule := (shelveRule_taken (reason := reason) may asked allowed service room).trans
    (shelveTaken_of _ _ _ _ _ _ _)
  rw [maxShelve_congr changes.params] at rule
  generalize hsec : min (read32 t3 t2 t1 t0).toNat (s.maxShelve p.cfg.priority) = seconds at rule ⊢
  obtain ⟨kept, first, others, shelf, only⟩ := shelvedState_of ((actingAt_point s d _).trans may.point) d
    (s.touched d x) seconds reason
  generalize hu : shelvedState (actingAt s d) d (s.touched d x) (read16 p1 p0).toNat p seconds reason = u
    at rule kept first others shelf only
  have entry : shelvedEntry (actingAt s d) d (s.touched d x) (read16 p1 p0).toNat seconds reason =
      { point := (read16 p1 p0).toNat, badge := x.badge, desk := d
        expiry := after s.elapsed (10 * seconds), reason := reason } := by
    simp only [shelvedEntry, changes.elapsed]
    rfl
  rw [entry, changes.shelf] at shelf
  rw [actingAt_points] at kept
  rw [changes.mill] at first
  have made := (only.mono (U := [.points, .shelf, .records, .queues, .journal]) (by decide)).trans
    ((enter_changes u .shelve
      { port := some (deskPort d), badge := some (s.touched d x).badge, area := some p.cfg.area
        point := some (read16 p1 p0).toNat, occ := p.occ
        detail := detailFlag reason p.shelved seconds }).mono (by decide))
  obtain ⟨t, ht, replied, within, answered⟩ := request_done may.operator.taking .shelve tag (by simp [maxBody])
    false shelveRule rule made made.ports
  have points : t.points = u.points := answered.points.trans (enter_changes _ _ _).points
  have point : t.point (read16 p1 p0).toNat = u.point (read16 p1 p0).toNat := by simp only [State.point, points]
  have listed : t.shelf = u.shelf := answered.shelf.trans (enter_changes _ _ _).shelf
  have detail : pointDetail t (read16 p1 p0).toNat = pointDetail u (read16 p1 p0).toNat := by
    simp only [pointDetail, State.pointOcc, State.pointState, point]
  rw [State.millOf, changes.elapsed, changes.offset, ← detail, ← listed] at replied
  rw [← listed] at shelf
  refine ⟨t, ht, fun yes => points.trans (kept yes), fun no active => ?_, fun no returned => ?_, fun no quiet => ?_,
    otherPointsSame_of_points others (actingAt_points s d) points, ?_, fun e he at_point => ?_, fun e apart => ?_,
    ?_, answered.lastEntry (enter_last _ _ _ (only.dev.trans running)), replied, within⟩
  · rw [point, first no, whenShelved_unackActive _ active]
    rfl
  · rw [point, first no, whenShelved_returned _ returned]
  · rw [point, first no, whenShelved_quiet _ quiet]
  · rw [shelf]
    exact mem_insertShelve.2 (.inl rfl)
  · rw [shelf] at he
    rcases mem_insertShelve.1 he with he | he
    · exact he
    · exact absurd at_point (mem_withoutEntry.1 he).2
  · rw [shelf, mem_insertShelve, mem_withoutEntry]
    constructor
    · rintro (rfl | he)
      · exact absurd rfl apart
      · exact he.1
    · exact fun he => .inr ⟨he, apart⟩
  · obtain ⟨pre, post, split, rest, before, behind⟩ := insertShelve_placed
      { point := (read16 p1 p0).toNat, badge := x.badge, desk := d
        expiry := after s.elapsed (10 * seconds), reason := reason } (withoutEntry s.shelf (read16 p1 p0).toNat)
    exact ⟨pre, post, shelf.trans split, rest, before, behind⟩

end Sys2Proof.Proofs
end

/-! PROOFS. The end of shelving: UNSHELVE and SHELVE_EXPIRY (spec/03, R49 to R51). -/

section
namespace Sys2Proof.Proofs

open Machine

/-! ## A raise that leaves the loads journals nothing -/

theorem applyLoad_journal {s : State} {a : Area} {l : Nat}
    (same : ((applyLoad s a l).load a).state = (s.load a).state) : (applyLoad s a l).journal = s.journal := by
  rw [(applyLoad_load s a l).2.1] at same
  unfold applyLoad
  dsimp only
  rw [if_pos same]
  rfl

theorem annunciate_journal {s : State} {i : Nat} {old p : Point}
    (same : (annunciate s i old p).loads = s.loads) : (annunciate s i old p).journal = s.journal := by
  generalize hr : ({ s with serial := s.serial + 1 } : State).setPoint i
    { p with state := .unackActive, raiseSerial := s.serial + 1 } = r
  have raised : OnlyChanges [.points, .serial] s r :=
    hr ▸ ((setSerial_changes s (s.serial + 1)).mono (by decide)).trans ((setPoint_changes _ _ _).mono (by decide))
  have weighed := fun h => (applyLoad_journal (s := r) (a := p.cfg.area)
    (l := min Config.saturation ((r.load p.cfg.area).load + r.weight p.cfg.priority)) h).trans raised.journal
  have before := raised.at_load p.cfg.area
  unfold annunciate at same ⊢
  dsimp only at same ⊢
  rw [hr] at same ⊢
  rw [← weightedRaise] at weighed
  split at same
  · rename_i mutes
    rw [if_pos mutes, (handOn_changes _ _ _ _).journal, (setPoint_changes _ _ _).journal,
      (countMuted_changes _ _).journal]
    refine weighed ?_
    have counted : ((countMuted (weightedRaise r p.cfg.area p.cfg.priority) p.cfg.area).load p.cfg.area).state =
        ((weightedRaise r p.cfg.area p.cfg.priority).load p.cfg.area).state := by
      rw [countMuted, setLoad_load]
    rw [before, ← counted]
    rw [(handOn_changes _ _ _ _).loads, (setPoint_changes _ _ _).loads] at same
    simp only [State.load, same]
  · rename_i shown
    rw [if_neg shown, (handOn_changes _ _ _ _).journal]
    refine weighed ?_
    rw [(handOn_changes _ _ _ _).loads] at same
    rw [before]
    simp only [State.load, same]

theorem engineRaise_journal {s : State} {i : Nat} {time : Time} (same : (engineRaise s i time).loads = s.loads) :
    (engineRaise s i time).journal = s.journal := by
  cases h : s.point i with
  | none => simp only [engineRaise, h]
  | some p =>
    simp only [engineRaise, h, freshRaise] at same ⊢
    by_cases folds : p.folds time = true
    · rw [if_pos folds, (foldRaise_changes _ _ _).journal]
    · rw [if_neg folds] at same ⊢
      by_cases quiet : s.wouldBeQuiet p = true
      · rw [if_pos quiet, (quietRaise_changes _ _ _ _).journal]
      · rw [if_neg quiet] at same ⊢
        exact annunciate_journal same

/-! ## What a raise reads of the state before it -/

/-- A raise reads the groups, the parameters, the loads, the serial and the offset, and the other points. -/
theorem raiseTaken_from {s s' t : State} {i : Nat} {p : Point} {time : Time}
    (hc : OnlyChanges [.points, .shelf, .records, .queues, .journal] s s') (others : OtherPointsSame s s' i)
    (h : RaiseTaken s' t i p time) : RaiseTaken s t i p time := by
  have blocks : s'.blocks p = s.blocks p := by
    have group : s'.group = s.group := funext hc.at_group
    simp only [State.blocks, group]
  have quiet : s'.wouldBeQuiet p = s.wouldBeQuiet p := by simp only [State.wouldBeQuiet, blocks]
  have weight : s'.weight p.cfg.priority = s.weight p.cfg.priority := by simp only [State.weight, hc.at_param]
  have eval : s'.evalLoad = s.evalLoad := by
    funext b l
    exact evalLoad_congr hc.params b l
  obtain ⟨folds, quietly, annunciated, head, same⟩ := h
  unfold FoldedRaise at folds
  unfold QuietRaise at quietly
  unfold AnnunciatedRaise at annunciated
  unfold HeadHasRisen at head
  rw [blocks, quiet, hc.at_param, hc.serial, hc.loads] at folds
  rw [blocks, quiet, hc.offset, hc.serial, hc.loads] at quietly
  simp only [quiet, weight, eval, hc.at_param, hc.serial, hc.offset, hc.at_load] at annunciated
  simp only [hc.at_group] at head
  exact ⟨folds, quietly, annunciated, head, fun j hj => (same j hj).trans (others j hj)⟩

theorem raiseTaken_to {s t t' : State} {i : Nat} {p : Point} {time : Time} (hc : OnlyChanges answering t t')
    (h : RaiseTaken s t i p time) : RaiseTaken s t' i p time := by
  obtain ⟨folds, quietly, annunciated, head, same⟩ := h
  unfold FoldedRaise at folds
  unfold QuietRaise at quietly
  unfold AnnunciatedRaise at annunciated
  unfold HeadHasRisen at head
  rw [← hc.at_point, ← hc.serial, ← hc.loads] at folds quietly
  simp only [← hc.at_point, ← hc.serial, ← hc.at_load] at annunciated
  simp only [← hc.at_group] at head
  exact ⟨folds, quietly, annunciated, head, fun j hj => (hc.at_point j).trans (same j hj)⟩

/-! ## The end of shelving (R49) -/

/-- The shelving of a point has ended (R49). -/
def ShelvingEnded (s t : State) (i : Nat) (p : Point) : Prop :=
  (∀ e, e ∈ t.shelf ↔ e ∈ s.shelf ∧ e.point ≠ i) ∧
  (¬(p.cond = .isTrue ∧ p.delivered = true ∧ p.suppressed = false) →
    t.point i = some
      { p with
        shelved := false
        pendingPart :=
          if p.cond = .isFalse ∧ p.state = .ackActive then
            p.pendingPart.map (fun x => { x with afterShelving := true })
          else p.pendingPart } ∧
    OtherPointsSame s t i ∧ t.serial = s.serial ∧ t.loads = s.loads ∧ t.groups = s.groups) ∧
  (p.cond = .isTrue ∧ p.delivered = true ∧ p.suppressed = false →
    RaiseTaken s t i { p with shelved := false } s.elapsed)

theorem ShelvingEnded.of_answering {s t u : State} {i : Nat} {p : Point} (h : ShelvingEnded s t i p)
    (k : OnlyChanges answering t u) : ShelvingEnded s u i p := by
  obtain ⟨shelf, still, raised⟩ := h
  refine ⟨fun e => by rw [k.shelf]; exact shelf e, fun no => ?_, fun yes => raiseTaken_to k (raised yes)⟩
  obtain ⟨here, others, serial, loads, groups⟩ := still no
  exact ⟨(k.at_point i).trans here, fun j hj => (k.at_point j).trans (others j hj), k.serial.trans serial,
    k.loads.trans loads, k.groups.trans groups⟩

/-- The first event: the entry goes and SHELVED clears. -/
theorem unshelvePoint_of {s : State} {i : Nat} {p : Point} (h : s.point i = some p) :
    (unshelvePoint s i).point i = some p.unshelved ∧ OtherPointsSame s (unshelvePoint s i) i ∧
    (unshelvePoint s i).shelf = withoutEntry s.shelf i ∧
    OnlyChanges [.points, .shelf, .records, .queues] s (unshelvePoint s i) := by
  have listed := setShelf_changes s (withoutEntry s.shelf i)
  have unshelve : unshelvePoint s i =
      handOn (({ s with shelf := withoutEntry s.shelf i } : State).setPoint i p.unshelved) i p {} := by
    simp only [unshelvePoint, h]
  rw [unshelve]
  generalize hv : ({ s with shelf := withoutEntry s.shelf i } : State) = v at listed
  have shelf : v.shelf = withoutEntry s.shelf i := hv ▸ rfl
  have set := setPoint_point_of ((listed.at_point i).trans h) p.unshelved
  have handed := handOn_same_changes (old := p) {} set (unshelved_active p)
  have written := setPoint_changes v i p.unshelved
  exact ⟨(handed.at_point i).trans set,
    fun j hj => (handed.at_point j).trans ((setPoint_point_ne _ _ hj).trans (listed.at_point j)),
    handed.shelf.trans (written.shelf.trans shelf),
    (listed.mono (by decide)).trans ((written.mono (by decide)).trans (handed.mono (by decide)))⟩

/-- The fields that an end of shelving changes. -/
def shelvingFields : List Field := [.points, .shelf, .serial, .groups, .loads, .records, .queues, .journal]

/-- Both events of the end of shelving, with the journal entry that closes the first. -/
theorem shelving_ends {s : State} {i : Nat} {p : Point} (h : s.point i = some p) (k : JournalKind) (f : EntryFields) :
    let u := raiseAfterShelving ((unshelvePoint s i).enter k f) i
    ShelvingEnded s u i p ∧ (s.dev = .running → u.loads = s.loads → LastEntry u k f) ∧
    OnlyChanges shelvingFields s u := by
  obtain ⟨here, others, shelf, changes⟩ := unshelvePoint_of h
  have entered := enter_changes (unshelvePoint s i) k f
  have last := fun running : s.dev = .running => enter_last (unshelvePoint s i) k f (changes.dev.trans running)
  generalize (unshelvePoint s i).enter k f = v at entered last
  have first : OnlyChanges [.points, .shelf, .records, .queues, .journal] s v :=
    (changes.mono (by decide)).trans (entered.mono (by decide))
  have before : v.point i = some p.unshelved := (entered.at_point i).trans here
  have apart : OtherPointsSame s v i := fun j hj => (entered.at_point j).trans (others j hj)
  have listed : v.shelf = withoutEntry s.shelf i := entered.shelf.trans shelf
  dsimp only
  by_cases stands : p.cond = .isTrue ∧ p.delivered = true ∧ p.suppressed = false
  · have raises : raiseAfterShelving v i = engineRaise v i v.elapsed := by
      rw [raiseAfterShelving, before]
      exact if_pos stands
    rw [raises]
    have engine := engineRaise_changes v i v.elapsed
    have taken := engineRaise_taken v.elapsed before
    rw [unshelved_of_standing stands.1] at taken
    refine ⟨⟨fun e => ?_, fun no => absurd stands no, fun _ => ?_⟩, fun running same => ?_,
      (first.mono (by decide)).trans (engine.mono (by decide))⟩
    · rw [engine.shelf, listed, mem_withoutEntry]
    · rw [← first.elapsed]
      exact raiseTaken_from first apart taken
    · have kept := engineRaise_journal (same.trans first.loads.symm)
      have entry := last running
      unfold LastEntry at entry ⊢
      rw [kept, engine.mill]
      exact entry
  · have quiet : raiseAfterShelving v i = v := by
      rw [raiseAfterShelving, before]
      exact if_neg stands
    rw [quiet]
    exact ⟨⟨fun e => by rw [listed, mem_withoutEntry], fun _ => ⟨before, apart, first.serial, first.loads,
      first.groups⟩, fun yes => absurd yes stands⟩, fun running _ => last running, first.mono (by decide)⟩

theorem unshelve_ends (d : Desk) (p1 p0 tag : Byte) (x : Session) (p : Point) (e : ShelveEntry) (s : State)
    (may : MayActOn s d x .shelve (read16 p1 p0).toNat p)
    (held : s.shelf.find? (·.point == (read16 p1 p0).toNat) = some e) :
    ∃ t, exec (.unshelve (deskPort d) tag [p1, p0]) s = .next t ∧
      ShelvingEnded (actingAt s d) t (read16 p1 p0).toNat p ∧
      Replied (actingAt s d) t (deskPort d) .unshelve tag (done [] (pointDetail t (read16 p1 p0).toNat)) ∧
      (t.loads = s.loads → LastEntry t .unshelve
        { port := some (deskPort d), badge := some x.badge, area := some p.cfg.area
          point := some (read16 p1 p0).toNat, occ := p.occ
          detail := detail24 e.reason (remaining s.elapsed e.expiry / 10) }) ∧
      OnlyChanges (answering ++ shelvingFields) (actingAt s d) t := by
  have changes := actingAt_desk_changes s d
  have running := actingAt_running (d := d) may.operator.taking.running
  have badge : (s.touched d x).badge = x.badge := rfl
  obtain ⟨ended, last, only⟩ := shelving_ends ((actingAt_point s d _).trans may.point) .unshelve
    { port := some (deskPort d), badge := some x.badge, area := some p.cfg.area
      point := some (read16 p1 p0).toNat, occ := p.occ
      detail := detail24 e.reason (remaining s.elapsed e.expiry / 10) }
  generalize hu : raiseAfterShelving ((unshelvePoint (actingAt s d) (read16 p1 p0).toNat).enter .unshelve
    { port := some (deskPort d), badge := some x.badge, area := some p.cfg.area
      point := some (read16 p1 p0).toNat, occ := p.occ
      detail := detail24 e.reason (remaining s.elapsed e.expiry / 10) }) (read16 p1 p0).toNat = u at ended last only
  have rule : unshelveRule d [p1, p0] (heardAt s (deskPort d)) =
      (u, done [] (pointDetail u (read16 p1 p0).toNat)) := by
    simp only [unshelveRule, onPoint_acting may (limit := noLimit) rfl, State.shelveEntry, changes.shelf, held,
      changes.elapsed, badge, hu]
  obtain ⟨t, ht, replied, within, answered⟩ := request_done may.operator.taking .unshelve tag (by simp [maxBody])
    false unshelveRule rule only only.ports
  have detail : pointDetail t (read16 p1 p0).toNat = pointDetail u (read16 p1 p0).toNat := by
    simp only [pointDetail, State.pointOcc, State.pointState, answered.at_point]
  exact ⟨t, ht, ended.of_answering answered, detail ▸ replied, fun same => answered.lastEntry
    (last running (answered.loads.symm.trans (same.trans changes.loads.symm))), within⟩

theorem shelveExpiry_ends (e : ShelveEntry) (rest : List ShelveEntry) (p : Point) (s : State)
    (first : s.shelf = e :: rest) (due : reached s.elapsed e.expiry = true) (hp : s.point e.point = some p) :
    ∃ t, exec .shelveExpiry s = .next t ∧ ShelvingEnded s t e.point p ∧
      (s.dev = .running → t.loads = s.loads → LastEntry t .shelveExpired
        { port := some (deskPort e.desk), badge := some e.badge, point := some e.point
          occ := p.occ, detail := detail4 e.reason 0#8 0#8 0#8 }) ∧
      OnlyChanges (shelvingFields ++ [.horns, .attention]) s t := by
  obtain ⟨ended, last, only⟩ := shelving_ends hp .shelveExpired
    { port := some (deskPort e.desk), badge := some e.badge, point := some e.point
      occ := p.occ, detail := detail4 e.reason 0#8 0#8 0#8 }
  have occ : s.pointOcc e.point = p.occ := by simp only [State.pointOcc, hp]
  have expired : shelveExpired s = raiseAfterShelving ((unshelvePoint s e.point).enter .shelveExpired
      { port := some (deskPort e.desk), badge := some e.badge, point := some e.point
        occ := p.occ, detail := detail4 e.reason 0#8 0#8 0#8 }) e.point := by
    simp only [shelveExpired, first, due, if_true, occ]
  rw [← expired] at ended last only
  have settled := settle_changes (shelveExpired s)
  exact ⟨settle (shelveExpired s), rfl, ended.of_answering (settled.mono (by decide)), fun running same =>
    settled.lastEntry (last running (settled.loads.symm.trans same)),
    (only.mono (by decide)).trans (settled.mono (by decide))⟩

/-- Settles O38: both ends of shelving are one pair of events. -/
theorem shelvingEnds : Obligations.ShelvingEnds := ⟨unshelve_ends, shelveExpiry_ends⟩

end Sys2Proof.Proofs
end

/-! PROOFS. SET OUT OF SERVICE and RETURN TO SERVICE (spec/03, R54, R55). -/

section
namespace Sys2Proof.Proofs

open Machine

/-! ## What a fall of a head reads -/

/-- A fall of a head reads the groups, the points and the elapsed time before it and the groups after. -/
theorem headHasFallen_congr {s s' t t' : State} {i : Nat} {p q : Point} (groups : s'.groups = s.groups)
    (points : s'.points = s.points) (elapsed : s'.elapsed = s.elapsed) (after : t'.groups = t.groups)
    (h : HeadHasFallen s' t i p q) : HeadHasFallen s t' i p q := by
  have group : ∀ g, s'.group g = s.group g := fun g => by simp only [State.group, groups]
  have group' : ∀ g, t.group g = t'.group g := fun g => by simp only [State.group, after]
  have point : ∀ j, s'.point j = s.point j := fun j => by simp only [State.point, points]
  unfold HeadHasFallen at h ⊢
  simp only [group, group', point, elapsed] at h
  exact h

theorem onlyReleases_congr {s s' t t' : State} {i : Nat} (before : s'.points = s.points)
    (after : t'.points = t.points) (h : OnlyReleases s' t i) : OnlyReleases s t' i := by
  intro j hj
  have := h j hj
  simpa only [State.point, before, after] using this

/-! ## SET OUT OF SERVICE -/

theorem outOfService_active (p : Point) : p.outOfService.active = false := rfl

/-- The point is taken out, and its group is told. -/
theorem outOfService_handed {s : State} {i : Nat} {p : Point} (h : s.point i = some p) :
    let u := handOn (({ s with shelf := withoutEntry s.shelf i } : State).setPoint i p.outOfService) i p {}
    u.point i = some p.outOfService ∧ OnlyReleases s u i ∧ HeadHasFallen s u i p p.outOfService ∧
    u.shelf = withoutEntry s.shelf i ∧ OnlyChanges [.points, .shelf, .groups, .records, .queues] s u := by
  have listed := setShelf_changes s (withoutEntry s.shelf i)
  generalize hv : ({ s with shelf := withoutEntry s.shelf i } : State) = v at listed
  have shelf : v.shelf = withoutEntry s.shelf i := hv ▸ rfl
  have set := setPoint_point_of ((listed.at_point i).trans h) p.outOfService
  have handed := handOn_changes (v.setPoint i p.outOfService) i p {}
  have written := setPoint_changes v i p.outOfService
  have fallen := (handOn_falling (old := p) {} set rfl
    (fun active => absurd active (by rw [outOfService_active]; decide))).of_setPoint
  exact ⟨handOn_self {} set (.inr rfl), onlyReleases_congr listed.points rfl (releases_of_handOn v i p {} p.outOfService),
    headHasFallen_congr listed.groups listed.points listed.elapsed rfl fallen,
    handed.shelf.trans (written.shelf.trans shelf),
    (listed.mono (by decide)).trans ((written.mono (by decide)).trans (handed.mono (by decide)))⟩

theorem setOutOfService_takes (d : Desk) (p1 p0 reason tag : Byte) (x : Session) (p : Point) (s : State)
    (may : MayActOn s d x .service (read16 p1 p0).toNat p) (service : p.inService = true) :
    ∃ t, exec (.setOutOfService (deskPort d) tag [p1, p0, reason]) s = .next t ∧
      t.point (read16 p1 p0).toNat = some p.outOfService ∧ OnlyReleases s t (read16 p1 p0).toNat ∧
      HeadHasFallen s t (read16 p1 p0).toNat p p.outOfService ∧
      (∀ e, e ∈ t.shelf ↔ e ∈ s.shelf ∧ e.point ≠ (read16 p1 p0).toNat) ∧
      LastEntry t .outOfService
        { port := some (deskPort d), badge := some x.badge, area := some p.cfg.area
          point := some (read16 p1 p0).toNat, occ := p.occ
          detail := detail4 reason p.state.code (if p.shelved then 0x80#8 else 0#8) 0#8 } ∧
      Replied (actingAt s d) t (deskPort d) .setOutOfService tag
        (done [] (num16 (read16 p1 p0).toNat ++ be16 p.occ ++ [0#8])) ∧
      OnlyChanges (answering ++ [.points, .shelf, .groups, .records, .queues, .journal]) (actingAt s d) t := by
  have changes := actingAt_desk_changes s d
  have running := actingAt_running (d := d) may.operator.taking.running
  have badge : (s.touched d x).badge = x.badge := rfl
  have shelvedByte : bitByte [false, false, false, false, false, false, false, p.shelved] =
      if p.shelved then 0x80#8 else 0#8 := by cases p.shelved <;> rfl
  obtain ⟨here, releases, fallen, shelf, only⟩ := outOfService_handed ((actingAt_point s d _).trans may.point)
  generalize hu : handOn (({ actingAt s d with
    shelf := withoutEntry (actingAt s d).shelf (read16 p1 p0).toNat } : State).setPoint (read16 p1 p0).toNat
      p.outOfService) (read16 p1 p0).toNat p {} = u at here releases fallen shelf only
  have rule : setOutOfServiceRule d [p1, p0, reason] (heardAt s (deskPort d)) =
      (u.enter .outOfService
        { port := some (deskPort d), badge := some x.badge, area := some p.cfg.area
          point := some (read16 p1 p0).toNat, occ := p.occ
          detail := detail4 reason p.state.code (if p.shelved then 0x80#8 else 0#8) 0#8 },
        done [] (num16 (read16 p1 p0).toNat ++ be16 p.occ ++ [0#8])) := by
    simp only [setOutOfServiceRule, onPoint_acting may (limit := noLimit) rfl, service, Bool.not_true,
      Bool.false_eq_true, if_false, hu, badge, shelvedByte, pointDetail_of here]
    rfl
  have made := (only.mono (U := [.points, .shelf, .groups, .records, .queues, .journal]) (by decide)).trans
    ((enter_changes u .outOfService
      { port := some (deskPort d), badge := some x.badge, area := some p.cfg.area
        point := some (read16 p1 p0).toNat, occ := p.occ
        detail := detail4 reason p.state.code (if p.shelved then 0x80#8 else 0#8) 0#8 }).mono (by decide))
  obtain ⟨t, ht, replied, within, answered⟩ := request_done may.operator.taking .setOutOfService tag
    (by simp [maxBody]) false setOutOfServiceRule rule made made.ports
  have entered := enter_changes u .outOfService
    { port := some (deskPort d), badge := some x.badge, area := some p.cfg.area
      point := some (read16 p1 p0).toNat, occ := p.occ
      detail := detail4 reason p.state.code (if p.shelved then 0x80#8 else 0#8) 0#8 }
  have listed : t.shelf = withoutEntry s.shelf (read16 p1 p0).toNat := by
    rw [answered.shelf, entered.shelf, shelf, changes.shelf]
  exact ⟨t, ht, (answered.at_point _).trans ((entered.at_point _).trans here),
    onlyReleases_congr changes.points (answered.points.trans entered.points) releases,
    headHasFallen_congr changes.groups changes.points changes.elapsed (answered.groups.trans entered.groups) fallen,
    fun e => by rw [listed, mem_withoutEntry], answered.lastEntry (enter_last _ _ _ (only.dev.trans running)),
    replied, within⟩

/-! ## RETURN TO SERVICE -/

/-- The point is brought back, which no group is told of: out of service it is NORMAL. -/
theorem inService_handed {s : State} {i : Nat} {p : Point} (h : s.point i = some p) (out : p.inService = false)
    (normal : p.state = .normal) :
    let u := handOn (s.setPoint i { p with inService := true }) i p {}
    u.point i = some { p with inService := true } ∧ OtherPointsSame s u i ∧
    OnlyChanges [.points, .records, .queues] s u := by
  have set := setPoint_point_of h { p with inService := true }
  have handed := handOn_same_changes (old := p) {} set (by simp only [Point.active, normal, out]; rfl)
  exact ⟨(handed.at_point i).trans set, fun j hj => (handed.at_point j).trans (setPoint_point_ne _ _ hj),
    ((setPoint_changes _ _ _).mono (by decide)).trans (handed.mono (by decide))⟩

/-- A raise at a point that stands is delivered and taken (R20, R26). -/
theorem deliverEvent_raise {s : State} {i : Nat} {q : Point} (h : s.point i = some q) (time : Time) (b : Bool) :
    RaiseTaken s (deliverEvent s i true time b) i { q with delivered := true } time := by
  have delivers : deliverEvent s i true time b = engineRaise (s.setPoint i { q with delivered := true }) i time := by
    simp only [deliverEvent, h, if_true]
  rw [delivers]
  exact raiseTaken_from ((setPoint_changes _ _ _).mono (by decide)) (fun j hj => setPoint_point_ne _ _ hj)
    (engineRaise_taken time (setPoint_point_of h _))

theorem returnToService_brings (d : Desk) (p1 p0 tag : Byte) (x : Session) (p : Point) (s : State)
    (may : MayActOn s d x .service (read16 p1 p0).toNat p) (out : p.inService = false) (sound : PointsSound s) :
    ∃ t, exec (.returnToService (deskPort d) tag [p1, p0]) s = .next t ∧
      (p.cond ≠ .isTrue →
        t.point (read16 p1 p0).toNat = some { p with inService := true } ∧
        OtherPointsSame s t (read16 p1 p0).toNat ∧ t.groups = s.groups ∧
        LastEntry t .inService
          { port := some (deskPort d), badge := some x.badge, area := some p.cfg.area
            point := some (read16 p1 p0).toNat, occ := p.occ }) ∧
      (p.cond = .isTrue → RaiseTaken (actingAt s d) t (read16 p1 p0).toNat
        { p with inService := true, delivered := true } s.elapsed) ∧
      Replied (actingAt s d) t (deskPort d) .returnToService tag
        (done [] (pointDetail t (read16 p1 p0).toNat)) ∧
      OnlyChanges (answering ++ [.points, .serial, .groups, .loads, .records, .queues, .journal])
        (actingAt s d) t := by
  have changes := actingAt_desk_changes s d
  have running := actingAt_running (d := d) may.operator.taking.running
  have badge : (s.touched d x).badge = x.badge := rfl
  obtain ⟨here, others, only⟩ := inService_handed ((actingAt_point s d _).trans may.point) out
    ((sound _ p may.point).idle out).1
  generalize hu : handOn ((actingAt s d).setPoint (read16 p1 p0).toNat { p with inService := true })
    (read16 p1 p0).toNat p {} = u at here others only
  have entered := enter_changes u .inService
    { port := some (deskPort d), badge := some x.badge, area := some p.cfg.area
      point := some (read16 p1 p0).toNat, occ := p.occ }
  have last := enter_last u .inService
    { port := some (deskPort d), badge := some x.badge, area := some p.cfg.area
      point := some (read16 p1 p0).toNat, occ := p.occ } (only.dev.trans running)
  generalize hv : u.enter .inService
    { port := some (deskPort d), badge := some x.badge, area := some p.cfg.area
      point := some (read16 p1 p0).toNat, occ := p.occ } = v at entered last
  have before : v.point (read16 p1 p0).toNat = some { p with inService := true } := (entered.at_point _).trans here
  have apart : OtherPointsSame (actingAt s d) v (read16 p1 p0).toNat := fun j hj =>
    (entered.at_point j).trans (others j hj)
  have first : OnlyChanges [.points, .shelf, .records, .queues, .journal] (actingAt s d) v :=
    (only.mono (by decide)).trans (entered.mono (by decide))
  have rule : returnToServiceRule d [p1, p0] (heardAt s (deskPort d)) =
      (raiseOnReturn v (read16 p1 p0).toNat,
        done [] (pointDetail (raiseOnReturn v (read16 p1 p0).toNat) (read16 p1 p0).toNat)) := by
    simp only [returnToServiceRule, onPoint_acting may (limit := noLimit) rfl, out, Bool.false_eq_true, if_false, hu,
      badge, hv]
  have raised : OnlyChanges engineFields v (raiseOnReturn v (read16 p1 p0).toNat) := by
    unfold raiseOnReturn
    rw [before]
    dsimp only
    split
    · exact deliverEvent_changes _ _ _ _ _
    · exact .refl v
  have made : OnlyChanges [.points, .serial, .groups, .loads, .records, .queues, .journal] (actingAt s d)
      (raiseOnReturn v (read16 p1 p0).toNat) :=
    (only.mono (by decide)).trans ((entered.mono (by decide)).trans (raised.mono (by decide)))
  obtain ⟨t, ht, replied, within, answered⟩ := request_done may.operator.taking .returnToService tag
    (by simp [maxBody]) false returnToServiceRule rule made made.ports
  have detail : pointDetail t (read16 p1 p0).toNat =
      pointDetail (raiseOnReturn v (read16 p1 p0).toNat) (read16 p1 p0).toNat := by
    simp only [pointDetail, State.pointOcc, State.pointState, answered.at_point]
  refine ⟨t, ht, fun quiet => ?_, fun stands => ?_, detail ▸ replied, within⟩
  · have still : raiseOnReturn v (read16 p1 p0).toNat = v := by
      rw [raiseOnReturn, before]
      exact if_neg quiet
    rw [still] at answered
    exact ⟨(answered.at_point _).trans before, fun j hj => (answered.at_point j).trans ((apart j hj).trans
      (actingAt_point s d j)), answered.groups.trans (first.groups.trans changes.groups), answered.lastEntry last⟩
  · have raises : raiseOnReturn v (read16 p1 p0).toNat = deliverEvent v (read16 p1 p0).toNat true v.elapsed := by
      rw [raiseOnReturn, before]
      exact if_pos stands
    rw [raises] at answered
    have taken := raiseTaken_to answered (raiseTaken_from first apart (deliverEvent_raise before v.elapsed false))
    rw [first.elapsed, changes.elapsed] at taken
    exact taken

/-- Settles O39: the point is taken out and brought back, the first telling its group and the second not. -/
theorem serviceIsSet : Obligations.ServiceIsSet := ⟨setOutOfService_takes, returnToService_brings⟩

end Sys2Proof.Proofs
end

/-! PROOFS. The expiry of a pending part and the release of a group (spec/01, spec/03). -/

section
namespace Sys2Proof.Proofs

open Machine

/-! ## PENDING_EXPIRY -/

/-- A fall of a head reads the points other than the head from the state before it. -/
theorem headHasFallen_from {s s' t : State} {i : Nat} {p q : Point} (groups : s'.groups = s.groups)
    (elapsed : s'.elapsed = s.elapsed) (others : OtherPointsSame s s' i) (h : HeadHasFallen s' t i p q) :
    HeadHasFallen s t i p q := by
  have group : ∀ g, s'.group g = s.group g := fun g => by simp only [State.group, groups]
  have held : ∀ m, (if m = i then q.suppressed else (s'.point m).any (·.suppressed)) =
      if m = i then q.suppressed else (s.point m).any (·.suppressed) := by
    intro m
    by_cases e : m = i
    · rw [if_pos e, if_pos e]
    · rw [if_neg e, if_neg e, others m e]
  unfold HeadHasFallen at h ⊢
  simp only [group, held, elapsed] at h
  exact h

/-- The state of the table of R33, with the row of R49. -/
theorem returnState_of (p : Point) (b : Bool) : p.returnState b =
    if p.state = .unackActive then
      if p.cfg.mode = .standard ∨ p.cfg.mode = .latching then .unackReturned else .normal
    else if p.state = .ackActive then
      if p.cfg.mode = .latching ∧ p.acked = true ∧ p.suppressed = false ∧ p.shelved = false ∧ ¬ b = true then
        .latched
      else .normal
    else p.state := by
  cases h : p.state with
  | normal => simp [Point.returnState, h]
  | unackReturned => simp [Point.returnState, h]
  | latched => simp [Point.returnState, h]
  | unackActive =>
    cases m : p.cfg.mode <;> simp [Point.returnState, h, m]
  | ackActive =>
    simp only [Point.returnState, h]
    cases b <;> cases p.suppressed <;> cases p.shelved <;> cases p.acked <;> simp

/-- A return at a point that stands is delivered and taken (R20, R33). -/
theorem deliverEvent_return {s : State} {i : Nat} {p : Point} (h : s.point i = some p) (time : Time) (b : Bool)
    (apart : ∀ g x, p.cfg.headOf = some g → s.group g = some x → i ∉ x.members) :
    let q := ({ p with delivered := false } : Point).returned time b
    (deliverEvent s i false time b).point i = some q ∧ OnlyReleases s (deliverEvent s i false time b) i ∧
    HeadHasFallen s (deliverEvent s i false time b) i p q ∧
    OnlyChanges [.points, .groups, .records, .queues] s (deliverEvent s i false time b) := by
  have written := setPoint_changes s i { p with delivered := false }
  have delivers : deliverEvent s i false time b =
      engineReturn (s.setPoint i { p with delivered := false }) i time b := by
    simp only [deliverEvent, h, Bool.false_eq_true, if_false]
  rw [delivers]
  obtain ⟨here, releases, fallen⟩ := engineReturn_taken (p := { p with delivered := false }) time b
    (setPoint_point_of h _) fun g x hg hx => apart g x hg ((written.at_group g).symm.trans hx)
  refine ⟨here, fun j hj => ?_, ?_, (written.mono (by decide)).trans
    ((engineReturn_changes _ i time b).mono (by decide))⟩
  · rw [← setPoint_point_ne s { p with delivered := false } hj]
    exact releases j hj
  · exact headHasFallen_from (s' := s.setPoint i { p with delivered := false }) written.groups written.elapsed
      (fun j hj => setPoint_point_ne _ _ hj) fallen

/-- Settles O40: the pending part is taken from the point, and its event is delivered. -/
theorem pendingPartDelivers : Obligations.PendingPartDelivers := by
  intro i p part s h pending due
  have written := setPoint_changes s i { p with pendingPart := none }
  have before := setPoint_point_of h { p with pendingPart := none }
  have apart : OtherPointsSame s (s.setPoint i { p with pendingPart := none }) i := fun j hj =>
    setPoint_point_ne _ _ hj
  have expired : pendingExpired s i = deliverEvent (s.setPoint i { p with pendingPart := none }) i part.raise
      part.expiry (part.afterShelving && Config.normalAfterShelving) := by
    simp only [pendingExpired, h, pending, due, if_true]
  have settled := settle_changes (pendingExpired s i)
  have delivered := deliverEvent_changes (s.setPoint i { p with pendingPart := none }) i part.raise part.expiry
    (part.afterShelving && Config.normalAfterShelving)
  refine ⟨settle (pendingExpired s i), rfl, fun raise => ?_, fun ret heads => ?_,
    (written.mono (by decide)).trans (((expired ▸ delivered).mono (by decide)).trans (settled.mono (by decide)))⟩
  · refine raiseTaken_to (settled.mono (by decide)) (raiseTaken_from (written.mono (by decide)) apart ?_)
    rw [expired, raise]
    exact deliverEvent_raise before _ _
  · dsimp only
    rw [ret] at expired
    obtain ⟨here, releases, fallen, changes⟩ := deliverEvent_return before part.expiry
      (part.afterShelving && Config.normalAfterShelving)
      fun g x hg hx => heads i p g x h hg ((written.at_group g).symm.trans hx)
    rw [← expired] at here releases fallen changes
    have point : ∀ j, (settle (pendingExpired s i)).point j = (pendingExpired s i).point j := settled.at_point
    rw [Point.returned, returnState_of] at here fallen
    simp only [Bool.and_eq_true] at here fallen
    refine ⟨(point i).trans here, fun j hj => ?_, ?_, ?_, ?_, ?_⟩
    · rw [point, ← apart j hj]
      exact releases j hj
    · exact headHasFallen_congr rfl rfl rfl settled.groups (headHasFallen_from written.groups written.elapsed apart
        fallen)
    · exact settled.serial.trans (changes.serial.trans written.serial)
    · exact settled.loads.trans (changes.loads.trans written.loads)
    · exact settled.journal.trans (changes.journal.trans written.journal)

/-! ## The release of a group -/

/-- Settles O41: the release of a group, and the further event of the first member it is owed to. -/
theorem groupReleases : Obligations.GroupReleases := by
  refine ⟨fun g x e s hg releasing expiry due => ?_, fun g x m rest p s hg owed hm => ?_⟩
  · have expired : releaseExpired s g = releaseGroup s g x := by
      simp only [releaseExpired, hg, releasing, expiry, reachedOpt, due, and_self, if_true]
    have settled := settle_changes (releaseExpired s g)
    rw [expired] at settled
    refine ⟨settle (releaseExpired s g), rfl, ?_⟩
    rw [expired]
    refine ⟨(settled.at_group g).trans (releaseGroup_group s g x), fun h hh =>
      (settled.at_group h).trans (releaseGroup_group_ne s x hh), fun m hm => ?_, fun m hm => ?_,
      ((releaseGroup_changes s g x).mono (by decide)).trans (settled.mono (by decide))⟩
    · rw [settled.at_point, releaseGroup_point, if_pos hm]
      rfl
    · rw [settled.at_point, releaseGroup_point, if_neg hm]
  · have written := setGroup_changes s g { x with owed := rest }
    have hm' : (s.setGroup g { x with owed := rest }).point m = some p := (written.at_point m).trans hm
    have released : memberReleased s g = raiseReleased (s.setGroup g { x with owed := rest }) m := by
      simp only [memberReleased, hg, owed]
    have settled := settle_changes (memberReleased s g)
    by_cases stands : p.cond = .isTrue ∧ p.delivered = true ∧ p.shelved = false ∧ p.inService = true
    · have raises : memberReleased s g = engineRaise (s.setGroup g { x with owed := rest }) m s.elapsed := by
        rw [released, raiseReleased, hm']
        exact if_pos stands
      refine ⟨settle (memberReleased s g), rfl, fun _ => ?_, fun no => absurd stands no, ?_⟩
      · refine raiseTaken_to (settled.mono (by decide)) ?_
        rw [raises]
        exact engineRaise_taken s.elapsed hm'
      · rw [raises] at settled ⊢
        exact (written.mono (by decide)).trans (((engineRaise_changes _ m s.elapsed).mono (by decide)).trans
          (settled.mono (by decide)))
    · have still : memberReleased s g = s.setGroup g { x with owed := rest } := by
        rw [released, raiseReleased, hm']
        exact if_neg stands
      rw [still] at settled
      refine ⟨settle (memberReleased s g), rfl, fun yes => absurd yes stands, fun _ => ?_, ?_⟩
      · rw [still]
        exact ⟨(settled.at_group g).trans (setGroup_group _ _ _), settled.points, settled.serial, settled.loads,
          settled.queues, fun h hh => (settled.at_group h).trans (setGroup_group_ne _ _ hh)⟩
      · rw [still]
        exact (written.mono (by decide)).trans (settled.mono (by decide))

end Sys2Proof.Proofs
end

/-! PROOFS. CLAIM AREA and RELEASE AREA (spec/08, R135, R136). -/

section
namespace Sys2Proof.Proofs

open Machine

/-! ## A change of one area's owner -/

theorem inSet_onlyArea (a b : Area) : inSet (onlyArea a) b = decide (b = a) := by
  revert a b
  decide

/-- What a change of one area's owner leaves of the areas (R132, R135, R136). -/
def OwnerMoved (s t : State) (a : Area) (owner : Option Party) : Prop :=
  (∃ r r', s.area a = some r ∧ t.area a = some r' ∧ r'.owner = owner ∧ r'.link = r.link ∧
    r'.nameIndex = r.nameIndex ∧ r'.attendance = s.deriveAttendance owner) ∧
  (∀ b, b ≠ a → (t.area b).map (fun r => (r.nameIndex, r.owner, r.link)) =
    (s.area b).map (fun r => (r.nameIndex, r.owner, r.link)))

theorem OwnerMoved.of_map {s t u : State} {a : Area} {owner : Option Party} (h : OwnerMoved s t a owner)
    (k : u.map = t.map) : OwnerMoved s u a owner := by
  have area : ∀ b, u.area b = t.area b := fun b => by simp only [State.area, k]
  unfold OwnerMoved at h ⊢
  simp only [area]
  exact h

theorem changeOwner_moves {s : State} {a : Area} {r : AreaRecord} (h : s.area a = some r) (owner : Option Party) :
    OwnerMoved s (changeOwner s (onlyArea a) (fun r => { r with owner := owner })) a owner ∧
    (changeOwner s (onlyArea a) (fun r => { r with owner := owner })).attendance a =
      some (s.deriveAttendance owner) := by
  have moved : (changeOwner s (onlyArea a) (fun r => { r with owner := owner })).area a =
      some { r with owner := owner, attendance := s.deriveAttendance owner } := by
    rw [changeOwner_area, inSet_onlyArea, decide_eq_true rfl, if_pos rfl, h]
    rfl
  refine ⟨⟨⟨r, _, h, moved, rfl, rfl, rfl, rfl⟩, fun b hb => ?_⟩, ?_⟩
  · rw [changeOwner_area, inSet_onlyArea, decide_eq_false hb, if_neg (by decide)]
    cases s.area b <;> rfl
  · rw [State.attendance, moved]
    rfl

theorem definedArea_isSome {s : State} {b : Byte} {a : Area} (h : s.definedArea b = some a) :
    (s.area a).isSome = true := by
  unfold State.definedArea at h
  cases hb : areaOf b with
  | none => rw [hb] at h; cases h
  | some c =>
    rw [hb, Option.bind_some] at h
    split at h
    · rename_i hc
      exact Option.some.inj h ▸ hc
    · cases h

/-- The record of a defined area once the interaction is recorded. -/
theorem actingAt_area {s : State} {b : Byte} {a : Area} (h : s.definedArea b = some a) (d : Desk) :
    ∃ r, (actingAt s d).area a = some r := by
  rw [← Option.isSome_iff_exists, (actingAt_owners s d).defined]
  exact definedArea_isSome h

theorem claim_moves (c : Console) (b tag : Byte) (a : Area) (x : Session) (s : State)
    (op : Operator s (consoleDesk c) x) (ha : s.definedArea b = some a) (takes : (s.roleOf x).permits .take a = true)
    (views : (s.roleOf x).permits .view a = true) (reaches : s.reaches (consoleDesk c) a = true)
    (unlinked : (actingAt s (consoleDesk c)).linked a = false) (unowned : s.owner a = none) :
    ∃ t, exec (.claimArea (deskPort (consoleDesk c)) tag [b]) s = .next t ∧
      OwnerMoved (actingAt s (consoleDesk c)) t a (some { console := c, badge := x.badge }) ∧
      LastEntry t .claim { port := some (deskPort (consoleDesk c)), badge := some x.badge, area := some a } ∧
      Replied (actingAt s (consoleDesk c)) t (deskPort (consoleDesk c)) .claimArea tag
        (done [] ([b, ((actingAt s (consoleDesk c)).deriveAttendance
            (some { console := c, badge := x.badge })).code] ++ num16 (s.listablePoints a).length)) ∧
      OnlyChanges (answering ++ [.map, .queues, .journal]) (actingAt s (consoleDesk c)) t := by
  have running := actingAt_running (d := consoleDesk c) op.taking.running
  have badge : (s.touched (consoleDesk c) x).badge = x.badge := rfl
  obtain ⟨r, hr⟩ := actingAt_area ha (consoleDesk c)
  obtain ⟨moved, attendance⟩ := changeOwner_moves hr (some { console := c, badge := x.badge })
  have changed := changeOwner_changes (actingAt s (consoleDesk c)) (onlyArea a)
    (fun r => { r with owner := some { console := c, badge := x.badge } })
  generalize hu : changeOwner (actingAt s (consoleDesk c)) (onlyArea a)
    (fun r => { r with owner := some { console := c, badge := x.badge } }) = u at moved attendance changed
  have listed : u.listablePoints a = s.listablePoints a := by
    simp only [State.listablePoints, changed.points, actingAt_points]
  have rule : claimAreaRule (consoleDesk c) [b] (heardAt s (deskPort (consoleDesk c))) =
      (u.enter .claim { port := some (deskPort (consoleDesk c)), badge := some x.badge, area := some a },
        done [] ([b, ((actingAt s (consoleDesk c)).deriveAttendance
          (some { console := c, badge := x.badge })).code] ++ num16 (s.listablePoints a).length)) := by
    simp only [claimAreaRule, heardAt_desk_definedArea, ha, withSession_acting op.session, deskConsole_consoleDesk,
      actingAt_roleOf, takes, views, Bool.and_self, Bool.not_true, Bool.false_eq_true, if_false, actingAt_reaches,
      reaches, unlinked, actingAt_owner, unowned, Option.isSome_none, badge, hu, attendance, Option.getD_some, listed]
  have made := changed.trans ((enter_changes u .claim
    { port := some (deskPort (consoleDesk c)), badge := some x.badge, area := some a }).mono (by decide))
  obtain ⟨t, ht, replied, within, answered⟩ := request_done op.taking .claimArea tag (by simp [maxBody]) false
    claimAreaRule rule made made.ports
  exact ⟨t, ht, moved.of_map (answered.map.trans (enter_changes _ _ _).map),
    answered.lastEntry (enter_last _ _ _ (changed.dev.trans running)), replied, within⟩

theorem release_moves (b tag : Byte) (a : Area) (former : Party) (x : Session) (s : State)
    (sup : Supervisor s x .supervise) (ha : s.definedArea b = some a)
    (unlinked : (actingAt s supervisor).linked a = false) (owned : s.owner a = some former) :
    ∃ t, exec (.releaseArea (deskPort supervisor) tag [b]) s = .next t ∧
      OwnerMoved (actingAt s supervisor) t a none ∧
      (∃ before, (actingAt s supervisor).attendance a = some before ∧
        LastEntry t .release
          { port := some (deskPort supervisor), badge := some x.badge, area := some a
            detail := detail4 (byte former.console) before.code 0#8 0#8 }) ∧
      Replied (actingAt s supervisor) t (deskPort supervisor) .releaseArea tag
        (done [] (byte former.console :: be32 former.badge)) ∧
      OnlyChanges (answering ++ [.map, .queues, .journal]) (actingAt s supervisor) t := by
  have running := actingAt_running (d := supervisor) sup.operator.taking.running
  have badge : (s.touched supervisor x).badge = x.badge := rfl
  obtain ⟨r, hr⟩ := actingAt_area ha supervisor
  obtain ⟨moved, _⟩ := changeOwner_moves hr none
  have changed := changeOwner_changes (actingAt s supervisor) (onlyArea a) (fun r => { r with owner := none })
  have before : (actingAt s supervisor).attendance a = some r.attendance := by rw [State.attendance, hr]; rfl
  generalize hu : changeOwner (actingAt s supervisor) (onlyArea a) (fun r => { r with owner := none }) = u
    at moved changed
  have rule : releaseAreaRule supervisor [b] (heardAt s (deskPort supervisor)) =
      (u.enter .release
        { port := some (deskPort supervisor), badge := some x.badge, area := some a
          detail := detail4 (byte former.console) r.attendance.code 0#8 0#8 },
        done [] (byte former.console :: be32 former.badge)) := by
    simp only [releaseAreaRule, heardAt_desk_definedArea, ha, withSession_acting sup.operator.session,
      consoleDesk_supervises sup, Bool.not_true, Bool.false_eq_true, if_false, unlinked, actingAt_owner, owned, badge,
      hu, before, Option.getD_some]
    rfl
  have made := changed.trans ((enter_changes u .release
    { port := some (deskPort supervisor), badge := some x.badge, area := some a
      detail := detail4 (byte former.console) r.attendance.code 0#8 0#8 }).mono (by decide))
  obtain ⟨t, ht, replied, within, answered⟩ := request_done sup.operator.taking .releaseArea tag (by simp [maxBody])
    false releaseAreaRule rule made made.ports
  exact ⟨t, ht, moved.of_map (answered.map.trans (enter_changes _ _ _).map),
    ⟨r.attendance, before, answered.lastEntry (enter_last _ _ _ (changed.dev.trans running))⟩, replied, within⟩

/-- Settles O42: both requests are one change of owner with its re-derivation. -/
theorem claimAndReleaseMoveOwner : Obligations.ClaimAndReleaseMoveOwner := ⟨claim_moves, release_moves⟩

end Sys2Proof.Proofs
end

/-! PROOFS. The notices of a re-derivation, as one run of deliveries, and the filling of a queue by a burst
(spec/08, R132, R138). -/

section
namespace Sys2Proof.Proofs

open Machine

/-! ## The AREA notices of a re-derivation -/

/-- What the delivery of an AREA notice reads beside the area, its load and the queues. -/
structure RoutesAlike (s t : State) : Prop where
  dev : t.dev = s.dev
  portCfg : t.portCfg = s.portCfg
  reach : t.reach = s.reach
  records : t.records = s.records
  loads : t.loads = s.loads
  links : ∀ p, t.linkGood p = s.linkGood p

theorem RoutesAlike.of_changes {s t : State} (h : OnlyChanges [.map, .queues, .journal] s t) : RoutesAlike s t where
  dev := h.dev
  portCfg := h.portCfg
  reach := h.reach
  records := h.records
  loads := h.loads
  links := fun p => by simp only [State.linkGood, h.at_port]

theorem RoutesAlike.trans {s t u : State} (h : RoutesAlike s t) (k : RoutesAlike t u) : RoutesAlike s u where
  dev := k.dev.trans h.dev
  portCfg := k.portCfg.trans h.portCfg
  reach := k.reach.trans h.reach
  records := k.records.trans h.records
  loads := k.loads.trans h.loads
  links := fun p => (k.links p).trans (h.links p)

theorem RoutesAlike.symm {s t : State} (h : RoutesAlike s t) : RoutesAlike t s where
  dev := h.dev.symm
  portCfg := h.portCfg.symm
  reach := h.reach.symm
  records := h.records.symm
  loads := h.loads.symm
  links := fun p => (h.links p).symm

/-- The deliveries of an AREA notice from states alike. -/
theorem areaNotice_queues_congr {s t : State} (h : RoutesAlike s t) {a : Area} (area : t.area a = s.area a)
    (queues : t.queues = s.queues) (before : Option Party) :
    (areaNotice t a before).queues = (areaNotice s a before).queues := by
  have owner : t.owner a = s.owner a := by simp only [State.owner, area]
  have live : t.liveRecords = s.liveRecords := by simp only [State.liveRecords, h.records]
  have load : t.load a = s.load a := by simp only [State.load, h.loads]
  have names : t.areaNoticeNames a before = s.areaNoticeNames a before := by
    funext d
    simp only [State.areaNoticeNames, State.reaches, h.reach, owner, live]
  have queue : ∀ d, t.queue d = s.queue d := fun d => by simp only [State.queue, queues]
  unfold areaNotice
  rw [area, load, names]
  cases s.area a with
  | none => exact queues
  | some r => simp only [deliver, h.dev, enabled_congr h.dev h.portCfg, h.links, queue, queues]

/-- One AREA notice into the queues, the state else as it is. -/
def noticeInto (t : State) (owner : Area → Option Party) (queues : Vector Queue 7) (a : Area) : Vector Queue 7 :=
  (areaNotice { t with queues := queues } a (owner a)).queues

theorem noticeInto_undefined {t : State} {a : Area} (h : t.area a = none) (owner : Area → Option Party)
    (queues : Vector Queue 7) : noticeInto t owner queues a = queues := by
  have : ({ t with queues := queues } : State).area a = none := h
  simp only [noticeInto, areaNotice, this]

theorem setQueues_changes (s : State) (queues : Vector Queue 7) :
    OnlyChanges [.queues] s { s with queues := queues } := by
  intro f hf
  cases f <;> first | rfl | simp at hf

/-- The area's judgement sends a notice when its attendance changes or its owner has moved. -/
theorem rederiveArea_queues {old v w t : State} {c : Cause} {m : Word16} {a : Area} (alike : RoutesAlike w t)
    (here : w.area a = v.area a)
    (after : t.area a = (w.area a).map (fun r => { r with attendance := w.deriveAttendance r.owner })) :
    (rederiveArea old c m w a).queues =
      if (inSet m a || decide (t.attendance a ≠ v.attendance a)) = true then noticeInto t old.owner w.queues a
      else w.queues := by
  unfold rederiveArea
  rw [here] at after ⊢
  cases hr : v.area a with
  | none =>
    rw [hr] at after
    rw [noticeInto_undefined after]
    exact (ite_self _).symm
  | some r =>
    rw [hr, Option.map_some] at after
    have now : t.attendance a = some (w.deriveAttendance r.owner) := by rw [State.attendance, after]; rfl
    have was : v.attendance a = some r.attendance := by rw [State.attendance, hr]; rfl
    have written := setArea_changes w a { r with attendance := w.deriveAttendance r.owner }
    have set : (w.setArea a { r with attendance := w.deriveAttendance r.owner }).area a = t.area a := by
      rw [setArea_area, after]
    have told : (areaNotice (w.setArea a { r with attendance := w.deriveAttendance r.owner }) a (old.owner a)).queues =
        noticeInto t old.owner w.queues a := by
      refine areaNotice_queues_congr (s := { t with queues := w.queues }) ?_ set written.queues (old.owner a)
      have placed := RoutesAlike.of_changes ((setQueues_changes t w.queues).mono
        (U := [.map, .queues, .journal]) (by decide))
      exact (alike.trans placed).symm.trans (.of_changes (written.mono (by decide)))
    dsimp only
    rw [now, was]
    by_cases changed : w.deriveAttendance r.owner ≠ r.attendance
    · rw [if_pos changed, if_pos (by simp [changed]), enter_queues, told]
    · rw [if_neg changed]
      by_cases moved : inSet m a = true
      · rw [if_pos moved, if_pos (by simp [moved]), told]
      · rw [if_neg moved, if_neg (by simp only [ne_eq, not_not] at changed; simp [moved, changed])]
        exact written.queues

/-- The queues after a re-derivation: one AREA notice, in ascending index, for each area whose owner moved or
whose attendance changed, each told from the state after (R132). -/
theorem rederive_queues {old v t : State} {c : Cause} {m : Word16} (alike : RoutesAlike v t)
    (after : ∀ a, t.area a = (v.area a).map (fun r => { r with attendance := v.deriveAttendance r.owner })) :
    (rederive old c m v).queues =
      (allAreas.filter (fun a => inSet m a || decide (t.attendance a ≠ v.attendance a))).foldl
        (noticeInto t old.owner) v.queues := by
  suffices run : ∀ (l : List Area) (w : State), l.Nodup → OnlyChanges [.map, .queues, .journal] v w →
      (∀ a ∈ l, w.area a = v.area a) →
      (l.foldl (rederiveArea old c m) w).queues =
        (l.filter (fun a => inSet m a || decide (t.attendance a ≠ v.attendance a))).foldl
          (noticeInto t old.owner) w.queues from
    run allAreas v (by decide) (.refl v) fun _ _ => rfl
  intro l
  induction l with
  | nil => intros; rfl
  | cons a rest ih =>
    intro w nodup reached same
    obtain ⟨fresh, nodup⟩ := List.nodup_cons.1 nodup
    have here := same a List.mem_cons_self
    have step := rederiveArea_changes old c m w a
    have derived : ∀ o, w.deriveAttendance o = v.deriveAttendance o := deriveAttendance_congr reached.desks reached.ports
    have told := rederiveArea_queues (old := old) (c := c) (m := m) ((RoutesAlike.of_changes reached).symm.trans alike)
      here (by simp only [derived, here, after])
    have left : ∀ b ∈ rest, (rederiveArea old c m w a).area b = v.area b := by
      intro b hb
      have apart : b ≠ a := fun e => fresh (e ▸ hb)
      rw [rederiveArea_area, if_neg apart, same b (List.mem_cons_of_mem _ hb)]
    rw [List.foldl_cons, ih _ nodup (reached.trans step) left, told, List.filter_cons]
    by_cases changed : (inSet m a || decide (t.attendance a ≠ v.attendance a)) = true
    · rw [if_pos changed, if_pos changed, List.foldl_cons]
    · rw [if_neg changed, if_neg changed]

/-! ## What a run of AREA notices leaves of one queue -/

/-- One notice leaves the queue, sets its RESYNC marker, or is pushed; at a SILENT port it is not pushed. -/
theorem noticeInto_queue (t : State) (owner : Area → Option Party) (queues : Vector Queue 7) (a : Area) (d : Desk) :
    (noticeInto t owner queues a)[d].entries = queues[d].entries ∨
    (t.linkGood (deskPort d) = true ∧ ∃ n : Notice, n.point? = none ∧
      (noticeInto t owner queues a)[d] = queues[d].push (queueCapacity d) n) := by
  have placed : ∀ e, ({ t with queues := queues } : State).queue e = queues[e] := fun _ => rfl
  unfold noticeInto areaNotice
  cases ({ t with queues := queues } : State).area a with
  | none => exact .inl rfl
  | some r =>
    dsimp only
    by_cases running : t.dev = .running
    · have told := deliver_queue (s := { t with queues := queues }) running
        { cls := 2, body := .area a r.nameIndex (({ t with queues := queues } : State).load a).load
            (({ t with queues := queues } : State).load a).state r.attendance r.owner }
        (({ t with queues := queues } : State).areaNoticeNames a (owner a)) d
      rw [placed] at told
      change (State.queue _ d).entries = _ ∨ _ ∧ ∃ n : Notice, _ ∧ State.queue _ d = _
      rw [told]
      by_cases named : ((({ t with queues := queues } : State).areaNoticeNames a (owner a) d &&
          ({ t with queues := queues } : State).enabled d)) = true
      · rw [if_pos named]
        by_cases good : ({ t with queues := queues } : State).linkGood (deskPort d) = true
        · rw [if_pos good]
          exact .inr ⟨good, _, rfl, rfl⟩
        · rw [if_neg good]
          exact .inl rfl
      · rw [if_neg named]
        exact .inl rfl
    · refine .inl ?_
      rw [deliver_queues_stopped (s := { t with queues := queues }) running]

/-- At a SILENT port a run of notices places no entry. -/
theorem noticesInto_silent {t : State} {d : Desk} (silent : t.linkGood (deskPort d) = false)
    (owner : Area → Option Party) (l : List Area) (queues : Vector Queue 7) :
    (l.foldl (noticeInto t owner) queues)[d].entries = queues[d].entries := by
  induction l generalizing queues with
  | nil => rfl
  | cons a rest ih =>
    rw [List.foldl_cons, ih]
    rcases noticeInto_queue t owner queues a d with same | ⟨good, _⟩
    · exact same
    · exact absurd (silent.symm.trans good) (by decide)

theorem push_length_le {c : Nat} {q : Queue} (n : Notice) (h : q.entries.length < c) :
    (q.push c n).entries.length ≤ q.entries.length + 1 := by
  unfold Queue.push
  rw [if_pos h]
  split
  · unfold updateInPlace
    split
    · simp
    · dsimp only
      rw [insertByClass_length]
      have := List.length_filter_le (fun e => !sameSubject n e) q.entries
      omega
  · dsimp only
    rw [insertByClass_length]

/-- With room for a run of AREA notices every entry of the queue stays. -/
theorem noticesInto_room {t : State} {d : Desk} (owner : Area → Option Party) (l : List Area) :
    ∀ queues : Vector Queue 7, queues[d].entries.length + l.length ≤ queueCapacity d →
      ∀ e ∈ queues[d].entries, e ∈ (l.foldl (noticeInto t owner) queues)[d].entries := by
  induction l with
  | nil => exact fun _ _ e he => he
  | cons a rest ih =>
    intro queues room e he
    rw [List.length_cons] at room
    rw [List.foldl_cons]
    rcases noticeInto_queue t owner queues a d with same | ⟨_, n, apart, pushed⟩
    · exact ih _ (by rw [same]; omega) e (by rw [same]; exact he)
    · have length := push_length_le n (show queues[d].entries.length < queueCapacity d by omega)
      refine ih _ (by rw [pushed]; omega) e ?_
      rw [pushed]
      exact (Queue.push_room n (by omega)).2 e he (by rw [sameSubject, apart]; rfl)

/-! ## A burst with room -/

/-- A burst with room overflows nothing and adds at most its own length. -/
theorem burst_fits {c : Nat} (l : List (Nat × Point)) :
    ∀ b : BurstState, b.queue.entries.length + l.length ≤ c →
      (l.foldl (burstStep c) b).overflowed = b.overflowed ∧
      (l.foldl (burstStep c) b).queue.entries.length ≤ b.queue.entries.length + l.length := by
  induction l with
  | nil => exact fun _ _ => ⟨rfl, Nat.le_refl _⟩
  | cons e rest ih =>
    intro b room
    rw [List.length_cons] at room ⊢
    have free : b.queue.entries.length < c := by omega
    have length := push_length_le (pointNoticeOf (e.2.listedBody e.1)) free
    have kept : (burstStep c b e).overflowed = b.overflowed := by
      have : ¬ c ≤ b.queue.entries.length := by omega
      simp [burstStep, Queue.overflows, this]
    have grown : (burstStep c b e).queue.entries.length ≤ b.queue.entries.length + 1 := length
    obtain ⟨overflowed, total⟩ := ih (burstStep c b e) (by omega)
    rw [List.foldl_cons]
    exact ⟨overflowed.trans kept, by omega⟩

/-- The notices of two points are of one subject exactly when the points are one. -/
theorem sameSubject_points (i j : Nat) (p : Point) (n : Notice) (h : n.point? = some j) :
    sameSubject (pointNoticeOf (p.listedBody i)) n = decide (i = j) := by
  have : (pointNoticeOf (p.listedBody i)).point? = some i := rfl
  simp [sameSubject, this, h, Bool.beq_eq_decide_eq]

/-- With room the notice of every point of a burst stands in the queue. -/
theorem burst_stands {c : Nat} (l : List (Nat × Point)) :
    ∀ b : BurstState, b.queue.entries.length + l.length ≤ c → (l.map (·.1)).Nodup →
      (∀ n ∈ b.queue.entries, (∀ e ∈ l, n.point? = some e.1 → False) → n.point?.isSome = true →
        n ∈ (l.foldl (burstStep c) b).queue.entries) ∧
      ∀ e ∈ l, pointNoticeOf (e.2.listedBody e.1) ∈ (l.foldl (burstStep c) b).queue.entries := by
  induction l with
  | nil => exact fun _ _ _ => ⟨fun n hn _ _ => hn, fun e he => absurd he List.not_mem_nil⟩
  | cons e rest ih =>
    intro b room nodup
    rw [List.length_cons] at room
    rw [List.map_cons] at nodup
    obtain ⟨fresh, nodup⟩ := List.nodup_cons.1 nodup
    have free : b.queue.entries.length < c := by omega
    have length := push_length_le (pointNoticeOf (e.2.listedBody e.1)) free
    obtain ⟨placed, others⟩ := Queue.push_room (pointNoticeOf (e.2.listedBody e.1)) free
    have grown : (burstStep c b e).queue = b.queue.push c (pointNoticeOf (e.2.listedBody e.1)) := rfl
    obtain ⟨kept, stands⟩ := ih (burstStep c b e) (by rw [grown]; omega) nodup
    rw [List.foldl_cons]
    refine ⟨fun n hn apart shown => ?_, fun f hf => ?_⟩
    · refine kept n ?_ (fun f hf => apart f (List.mem_cons_of_mem _ hf)) shown
      obtain ⟨j, hj⟩ := Option.isSome_iff_exists.1 shown
      refine others n hn ((sameSubject_points e.1 j e.2 n hj).trans (decide_eq_false fun same => ?_))
      exact apart e List.mem_cons_self (same ▸ hj)
    · rcases List.mem_cons.1 hf with rfl | hf
      · refine kept _ placed (fun g hg same => fresh ?_) rfl
        have index : f.1 = g.1 := Option.some.inj same
        exact index ▸ List.mem_map.2 ⟨g, hg, rfl⟩
      · exact stands f hf

end Sys2Proof.Proofs
end

/-! PROOFS. RELOCATE (spec/08, R137, R138). -/

section
namespace Sys2Proof.Proofs

open Machine

theorem queueCapacity_console (c : Console) : queueCapacity (consoleDesk c) = 64 :=
  if_neg (consoleDesk_ne_supervisor c)

/-! ## The rule -/

theorem relocateRule_taken {s : State} {a1 a0 cb : Byte} {c : Console} {x y : Session}
    (sup : Supervisor s x .supervise) (some_area : read16 a1 a0 ≠ 0#16) (hc : consoleOf cb = some c)
    (defined : s.allDefined (read16 a1 a0) = true) (enabled : s.enabled (consoleDesk c) = true)
    (unlinked : ∀ a, inSet (read16 a1 a0) a = true → (actingAt s supervisor).linked a = false)
    (hy : (s.desk (consoleDesk c)).session = some y) (present : y.presence ≠ .absent)
    (takes : ∀ a, inSet (read16 a1 a0) a = true →
      (s.roleOf y).permits .take a = true ∧ (s.roleOf y).permits .view a = true) :
    relocateRule supervisor [a1, a0, cb] (heardAt s (deskPort supervisor)) =
      relocateTaken (actingAt s supervisor) supervisor (s.touched supervisor x) (read16 a1 a0)
        { console := c, badge := y.badge } := by
  have changes := actingAt_desk_changes s supervisor
  have enabled' : (actingAt s supervisor).enabled (consoleDesk c) = true := by
    rw [enabled_congr changes.dev changes.portCfg, enabled]
  have session : ((actingAt s supervisor).desk (consoleDesk c)).session = some y := by
    rw [actingAt_others s supervisor _ (consoleDesk_ne_supervisor c), hy]
  have free : firstFailing (read16 a1 a0) (fun a => !(actingAt s supervisor).linked a) = none :=
    firstFailing_none fun a ha => by rw [unlinked a ha]; rfl
  have role : (actingAt s supervisor).roleOf y = s.roleOf y := by simp only [State.roleOf, changes.roles]
  have permitted : firstFailing (read16 a1 a0) (fun a =>
      (s.roleOf y).permits .take a && (s.roleOf y).permits .view a) = none :=
    firstFailing_none fun a ha => by rw [(takes a ha).1, (takes a ha).2]; rfl
  simp only [relocateRule, some_area, if_false, hc, heardAt_desk_allDefined, defined, Bool.not_true, Bool.false_eq_true,
    withSession_acting sup.operator.session, consoleDesk_supervises sup, enabled', free, session, present, role,
    permitted]

/-! ## The state of a RELOCATE -/

/-- The queue of the console once the burst is in it. -/
def burstFilled (s : State) (c : Console) (set : Word16) : BurstState :=
  (s.burst set).foldl (burstStep 64) { queue := s.queue (consoleDesk c), placed := [], overflowed := false }

/-- The state once the areas have their new owner, before the journal entries. -/
def relocatedState (s : State) (set : Word16) (party : Party) : State :=
  changeOwner (s.setQueue (consoleDesk party.console) (burstFilled s party.console set).queue) set
    (fun r => { r with owner := some party })

theorem relocateTaken_of (s : State) (d : Desk) (x : Session) (set : Word16) (party : Party) :
    relocateTaken s d x set party =
      ((areasOf set).foldl (relocateEntry s d x party (burstFilled s party.console set).placed)
          (relocatedState s set party),
        done [(burstFilled s party.console set).overflowed]
          (num16 (areasOf set).length ++ num16 (s.burst set).length)) := by
  simp only [relocateTaken, queueCapacity_console, relocatedState, burstFilled]

theorem relocatedState_changes (s : State) (set : Word16) (party : Party) :
    OnlyChanges [.map, .queues, .journal] s (relocatedState s set party) :=
  ((setQueue_changes _ _ _).mono (by decide)).trans (changeOwner_changes _ _ _)

/-- The areas after a RELOCATE: those of the set have the new owner, and attendance follows everywhere. -/
theorem relocatedState_area (s : State) (set : Word16) (party : Party) (a : Area) :
    (relocatedState s set party).area a =
      (if inSet set a = true then (s.area a).map (fun r => { r with owner := some party }) else s.area a).map
        (fun r => { r with attendance := s.deriveAttendance r.owner }) := by
  have queued := setQueue_changes s (consoleDesk party.console) (burstFilled s party.console set).queue
  unfold relocatedState
  rw [changeOwner_area, queued.at_area]
  simp only [deriveAttendance_congr queued.desks queued.ports]

/-- The queues after a RELOCATE: the burst, then the AREA notices told from any state alike. -/
theorem relocatedState_queues {s t : State} (set : Word16) (party : Party)
    (alike : RoutesAlike (relocatedState s set party) t) (map : t.map = (relocatedState s set party).map) :
    (relocatedState s set party).queues =
      (allAreas.filter (fun a => inSet set a || decide (t.attendance a ≠ s.attendance a))).foldl
        (noticeInto t s.owner) (s.setQueue (consoleDesk party.console) (burstFilled s party.console set).queue).queues := by
  generalize hq : s.setQueue (consoleDesk party.console) (burstFilled s party.console set).queue = q
  have queued : OnlyChanges [.queues] s q := hq ▸ setQueue_changes _ _ _
  generalize hv : changeAreas q set (fun r => { r with owner := some party }) = v
  have given : OnlyChanges [.map] q v := hv ▸ changeAreas_changes _ _ _
  have moved : relocatedState s set party = rederive q .ownerChange set v := by
    rw [relocatedState, hq, changeOwner, hv]
  have areas : ∀ a, v.area a = if inSet set a = true then (q.area a).map (fun r => { r with owner := some party })
      else q.area a := fun a => hv ▸ changeAreas_area _ _ _ a
  have attendance : v.attendance = s.attendance := by
    funext a
    rw [State.attendance, State.attendance, areas, queued.at_area]
    split
    · cases s.area a <;> rfl
    · rfl
  have owner : q.owner = s.owner := by
    funext a
    simp only [State.owner, queued.at_area]
  rw [moved] at alike map
  have after : ∀ a, t.area a = (v.area a).map (fun r => { r with attendance := v.deriveAttendance r.owner }) := by
    intro a
    rw [← rederive_area q .ownerChange set v a, State.area, map, State.area]
  have told := rederive_queues (old := q) (c := .ownerChange) (m := set)
    ((RoutesAlike.of_changes (rederive_changes q .ownerChange set v)).trans alike) after
  rw [moved, told, attendance, owner, given.queues]

/-- The run of RELOCATE entries, one for each area in ascending index. -/
theorem relocateEntries {old : State} {d : Desk} {x : Session} {party : Party} {placed : List Area} (l : List Area) :
    ∀ (s : State) (closed : List (JournalKind × EntryFields)), s.dev = .running → LastEntries s closed →
      closed.length + l.length < 256 →
      LastEntries (l.foldl (relocateEntry old d x party placed) s) (closed ++ l.map (fun a => (.relocate,
        { port := some (deskPort d), badge := some x.badge, area := some a
          detail := detail16 (portByte ((old.owner a).map (·.console.val))) (byte party.console)
            (BitVec.ofNat 16 (placed.count a)) }))) ∧
      OnlyChanges [.journal] s (l.foldl (relocateEntry old d x party placed) s) := by
  induction l with
  | nil => exact fun s closed _ h _ => ⟨by simpa using h, .refl s⟩
  | cons a rest ih =>
    intro s closed running h short
    rw [List.length_cons] at short
    have entered := enter_changes s .relocate
      { port := some (deskPort d), badge := some x.badge, area := some a
        detail := detail16 (portByte ((old.owner a).map (·.console.val))) (byte party.console)
          (BitVec.ofNat 16 (placed.count a)) }
    obtain ⟨last, changes⟩ := ih (relocateEntry old d x party placed s a) _ (entered.dev.trans running)
      (h.enter running (by omega) _ _) (by rw [List.length_append, List.length_singleton]; omega)
    rw [List.foldl_cons, List.map_cons]
    refine ⟨?_, entered.trans changes⟩
    rw [List.append_assoc, List.singleton_append] at last
    exact last

theorem LastEntries.of_changes {T : List Field} {s t : State} {l : List (JournalKind × EntryFields)}
    (h : OnlyChanges T s t) (e : LastEntries s l) (n : Field.journal ∉ T := by decide)
    (n' : Field.elapsed ∉ T := by decide) (m : Field.offset ∉ T := by decide) : LastEntries t l := by
  unfold LastEntries at *
  rw [h.journal n, h.mill n' m]
  exact e

theorem replied_linkGood {s t : State} {p : Port} {k : Kind} {tag : Byte} {r : Reply} (h : Replied s t p k tag r)
    (q : Port) : t.linkGood q = s.linkGood q := by
  have here : t.port q = if q = p then { s.ports[p] with slot := some { kind := k.code, tag := tag, reply := r } }
      else s.port q := by
    rw [State.port, h]
    by_cases e : q = p
    · subst e
      simp
    · have ne : p.val ≠ q.val := fun k => e (Fin.ext k.symm)
      simp [State.port, e, ne]
  rw [State.linkGood, here]
  by_cases e : q = p
  · subst e
    rw [if_pos rfl]
    rfl
  · rw [if_neg e]
    rfl

theorem areasOf_length (set : Word16) : (areasOf set).length ≤ 16 :=
  Nat.le_trans (List.length_filter_le _ _) (by decide)

/-- What a RELOCATE leaves of the areas. -/
theorem relocated_areas {s t : State} {set : Word16} {party : Party}
    (area : ∀ a, t.area a = (relocatedState s set party).area a)
    (defined : ∀ a, inSet set a = true → (s.area a).isSome = true) :
    (∀ a, inSet set a = true → t.owner a = some party ∧
      t.attendance a = some (s.deriveAttendance (some party))) ∧
    (∀ a, inSet set a = false → t.owner a = s.owner a) ∧
    (∀ a, (t.area a).map (·.link) = (s.area a).map (·.link)) := by
  refine ⟨fun a ha => ?_, fun a ha => ?_, fun a => ?_⟩
  · obtain ⟨r, hr⟩ := Option.isSome_iff_exists.1 (defined a ha)
    rw [State.owner, State.attendance, area, relocatedState_area, if_pos ha, hr]
    exact ⟨rfl, rfl⟩
  · rw [State.owner, State.owner, area, relocatedState_area, ha, if_neg (by decide)]
    cases s.area a <;> rfl
  · rw [area, relocatedState_area]
    split <;> cases s.area a <;> rfl

/-- With room for the burst and sixteen AREA notices, the notice of every point of the burst stays. -/
theorem burst_reaches {s t : State} {c : Console} {set : Word16} {owner : Area → Option Party} {l : List Area}
    (rise : TablesRise s) (few : l.length ≤ 16)
    (room : (s.queue (consoleDesk c)).entries.length + (s.burst set).length + 16 ≤ 64)
    (queues : t.queues = l.foldl (noticeInto t owner)
      (s.setQueue (consoleDesk c) (burstFilled s c set).queue).queues) :
    ∀ e ∈ s.burst set, pointNoticeOf (e.2.listedBody e.1) ∈ (t.queue (consoleDesk c)).entries := by
  intro e he
  have start : (s.queue (consoleDesk c)).entries.length + (s.burst set).length ≤ 64 := by omega
  have filled := (burst_fits (c := 64) (s.burst set)
    { queue := s.queue (consoleDesk c), placed := [], overflowed := false } start).2
  have nodup : ((s.burst set).map (·.1)).Nodup := by
    refine ((sortBy_perm _ _).map _).nodup_iff.2 ?_
    have listed : (s.listableOf set).map (·.1) |>.Sublist (s.points.map (·.1)) := List.filter_sublist.map _
    exact listed.nodup (points_nodup rise)
  have stands := (burst_stands (c := 64) (s.burst set)
    { queue := s.queue (consoleDesk c), placed := [], overflowed := false } start nodup).2 e he
  have placed : (s.setQueue (consoleDesk c) (burstFilled s c set).queue).queues[consoleDesk c] =
      (burstFilled s c set).queue := setQueue_queue _ _ _
  rw [State.queue, queues]
  refine noticesInto_room owner l _ ?_ _ (by rw [placed]; exact stands)
  rw [placed, queueCapacity_console]
  have : (burstFilled s c set).queue.entries.length ≤
      (s.queue (consoleDesk c)).entries.length + (s.burst set).length := filled
  omega

theorem actingAt_burst (s : State) (d : Desk) (set : Word16) : (actingAt s d).burst set = s.burst set := by
  simp only [State.burst, State.listableOf, actingAt_points, (actingAt_desk_changes s d).elapsed]

/-- Settles O43: the burst fills the console's queue, and the change of owner tells the rest. -/
theorem relocateMovesAreas : Obligations.RelocateMovesAreas := by
  intro a1 a0 cb tag c x y s
  dsimp only
  intro sup some_area hc defined enabled unlinked hy present takes
  have running := actingAt_running (d := supervisor) sup.operator.taking.running
  have rule := (relocateRule_taken sup some_area hc defined enabled unlinked hy present takes).trans
    (relocateTaken_of _ _ _ _ _)
  have moved := relocatedState_changes (actingAt s supervisor) (read16 a1 a0) { console := c, badge := y.badge }
  obtain ⟨last, entered⟩ := relocateEntries (old := actingAt s supervisor) (d := supervisor)
    (x := s.touched supervisor x) (party := { console := c, badge := y.badge })
    (placed := (burstFilled (actingAt s supervisor) c (read16 a1 a0)).placed) (areasOf (read16 a1 a0))
    (relocatedState (actingAt s supervisor) (read16 a1 a0) { console := c, badge := y.badge }) []
    (moved.dev.trans running) (LastEntries.nil _) (by have := areasOf_length (read16 a1 a0); simp; omega)
  have made := moved.trans (entered.mono (by decide))
  obtain ⟨t, ht, replied, within, answered⟩ := request_done sup.operator.taking .relocate tag (by simp [maxBody])
    false relocateRule rule made made.ports
  have areas : ∀ a, t.area a = (relocatedState (actingAt s supervisor) (read16 a1 a0)
      { console := c, badge := y.badge }).area a := fun a => (answered.at_area a).trans (entered.at_area a)
  have alike : RoutesAlike (relocatedState (actingAt s supervisor) (read16 a1 a0)
      { console := c, badge := y.badge }) t :=
    { dev := answered.dev.trans entered.dev
      portCfg := answered.portCfg.trans entered.portCfg
      reach := answered.reach.trans entered.reach
      records := answered.records.trans entered.records
      loads := answered.loads.trans entered.loads
      links := fun p => (replied_linkGood replied p).trans ((RoutesAlike.of_changes moved).links p).symm }
  have owner : (actingAt s supervisor).owner = s.owner := funext (actingAt_owner s supervisor)
  have queues := (answered.queues.trans entered.queues).trans (relocatedState_queues (read16 a1 a0)
    { console := c, badge := y.badge } alike (answered.map.trans entered.map))
  rw [owner] at queues
  have perm : ((actingAt s supervisor).burst (read16 a1 a0)).Perm
      (s.points.filter (fun e => inSet (read16 a1 a0) e.2.cfg.area && e.2.listable)) := by
    rw [actingAt_burst]
    exact sortBy_perm _ _
  have everywhere : ∀ a, inSet (read16 a1 a0) a = true → ((actingAt s supervisor).area a).isSome = true := by
    intro a ha
    rw [(actingAt_owners s supervisor).defined]
    exact List.all_eq_true.1 defined a ((mem_areasOf _ _).2 ha)
  obtain ⟨owned, others, links⟩ := relocated_areas areas everywhere
  refine ⟨t, (actingAt s supervisor).burst (read16 a1 a0), ht, perm, fun rise => ?_, owned, fun a ha =>
    (others a ha).trans (actingAt_owner s supervisor a), links, ⟨?_, fun fits => ?_, queues, fun silent => ?_,
    fun room rise e he => ?_, ?_⟩, within⟩
  · rw [actingAt_burst]
    exact burst_ordered rise _
  · rw [← perm.length_eq]
    exact replied
  · rw [← perm.length_eq] at fits
    exact (burst_fits (c := 64) _ _ fits).1
  · have deaf : t.linkGood (deskPort (consoleDesk c)) = false := by
      rw [replied_linkGood replied, State.linkGood, silent]
      rfl
    rw [State.queue, queues, noticesInto_silent deaf]
    exact congrArg Queue.entries (setQueue_queue _ _ _)
  · refine burst_reaches (actingAt_tablesRise rise supervisor) (Nat.le_trans (List.length_filter_le _ _) (by decide))
      (by rw [perm.length_eq]; exact room) queues e (perm.mem_iff.2 he)
  · rw [owner] at last
    exact LastEntries.of_changes answered last

end Sys2Proof.Proofs
end

/-! PROOFS. OFFER and ACCEPT (spec/09, R144 to R147). -/

section
namespace Sys2Proof.Proofs

open Machine

/-! ## OFFER -/

theorem setHandoverCounter_changes (s : State) (n : Word16) :
    OnlyChanges [.handoverCounter] s { s with handoverCounter := n } := by
  intro f hf
  cases f <;> first | rfl | simp at hf

/-- The record an OFFER makes (R145). -/
def offeredRecord (s : State) (outgoing : Party) (set : Word16) (target : Option Console) : Record :=
  { number := s.handoverCounter + 1, state := .offered, flood := false, outgoingLost := false, areas := set
    outgoing := outgoing, target := target, incoming := none, offerExpiry := some (after s.elapsed (10 * s.param 24))
    accumulated := 0, resume := none, limitExpiry := none, coSigned := none, incomplete := false
    items := [] }

/-- The state once the record stands and its areas are linked. -/
def offeredState (s : State) (outgoing : Party) (set : Word16) (target : Option Console) (i : RecordIdx) : State :=
  changeAreas (({ s with handoverCounter := s.handoverCounter + 1 } : State).setRecord i
    (some (offeredRecord s outgoing set target))) set (fun a => { a with link := some i })

/-- The state of an OFFER with its notice. -/
def offerNoted (s : State) (outgoing : Party) (set : Word16) (target : Option Console) (i : RecordIdx) : State :=
  handoverNotice (offeredState s outgoing set target i) ((offeredRecord s outgoing set target).body i)
    (fun e => (offeredRecord s outgoing set target).names e ||
      (offeredState s outgoing set target i).receives (offeredRecord s outgoing set target) e)

theorem offerTaken_of (s : State) (d : Desk) (x : Session) (outgoing : Party) (set : Word16)
    (target : Option Console) (i : RecordIdx) :
    offerTaken s d x outgoing set target i =
      ((offerNoted s outgoing set target i).enter .offer
        { port := some (deskPort d), badge := some x.badge, area := (areasOf set).head?, occ := s.handoverCounter + 1
          detail := detail16 (byte i) (portByte (target.map (·.val))) set },
      done [] (byte i :: (be16 (s.handoverCounter + 1) ++ be32 (s.millOf (after s.elapsed (10 * s.param 24)))))) := rfl

/-- What an OFFER leaves of the records, the areas and the counter. -/
theorem offerNoted_of (s : State) (outgoing : Party) (set : Word16) (target : Option Console) (i : RecordIdx) :
    (offerNoted s outgoing set target i).record i = some (offeredRecord s outgoing set target) ∧
    OtherRecordsSame s (offerNoted s outgoing set target i) i ∧
    (offerNoted s outgoing set target i).handoverCounter = s.handoverCounter + 1 ∧
    (∀ a, (offerNoted s outgoing set target i).area a = (s.area a).map (fun r =>
      if inSet set a then { r with link := some i } else r)) ∧
    OnlyChanges [.records, .handoverCounter, .map, .queues] s (offerNoted s outgoing set target i) := by
  have counted := setHandoverCounter_changes s (s.handoverCounter + 1)
  generalize hc : ({ s with handoverCounter := s.handoverCounter + 1 } : State) = c at counted
  have counter : c.handoverCounter = s.handoverCounter + 1 := hc ▸ rfl
  have made := setRecord_changes c i (some (offeredRecord s outgoing set target))
  have linked := changeAreas_changes (c.setRecord i (some (offeredRecord s outgoing set target))) set
    (fun a => { a with link := some i })
  have areas := changeAreas_area (c.setRecord i (some (offeredRecord s outgoing set target))) set
    (fun a => { a with link := some i })
  have state : offeredState s outgoing set target i = changeAreas (c.setRecord i
      (some (offeredRecord s outgoing set target))) set (fun a => { a with link := some i }) := by
    rw [offeredState, hc]
  rw [← state] at linked areas
  have noted := handoverNotice_changes (offeredState s outgoing set target i)
    ((offeredRecord s outgoing set target).body i) (fun e => (offeredRecord s outgoing set target).names e ||
      (offeredState s outgoing set target i).receives (offeredRecord s outgoing set target) e)
  rw [← offerNoted] at noted
  refine ⟨?_, fun j hj => ?_, ?_, fun a => ?_, (counted.mono (by decide)).trans ((made.mono (by decide)).trans
    ((linked.mono (by decide)).trans (noted.mono (by decide))))⟩
  · rw [noted.at_record, linked.at_record, setRecord_record]
  · rw [noted.at_record, linked.at_record, setRecord_record_ne _ _ hj, counted.at_record]
  · rw [noted.handoverCounter, linked.handoverCounter, made.handoverCounter, counter]
  · rw [noted.at_area, areas, made.at_area, counted.at_area]
    split
    · rfl
    · cases s.area a <;> rfl

theorem offerRule_taken {s : State} {c : Console} {a1 a0 tb : Byte} {target : Option Console} {i : RecordIdx}
    {x : Session} (op : Operator s (consoleDesk c) x) (ht : targetOf (consoleDesk c) tb = some target)
    (some_area : read16 a1 a0 ≠ 0#16) (defined : s.allDefined (read16 a1 a0) = true)
    (offers : ∀ a, inSet (read16 a1 a0) a = true → (s.roleOf x).permits .take a = true ∧
      s.owner a = some { console := c, badge := x.badge } ∧
      (actingAt s (consoleDesk c)).attendance a = some .attended ∧ (actingAt s (consoleDesk c)).linked a = false)
    (receives : (actingAt s (consoleDesk c)).canReceive (read16 a1 a0) target = true)
    (free : (actingAt s (consoleDesk c)).freeRecord = some i) :
    offerRule (consoleDesk c) [a1, a0, tb] (heardAt s (deskPort (consoleDesk c))) =
      offerTaken (actingAt s (consoleDesk c)) (consoleDesk c) (s.touched (consoleDesk c) x)
        { console := c, badge := x.badge } (read16 a1 a0) target i := by
  have badge : (s.touched (consoleDesk c) x).badge = x.badge := rfl
  have takes : firstFailing (read16 a1 a0) ((s.roleOf x).permits .take) = none :=
    firstFailing_none fun a ha => (offers a ha).1
  have owns : firstFailing (read16 a1 a0) (fun a => s.owner a == some { console := c, badge := x.badge } &&
      (actingAt s (consoleDesk c)).attendance a == some .attended) = none :=
    firstFailing_none fun a ha => by
      obtain ⟨_, owner, attended, _⟩ := offers a ha
      rw [owner, attended, beq_self_eq_true, beq_self_eq_true, Bool.and_self]
  have unlinked : firstFailing (read16 a1 a0) (fun a => !(actingAt s (consoleDesk c)).linked a) = none :=
    firstFailing_none fun a ha => by rw [(offers a ha).2.2.2]; rfl
  simp only [offerRule, ht, some_area, if_false, heardAt_desk_allDefined, defined, Bool.not_true, Bool.false_eq_true,
    withSession_acting op.session, deskConsole_consoleDesk, actingAt_roleOf, takes, actingAt_owner, badge, owns,
    unlinked, receives, free]

theorem otherRecordsSame_of_records {s t u : State} {i : RecordIdx} (h : OtherRecordsSame s t i)
    (k : u.records = t.records) : OtherRecordsSame s u i :=
  fun j hj => by rw [← h j hj, State.record, State.record, k]

/-- Settles O44: the record stands in the free place, and its areas are linked to it. -/
theorem offerMakesRecord : Obligations.OfferMakesRecord := by
  intro c a1 a0 tb tag target i x s
  dsimp only
  intro op ht some_area defined offers receives free
  have changes := actingAt_desk_changes s (consoleDesk c)
  have running := actingAt_running (d := consoleDesk c) op.taking.running
  have badge : (s.touched (consoleDesk c) x).badge = x.badge := rfl
  have rule := (offerRule_taken op ht some_area defined offers receives free).trans (offerTaken_of _ _ _ _ _ _ _)
  obtain ⟨here, others, counter, areas, only⟩ := offerNoted_of (actingAt s (consoleDesk c))
    { console := c, badge := x.badge } (read16 a1 a0) target i
  rw [changes.handoverCounter, State.millOf, changes.elapsed, changes.at_param, changes.offset, badge] at rule
  rw [changes.handoverCounter] at counter
  rw [offeredRecord, changes.handoverCounter, changes.elapsed, changes.at_param] at here
  generalize offerNoted (actingAt s (consoleDesk c)) { console := c, badge := x.badge } (read16 a1 a0) target i = u
    at rule here others counter areas only
  have entered := enter_changes u .offer
    { port := some (deskPort (consoleDesk c)), badge := some x.badge, area := (areasOf (read16 a1 a0)).head?
      occ := s.handoverCounter + 1
      detail := detail16 (byte i) (portByte (target.map (·.val))) (read16 a1 a0) }
  have made := (only.mono (U := [.records, .handoverCounter, .map, .queues, .journal]) (by decide)).trans
    (entered.mono (by decide))
  obtain ⟨t, hx, replied, within, answered⟩ := request_done op.taking .offer tag (by simp [maxBody]) false offerRule
    rule made made.ports
  exact ⟨t, hx, (answered.at_record i).trans ((entered.at_record i).trans here),
    otherRecordsSame_of_records others (answered.records.trans entered.records),
    answered.handoverCounter.trans (entered.handoverCounter.trans counter),
    fun a => (answered.at_area a).trans ((entered.at_area a).trans (areas a)),
    answered.lastEntry (enter_last _ _ _ (only.dev.trans running)), replied, within⟩

/-! ## ACCEPT -/

theorem recordOf_byte {b : Byte} {i : RecordIdx} (h : recordOf b = some i) : byte i = b := by
  unfold recordOf at h
  split at h
  · obtain rfl := Option.some.inj h
    simp [byte]
  · cases h

/-- The record of an ACCEPT before its state follows its causes (R147). -/
def gatheredRecord (s : State) (r : Record) (incoming : Party) : Record :=
  { r with
    incoming := some incoming, offerExpiry := none, accumulated := 0
    items := ((s.gathered r.areas).take 64).map (fun e => itemOf e.1 e.2)
    incomplete := decide (64 < (s.gathered r.areas).length)
    flood := !s.floodFree r.areas }

theorem accepted_of (s : State) (r : Record) (incoming : Party) : s.accepted r incoming =
    if (!s.floodFree r.areas || r.outgoingLost) = true then
      { gatheredRecord s r incoming with state := .held, resume := none, limitExpiry := none }
    else s.enterOverlap (gatheredRecord s r incoming) := rfl

/-- What an ACCEPT makes of the record, whichever state follows. -/
theorem accepted_kept (s : State) (r : Record) (incoming : Party) :
    ∃ state resume limit, s.accepted r incoming =
      { gatheredRecord s r incoming with state := state, resume := resume, limitExpiry := limit } := by
  rw [accepted_of]
  split
  · exact ⟨_, _, _, rfl⟩
  · exact ⟨_, _, _, rfl⟩

theorem accepted_free {s : State} {r : Record} {incoming : Party} (free : s.floodFree r.areas = true)
    (present : r.outgoingLost = false) :
    (s.accepted r incoming).state = .overlap ∧ (s.accepted r incoming).resume = some s.elapsed ∧
    (0 < s.param 26 → (s.accepted r incoming).limitExpiry = some (after s.elapsed (10 * s.param 26))) := by
  rw [accepted_of, free, present, if_neg (by decide)]
  refine ⟨rfl, rfl, fun limited => ?_⟩
  have open_limit : ¬ s.overlapLimit ≤ (gatheredRecord s r incoming).accumulated := by
    have : s.overlapLimit = 10 * s.param 26 := rfl
    have : (gatheredRecord s r incoming).accumulated = 0 := rfl
    omega
  simp only [State.enterOverlap]
  rw [if_neg open_limit]
  rfl

theorem accepted_held {s : State} {r : Record} {incoming : Party}
    (caused : s.floodFree r.areas = false ∨ r.outgoingLost = true) :
    (s.accepted r incoming).state = .held ∧ (s.accepted r incoming).resume = none ∧
    (s.accepted r incoming).limitExpiry = none := by
  rw [accepted_of, if_pos (by rcases caused with h | h <;> rw [h] <;> simp)]
  exact ⟨rfl, rfl, rfl⟩

theorem offeredTo_console {r : Record} {c : Console} (apart : c ≠ r.outgoing.console)
    (target : r.target = none ∨ r.target = some c) : r.offeredTo (consoleDesk c) = some c := by
  unfold Record.offeredTo
  rw [deskConsole_consoleDesk]
  dsimp only
  rw [if_neg apart]
  rcases target with h | h
  · rw [h]
  · rw [h]
    exact if_pos rfl

/-- What an ACCEPT leaves of the records. -/
theorem acceptTaken_of (s : State) (d : Desk) (x : Session) (c : Console) (i : RecordIdx) (r : Record) :
    ∃ u, acceptTaken s d x c i r =
        (u, done [(s.accepted r { console := c, badge := x.badge }).incomplete]
          ([byte i, handoverCode (some (s.accepted r { console := c, badge := x.badge }).state)] ++
            num16 (s.accepted r { console := c, badge := x.badge }).items.length)) ∧
      u.record i = some (s.accepted r { console := c, badge := x.badge }) ∧ OtherRecordsSame s u i ∧
      OnlyChanges [.records, .queues, .journal] s u := by
  refine ⟨_, rfl, ?_⟩
  generalize s.accepted r { console := c, badge := x.badge } = q
  have made := setRecord_changes s i (some q)
  have noted := handoverNotice_changes (s.setRecord i (some q)) (q.body i)
    (fun e => q.names e || (q.target.isNone && (s.setRecord i (some q)).receives q e))
  generalize handoverNotice (s.setRecord i (some q)) (q.body i)
    (fun e => q.names e || (q.target.isNone && (s.setRecord i (some q)).receives q e)) = n at noted
  have entered := enter_changes n .accept
    { port := some (deskPort d), badge := some x.badge
      detail := detail4 (byte i) (byte q.items.length)
        (bitByte [false, false, false, false, false, false, false, q.incomplete]) (handoverCode (some q.state)) }
  generalize n.enter .accept
    { port := some (deskPort d), badge := some x.badge
      detail := detail4 (byte i) (byte q.items.length)
        (bitByte [false, false, false, false, false, false, false, q.incomplete])
        (handoverCode (some q.state)) } = v at entered
  have held : OnlyChanges [.journal] v (if q.state = .held then handoverStateEntry v i .offered q else v) := by
    split
    · exact enter_changes _ _ _
    · exact .refl v
  generalize (if q.state = .held then handoverStateEntry v i .offered q else v) = u at held
  refine ⟨?_, fun j hj => ?_, (made.mono (by decide)).trans ((noted.mono (by decide)).trans
    ((entered.mono (by decide)).trans (held.mono (by decide))))⟩
  · rw [held.at_record, entered.at_record, noted.at_record, setRecord_record]
  · rw [held.at_record, entered.at_record, noted.at_record, setRecord_record_ne _ _ hj]

theorem acceptRule_taken {s : State} {c : Console} {ib n1 n0 : Byte} {i : RecordIdx} {r : Record} {x : Session}
    (op : Operator s (consoleDesk c) x) (hi : recordOf ib = some i)
    (hr : (actingAt s (consoleDesk c)).record i = some r) (number : r.number = read16 n1 n0)
    (offered : r.state = .offered) (apart : c ≠ r.outgoing.console) (target : r.target = none ∨ r.target = some c)
    (takes : ∀ a, inSet r.areas a = true → (s.roleOf x).permits .take a = true ∧
      (s.roleOf x).permits .view a = true ∧ s.reaches (consoleDesk c) a = true) :
    acceptRule (consoleDesk c) [ib, n1, n0] (heardAt s (deskPort (consoleDesk c))) =
      acceptTaken (actingAt s (consoleDesk c)) (consoleDesk c) (s.touched (consoleDesk c) x) c i r := by
  have permitted : firstFailing r.areas (fun a => (s.roleOf x).permits .take a && (s.roleOf x).permits .view a) =
      none := firstFailing_none fun a ha => by rw [(takes a ha).1, (takes a ha).2.1]; rfl
  have reached : firstFailing r.areas ((actingAt s (consoleDesk c)).reaches (consoleDesk c)) = none :=
    firstFailing_none fun a ha => by rw [actingAt_reaches, (takes a ha).2.2]
  simp only [acceptRule, onRecord_acting op.session hi hr number, offeredTo_console apart target, actingAt_roleOf,
    permitted, reached, offered, ne_eq, not_true_eq_false, if_false]

/-- Settles O45: the items are gathered in order, and the state follows the causes. -/
theorem acceptStartsOverlap : Obligations.AcceptStartsOverlap := by
  intro c ib n1 n0 tag i r x s
  dsimp only
  intro op hi hr number offered apart target takes
  have changes := actingAt_desk_changes s (consoleDesk c)
  obtain ⟨u, taken, here, others, only⟩ := acceptTaken_of (actingAt s (consoleDesk c)) (consoleDesk c)
    (s.touched (consoleDesk c) x) c i r
  have rule := (acceptRule_taken op hi hr number offered apart target takes).trans taken
  have badge : (s.touched (consoleDesk c) x).badge = x.badge := rfl
  rw [badge] at rule here
  obtain ⟨t, ht, replied, within, answered⟩ := request_done op.taking .accept tag (by simp [maxBody]) false acceptRule
    rule only only.ports
  have flood : (!(actingAt s (consoleDesk c)).floodFree r.areas) =
      (areasOf r.areas).any (fun a => (s.load a).state == .flood) := by
    simp only [State.floodFree, changes.at_load, List.not_all_eq_any_not, bne, Bool.not_not]
  have gathered : (actingAt s (consoleDesk c)).gathered r.areas = s.gathered r.areas := by
    simp only [State.gathered, State.listableOf, actingAt_points, changes.elapsed]
  have perm : (s.gathered r.areas).Perm (s.points.filter (fun e => inSet r.areas e.2.cfg.area && e.2.listable)) :=
    sortBy_perm _ _
  obtain ⟨state, resume, limit, kept⟩ := accepted_kept (actingAt s (consoleDesk c)) r
    { console := c, badge := x.badge }
  have free := accepted_free (s := actingAt s (consoleDesk c)) (r := r) (incoming := { console := c, badge := x.badge })
  have held := accepted_held (s := actingAt s (consoleDesk c)) (r := r) (incoming := { console := c, badge := x.badge })
  generalize (actingAt s (consoleDesk c)).accepted r { console := c, badge := x.badge } = q
    at here replied kept free held
  rw [changes.elapsed, changes.at_param] at free
  rw [← Bool.not_eq_false', flood] at free
  rw [← Bool.not_eq_true', flood] at held
  rw [recordOf_byte hi] at replied
  refine ⟨t, q, ht, (answered.at_record i).trans here, ?_⟩
  have items : q.items = ((s.gathered r.areas).take 64).map (fun e => itemOf e.1 e.2) := by
    rw [kept, ← gathered]
    rfl
  have incomplete : q.incomplete = decide (64 < (s.gathered r.areas).length) := by
    rw [kept, ← gathered]
    rfl
  refine ⟨by rw [kept]; rfl, by rw [kept]; rfl, by rw [kept]; rfl, by rw [kept]; rfl, by rw [kept]; rfl,
    by rw [kept]; rfl, by rw [kept]; rfl, by rw [kept]; rfl, by rw [kept, ← flood]; rfl, by rw [kept]; rfl, ?_, ?_,
    ⟨s.gathered r.areas, perm, items, fun rise => gathered_ordered rise _⟩, free, held,
    otherRecordsSame_of_records others answered.records, replied, within⟩
  · rw [items, List.length_map, List.length_take, perm.length_eq]
  · rw [incomplete, perm.length_eq]

end Sys2Proof.Proofs
end

/-! PROOFS. The endings of handover records: those that transfer nothing, and the commits (spec/09, R139,
R149 to R152, R159, R162, R163). -/

section
namespace Sys2Proof.Proofs

open Machine

/-! ## Endings that transfer nothing -/

/-- A record has ended and transferred nothing (R163). -/
def RecordEnded (s t : State) (i : RecordIdx) (r : Record) (o : HandoverOutcome) (port : Option Port)
    (badge : Option Badge) : Prop :=
  t.record i = none ∧ OtherRecordsSame s t i ∧
  (∀ a, t.area a = (s.area a).map (fun q => if inSet r.areas a then { q with link := none } else q)) ∧
  (s.dev = .running → LastEntry t .handoverEnd
    { port := port, badge := badge, area := (areasOf r.areas).head?
      detail := detail4 (byte i) (outcomeCode (some o)) (handoverCode (some r.state)) 0xFF#8 })

theorem recordEnded_endRecord {o : HandoverOutcome} (h : o.transfers = false) (s : State) (i : RecordIdx)
    (r : Record) (port : Option Port) (badge : Option Badge) :
    RecordEnded s (endRecord s i r o port badge) i r o port badge := by
  refine ⟨?_, fun j hj => ?_, endRecord_area h s i r port badge, fun running => ?_⟩
  · rw [endRecord_record, if_pos rfl]
  · rw [endRecord_record, if_neg hj]
  · have last := endRecord_last i r o port badge running
    rw [h] at last
    exact last

theorem RecordEnded.of_answering {s t u : State} {i : RecordIdx} {r : Record} {o : HandoverOutcome}
    {port : Option Port} {badge : Option Badge} (h : RecordEnded s t i r o port badge)
    (k : OnlyChanges answering t u) : RecordEnded s u i r o port badge := by
  obtain ⟨here, others, areas, last⟩ := h
  exact ⟨(k.at_record i).trans here, otherRecordsSame_of_records others k.records,
    fun a => (k.at_area a).trans (areas a), fun running => k.lastEntry (last running)⟩

/-- A request whose rule ends a record by an outcome that transfers nothing. -/
theorem request_ends {s : State} {d : Desk} {x : Session} {o : HandoverOutcome} {body reply : List Byte}
    {i : RecordIdx} {r : Record} (op : Operator s d x) (h : o.transfers = false) (k : Kind) (tag : Byte)
    (hb : body.length ≤ maxBody) (rule : DeskRule)
    (hr : rule d body (heardAt s (deskPort d)) =
      (endRecord (actingAt s d) i r o (some (deskPort d)) (some x.badge), done [] reply)) :
    ∃ t, runRequest (deskPort d) k tag body (.desk false rule) s = .next t ∧
      RecordEnded (actingAt s d) t i r o (some (deskPort d)) (some x.badge) ∧
      Replied (actingAt s d) t (deskPort d) k tag (done [] reply) ∧
      OnlyChanges (answering ++ [.map, .records, .queues, .journal]) (actingAt s d) t := by
  have changes := endRecord_changes (actingAt s d) i r o (some (deskPort d)) (some x.badge)
  obtain ⟨t, ht, replied, within, answered⟩ := request_done op.taking k tag hb false rule hr changes changes.ports
  exact ⟨t, ht, (recordEnded_endRecord h _ i r _ _).of_answering answered, replied, within⟩

/-- A rule of the supervisor on a record. -/
theorem onRecordSupervised_acting {s : State} {x : Session} {b : Byte} {n : Word16} {i : RecordIdx} {r : Record}
    (sup : Supervisor s x .supervise) (hi : recordOf b = some i) (hr : (actingAt s supervisor).record i = some r)
    (hn : r.number = n) (k : State → Session → RecordIdx → Record → State × Reply) :
    onRecordSupervised (heardAt s (deskPort supervisor)) supervisor b n k =
      k (actingAt s supervisor) (s.touched supervisor x) i r := by
  simp only [onRecordSupervised, hi, withSession_acting sup.operator.session, consoleDesk_supervises sup,
    referred_of hr hn, Bool.not_true, Bool.false_eq_true, if_false]

theorem isPartyOf_of {d : Desk} {b : Badge} {p : Party} (hd : consoleDesk p.console = d) (hb : p.badge = b) :
    isPartyOf d b (some p) = true := by
  simp [isPartyOf, isParty, hd, hb]

theorem expiry_ends {s t : State} {i : RecordIdx} {r : Record} (h : t = endRecord s i r .expired none none) :
    RecordEnded s (settle t) i r .expired none none ∧
    OnlyChanges [.map, .records, .queues, .journal, .horns, .attention] s (settle t) := by
  have settled := settle_changes t
  have ended := recordEnded_endRecord (o := .expired) rfl s i r none none
  have changes := endRecord_changes s i r .expired none none
  rw [← h] at ended changes
  exact ⟨ended.of_answering (settled.mono (by decide)), (changes.mono (by decide)).trans (settled.mono (by decide))⟩

/-- Settles O46: every ending of the list is one `endRecord` whose outcome transfers nothing. -/
theorem endingsTransferNothing : Obligations.EndingsTransferNothing := by
  refine ⟨fun d ib n1 n0 tag i r x s op hi hr number => ⟨fun c target here offered => ?_,
    fun here badge unheld => ?_, fun sup holds => ?_⟩, fun i r e s hr due => ⟨fun offered expiry => ?_,
    fun overlap expiry => ?_⟩⟩
  · refine request_ends op rfl .decline tag (by simp [maxBody]) declineRule ?_
    simp only [declineRule, onRecord_acting op.session hi hr number, target, here, offered, ne_eq, not_true_eq_false,
      if_false]
    rfl
  · have party : isPartyOf d (s.touched d x).badge (some r.outgoing) = true := isPartyOf_of here badge
    refine request_ends op rfl .withdraw tag (by simp [maxBody]) withdrawRule ?_
    simp only [withdrawRule, onRecord_acting op.session hi hr number, party, unheld, Bool.not_true, Bool.false_eq_true,
      if_false]
    rfl
  · subst sup
    refine request_ends op rfl .forceWithdraw tag (by simp [maxBody]) forceWithdrawRule ?_
    simp only [forceWithdrawRule, onRecordSupervised_acting ⟨op, holds⟩ hi hr number]
    rfl
  · refine ⟨settle (offerExpired s i), rfl, expiry_ends ?_⟩
    simp only [offerExpired, hr, offered, expiry, reachedOpt, due, and_self, if_true]
  · refine ⟨settle (overlapLimitExpired s i), rfl, expiry_ends ?_⟩
    simp only [overlapLimitExpired, hr, overlap, expiry, reachedOpt, due, and_self, if_true]

/-! ## Commits -/

/-- The areas of a record have gone to its incoming party, and the record is free (R139, R163). -/
def RecordCommitted (s t : State) (i : RecordIdx) (r : Record) (inc : Party) (o : HandoverOutcome) (d : Desk)
    (badge : Badge) : Prop :=
  t.record i = none ∧ OtherRecordsSame s t i ∧
  (∀ a q, s.area a = some q → inSet r.areas a = true →
    t.area a = some
      { q with owner := some inc, link := none, attendance := s.deriveAttendance (some inc) }) ∧
  (∀ a, inSet r.areas a = false → (t.area a).map (fun q => (q.nameIndex, q.owner, q.link)) =
    (s.area a).map (fun q => (q.nameIndex, q.owner, q.link))) ∧
  LastEntry t .handoverEnd
    { port := some (deskPort d), badge := some badge, area := (areasOf r.areas).head?
      detail := detail4 (byte i) (outcomeCode (some o)) (handoverCode (some r.state)) (byte inc.console) } ∧
  OnlyChanges (answering ++ [.map, .records, .queues, .journal]) s t

/-- A request whose rule ends a record by an outcome that transfers its areas. -/
theorem request_commits {s : State} {d : Desk} {x : Session} {o : HandoverOutcome} {body reply : List Byte}
    {i : RecordIdx} {r : Record} {inc : Party} (op : Operator s d x) (h : o.transfers = true)
    (incoming : r.incoming = some inc) (k : Kind) (tag : Byte) (hb : body.length ≤ maxBody) (rule : DeskRule)
    (hr : rule d body (heardAt s (deskPort d)) =
      (endRecord (actingAt s d) i r o (some (deskPort d)) (some x.badge), done [] reply)) :
    ∃ t, runRequest (deskPort d) k tag body (.desk false rule) s = .next t ∧
      RecordCommitted (actingAt s d) t i r inc o d x.badge ∧
      Replied (actingAt s d) t (deskPort d) k tag (done [] reply) := by
  have running := actingAt_running (d := d) op.taking.running
  have changes := endRecord_changes (actingAt s d) i r o (some (deskPort d)) (some x.badge)
  have last := endRecord_last i r o (some (deskPort d)) (some x.badge) running
  have record := fun j => endRecord_record (actingAt s d) i j r o (some (deskPort d)) (some x.badge)
  have area := endRecord_area_transfer h (actingAt s d) i r (some (deskPort d)) (some x.badge)
  rw [h, if_pos rfl, incoming] at last
  simp only [incoming] at area
  obtain ⟨t, ht, replied, within, answered⟩ := request_done op.taking k tag hb false rule hr changes changes.ports
  refine ⟨t, ht, ⟨?_, fun j hj => ?_, fun a q hq within => ?_, fun a apart => ?_, answered.lastEntry last, within⟩,
    replied⟩
  · rw [answered.at_record, record, if_pos rfl]
  · rw [answered.at_record, record, if_neg hj]
  · rw [answered.at_area, area, if_pos within, hq]
    rfl
  · rw [answered.at_area, area, apart, if_neg (by decide)]
    cases (actingAt s d).area a <;> rfl

/-- The test of R159 that needs no co-sign. -/
theorem take_free {s : State} {r : Record} {c : Console}
    (h : r.coSigned.isSome = true ∨
      ((∀ item ∈ r.items, item.status ≠ .isOpen) ∧ r.incomplete = false ∧
        (∀ a, inSet r.areas a = true → (s.load a).state ≠ .busy) ∧ s.loadAfter c r.areas ≤ s.param 12)) :
    (r.coSigned.isNone && !(r.itemsDone && s.noneBusy r && s.loadFits r c)) = false := by
  rcases h with signed | ⟨items, complete, idle, fits⟩
  · obtain ⟨b, hb⟩ := Option.isSome_iff_exists.1 signed
    rw [hb]
    rfl
  · have itemsDone : r.itemsDone = true := by
      simp only [Record.itemsDone, complete, Bool.not_false, Bool.and_true, List.all_eq_true, bne_iff_ne]
      exact items
    have noneBusy : s.noneBusy r = true := by
      simp only [State.noneBusy, List.all_eq_true, mem_areasOf, bne_iff_ne]
      exact idle
    have loadFits : s.loadFits r c = true := decide_eq_true fits
    rw [itemsDone, noneBusy, loadFits]
    exact Bool.and_false _

/-- Settles O48: TAKE and FORCE COMMIT are one ending that transfers. -/
theorem commitTransfersAreas : Obligations.CommitTransfersAreas := by
  intro ib n1 n0 tag i r inc x s hi number incoming
  refine ⟨fun op hr badge overlap takes enough free => ?_, fun sup hr accepted present => ?_⟩
  · have changes := actingAt_desk_changes s (consoleDesk inc.console)
    have party : isPartyOf (consoleDesk inc.console) (s.touched (consoleDesk inc.console) x).badge (some inc) = true :=
      isPartyOf_of rfl badge
    have permitted : (firstFailing r.areas ((s.roleOf x).permits .take)).isSome = false := by
      rw [firstFailing_none takes]
      rfl
    have ready : ¬ (actingAt s (consoleDesk inc.console)).overlap r <
        (actingAt s (consoleDesk inc.console)).minOverlap := by
      rw [State.minOverlap, changes.at_param]
      omega
    have unbound := take_free (s := actingAt s (consoleDesk inc.console)) (r := r) (c := inc.console) (by
      rw [changes.at_param]
      simp only [changes.at_load]
      exact free)
    refine request_commits op rfl incoming .take tag (by simp [maxBody]) takeRule ?_
    simp only [takeRule, onRecord_acting op.session hi hr number, incoming, party, Bool.not_true, Bool.false_eq_true,
      if_false, actingAt_roleOf, permitted, overlap, ready, unbound]
    rfl
  · refine request_commits sup.operator rfl incoming .forceCommit tag (by simp [maxBody]) forceCommitRule ?_
    simp only [forceCommitRule, onRecordSupervised_acting sup hi hr number, accepted, present, Bool.not_true,
      Bool.false_eq_true, if_false]
    rfl

end Sys2Proof.Proofs
end

/-! PROOFS. The items of handover records: how they follow their points, and how they are confirmed
(spec/09, R153 to R155). -/

section
namespace Sys2Proof.Proofs

open Machine

/-! ## How items follow their points (R153) -/

theorem handItems_record (s : State) (i : Nat) (p : Point) (fresh : Bool) (k : RecordIdx) :
    (handItems s i p fresh).record k =
      (s.record k).map (fun r => if r.accepted && inSet r.areas p.cfg.area then r.follow i p fresh else r) := by
  simp [handItems, State.record]

theorem resolveMoved_record (s : State) (i : Nat) (old new : Area) (k : RecordIdx) :
    (resolveMoved s i old new).record k =
      (s.record k).map (fun r => if r.accepted && inSet r.areas old && !inSet r.areas new then
        { r with items := r.items.map (fun t => if t.point = i then { t with status := .resolved } else t) }
      else r) := by
  simp [resolveMoved, State.record]

/-- What the table of R153 makes of each item that stands. -/
def ItemsFollow (i : Nat) (p : Point) (fresh : Bool) (before after : List Item) : Prop :=
  ∀ (j : Nat) (item : Item), before[j]? = some item →
    (item.point ≠ i → after[j]? = some item) ∧
    (item.point = i → fresh = true →
      after[j]? = some { point := i, reason := p.reason, occ := p.occ, status := .isOpen }) ∧
    (item.point = i → fresh = false → p.listable = false → after[j]? = some { item with status := .resolved }) ∧
    (item.point = i → fresh = false → p.listable = true → item.status = .resolved →
      after[j]? = some { point := i, reason := p.reason, occ := p.occ, status := .isOpen }) ∧
    (item.point = i → fresh = false → p.listable = true → item.status ≠ .resolved →
      after[j]? = some { item with reason := p.reason })

theorem itemsFollow_map (i : Nat) (p : Point) (fresh : Bool) (l : List Item) :
    ItemsFollow i p fresh l (l.map (fun t => if t.point = i then t.follow p fresh else t)) := by
  intro j item h
  rw [List.getElem?_map, h, Option.map_some]
  refine ⟨fun apart => by rw [if_neg apart], fun here => ?_, fun here => ?_, fun here => ?_, fun here => ?_⟩ <;>
    subst here <;> rw [if_pos rfl, Item.follow]
  · intro now
    rw [now]
    rfl
  · intro now off
    rw [now, off]
    rfl
  · intro now on resolved
    rw [now, on, resolved]
    rfl
  · intro now on open_item
    rw [now, on, if_neg (by decide), if_neg (by decide), if_neg open_item]

/-- Items of other points stay where they are. -/
theorem itemsFollow_apart {i : Nat} {p : Point} {fresh : Bool} {before after : List Item}
    (apart : ∀ item ∈ before, item.point ≠ i)
    (kept : ∀ (j : Nat) (item : Item), before[j]? = some item → after[j]? = some item) :
    ItemsFollow i p fresh before after := by
  intro j item h
  have ne := apart item (List.mem_of_getElem? h)
  exact ⟨fun _ => kept j item h, fun here => absurd here ne, fun here => absurd here ne, fun here => absurd here ne,
    fun here => absurd here ne⟩

/-- A record whose areas hold the point's, after a change of the point (R153). -/
theorem follow_items (r : Record) (i : Nat) (p : Point) (fresh : Bool) :
    ∃ items incomplete, r.follow i p fresh = { r with items := items, incomplete := incomplete } ∧
      ItemsFollow i p fresh r.items items ∧
      ((∃ item ∈ r.items, item.point = i) → items.length = r.items.length ∧ incomplete = r.incomplete) ∧
      ((∀ item ∈ r.items, item.point ≠ i) →
        (p.listable = false → items = r.items ∧ incomplete = r.incomplete) ∧
        (p.listable = true → r.items.length < 64 →
          items = r.items ++ [{ point := i, reason := p.reason, occ := p.occ, status := .isOpen }] ∧
          incomplete = r.incomplete) ∧
        (p.listable = true → 64 ≤ r.items.length → items = r.items ∧ incomplete = true)) := by
  by_cases held : ∃ item ∈ r.items, item.point = i
  · have any : r.items.any (·.point == i) = true := by simpa using held
    refine ⟨_, r.incomplete, by rw [Record.follow, if_pos any], itemsFollow_map i p fresh r.items,
      fun _ => ⟨List.length_map _, rfl⟩, fun none => ?_⟩
    obtain ⟨item, hi, here⟩ := held
    exact absurd here (none item hi)
  · have none : ∀ item ∈ r.items, item.point ≠ i := fun item hi here => held ⟨item, hi, here⟩
    have any : ¬ r.items.any (·.point == i) = true := by simpa using none
    have same := itemsFollow_apart (p := p) (fresh := fresh) (after := r.items) none fun _ _ h => h
    cases listable : p.listable with
    | false =>
      refine ⟨r.items, r.incomplete, by rw [Record.follow, if_neg any, listable]; rfl, same,
        fun some => absurd some held, fun _ => ⟨fun _ => ⟨rfl, rfl⟩, fun h => absurd h (by decide), fun h => absurd h (by decide)⟩⟩
    | true =>
      by_cases room : r.items.length < 64
      · refine ⟨r.items ++ [itemOf i p], r.incomplete, ?_, ?_, fun some => absurd some held,
          fun _ => ⟨fun h => absurd h (by decide), fun _ _ => ⟨rfl, rfl⟩, fun _ full => absurd room (by omega)⟩⟩
        · rw [Record.follow, if_neg any, if_pos listable]
          exact if_pos room
        · refine itemsFollow_apart none fun j item h => ?_
          have bound : j < r.items.length := (List.getElem?_eq_some_iff.1 h).1
          rw [List.getElem?_append_left bound, h]
      · refine ⟨r.items, true, ?_, same, fun some => absurd some held,
          fun _ => ⟨fun h => absurd h (by decide), fun _ few => absurd few room, fun _ _ => ⟨rfl, rfl⟩⟩⟩
        rw [Record.follow, if_neg any, if_pos listable]
        exact if_neg room

/-! ## CONFIRM ITEM and CONFIRM PAGE -/

/-- The open items of a list. -/
def openCount (l : List Item) : Nat := (l.filter (·.status == .isOpen)).length

theorem openCount_append (l m : List Item) : openCount (l ++ m) = openCount l + openCount m := by
  simp only [openCount, List.filter_append, List.length_append]

/-- The visit of one item of a page (R155). -/
def confirmVisit (s : State) (seen : MillTime) (t : Item) : Item :=
  if s.pageConfirms seen t then { t with status := .confirmed } else t

theorem confirmPage_of (s : State) (seen : MillTime) (first count : Nat) (l : List Item) :
    s.confirmPage seen first count l =
      l.take first ++ ((l.drop first).take count).map (confirmVisit s seen) ++ (l.drop first).drop count := rfl

/-- The items of the page are visited, and the others stay. -/
theorem confirmPage_get {s : State} {seen : MillTime} {first count j : Nat} {l : List Item} {item : Item}
    (h : l[j]? = some item) : (s.confirmPage seen first count l)[j]? =
      some (if first ≤ j ∧ j < first + count then confirmVisit s seen item else item) := by
  have bound : j < l.length := (List.getElem?_eq_some_iff.1 h).1
  have front : (l.take first).length = min first l.length := List.length_take
  have page : (((l.drop first).take count).map (confirmVisit s seen)).length = min count (l.length - first) := by
    rw [List.length_map, List.length_take, List.length_drop]
  rw [confirmPage_of]
  by_cases before : j < first
  · rw [List.getElem?_append_left (by rw [List.length_append, front]; omega),
      List.getElem?_append_left (by rw [front]; omega), List.getElem?_take_of_lt before, h, if_neg (by omega)]
  · by_cases within : j < first + count
    · rw [List.getElem?_append_left (by rw [List.length_append, front, page]; omega),
        List.getElem?_append_right (by rw [front]; omega), front, Nat.min_eq_left (by omega), List.getElem?_map,
        List.getElem?_take_of_lt (by omega), List.getElem?_drop, show first + (j - first) = j by omega, h,
        if_pos (by omega)]
      rfl
    · rw [List.getElem?_append_right (by rw [List.length_append, front, page]; omega), List.length_append, front, page,
        Nat.min_eq_left (show first ≤ l.length by omega), Nat.min_eq_left (show count ≤ l.length - first by omega),
        List.getElem?_drop, List.getElem?_drop, show first + (count + (j - (first + count))) = j by omega, h,
        if_neg (by omega)]

/-- The open items of a page are those it confirms and those it leaves open. -/
theorem confirmVisit_counts (s : State) (seen : MillTime) (l : List Item) :
    (l.filter (s.pageConfirms seen)).length + openCount (l.map (confirmVisit s seen)) = openCount l := by
  induction l with
  | nil => rfl
  | cons t rest ih =>
    have split : ∀ (u : Item) (m : List Item), openCount (u :: m) =
        (if u.status = .isOpen then 1 else 0) + openCount m := by
      intro u m
      unfold openCount
      rw [List.filter_cons]
      by_cases h : u.status = .isOpen
      · simp [h]; omega
      · simp [h]
    rw [List.map_cons, split, split, List.filter_cons]
    by_cases confirms : s.pageConfirms seen t = true
    · have is_open : t.status = .isOpen := by
        simp only [State.pageConfirms, Bool.and_eq_true, beq_iff_eq] at confirms
        exact confirms.1
      have visited : (confirmVisit s seen t).status = .confirmed := by rw [confirmVisit, if_pos confirms]
      rw [if_pos confirms, visited, is_open, if_neg (by decide), if_pos rfl, List.length_cons]
      omega
    · have visited : confirmVisit s seen t = t := by rw [confirmVisit, if_neg confirms]
      rw [if_neg confirms, visited]
      omega

theorem confirmPage_counts (s : State) (seen : MillTime) (first count : Nat) (l : List Item) :
    (((l.drop first).take count).filter (s.pageConfirms seen)).length +
      openCount (s.confirmPage seen first count l) = openCount l := by
  have parts : l = l.take first ++ (l.drop first).take count ++ (l.drop first).drop count := by
    rw [List.append_assoc, List.take_append_drop, List.take_append_drop]
  have visits := confirmVisit_counts s seen ((l.drop first).take count)
  rw [confirmPage_of, openCount_append, openCount_append]
  conv => rhs; rw [parts, openCount_append, openCount_append]
  omega

theorem pageConfirms_iff (s : State) (seen : MillTime) (item : Item) : s.pageConfirms seen item = true ↔
    item.status = .isOpen ∧
      ∀ p st, s.point item.point = some p → p.stamp = some st → atOrBefore st.mill seen = true := by
  rw [State.pageConfirms, Bool.and_eq_true, beq_iff_eq, State.itemSeen]
  refine and_congr_right fun _ => ?_
  cases hp : s.point item.point with
  | none => exact ⟨fun _ p st h => absurd h (by simp), fun _ => rfl⟩
  | some p =>
    rw [Option.bind_some]
    cases hs : p.stamp with
    | none =>
      refine ⟨fun _ q st h stamp => ?_, fun _ => rfl⟩
      rw [← Option.some.inj h, hs] at stamp
      cases stamp
    | some st =>
      refine ⟨fun seen q st' h stamp => ?_, fun all => all p st rfl hs⟩
      rw [← Option.some.inj h, hs] at stamp
      exact Option.some.inj stamp ▸ seen

theorem recordWritten {s t : State} {i : RecordIdx} {q : Option Record}
    (h : t.records = (s.setRecord i q).records) : t.record i = q ∧ OtherRecordsSame s t i := by
  have record : ∀ j, t.record j = (s.setRecord i q).record j := fun j => by rw [State.record, State.record, h]
  exact ⟨by rw [record, setRecord_record], fun j hj => by rw [record, setRecord_record_ne _ _ hj]⟩

theorem confirmItem_confirms {s : State} {c : Console} {ib n1 n0 tag : Byte} {i : RecordIdx} {r : Record}
    {x : Session} (op : Operator s (consoleDesk c) x) (hi : recordOf ib = some i)
    (hr : (actingAt s (consoleDesk c)).record i = some r) (number : r.number = read16 n1 n0)
    (accepted : r.accepted = true) (incoming : r.incoming = some { console := c, badge := x.badge })
    (k o1 o0 : Byte) (item : Item) (p : Point) (listed : r.items[k.toNat]? = some item)
    (hp : s.point item.point = some p) (views : (s.roleOf x).permits .view p.cfg.area = true)
    (occ : item.occ = read16 o1 o0) (is_open : item.status = .isOpen) :
    ∃ t items, exec (.confirmItem (deskPort (consoleDesk c)) tag [ib, n1, n0, k, o1, o0]) s = .next t ∧
      t.record i = some { r with items := items } ∧ items.length = r.items.length ∧
      items[k.toNat]? = some { item with status := .confirmed } ∧
      (∀ j, j ≠ k.toNat → items[j]? = r.items[j]?) ∧ OtherRecordsSame (actingAt s (consoleDesk c)) t i ∧
      LastEntry t .confirm
        { port := some (deskPort (consoleDesk c)), badge := some x.badge, area := some p.cfg.area
          point := some item.point, occ := item.occ, detail := detail4 ib k 0#8 0#8 } ∧
      Replied (actingAt s (consoleDesk c)) t (deskPort (consoleDesk c)) .confirmItem tag
        (done [] (k :: num16 (items.filter (·.status == .isOpen)).length)) ∧
      OnlyChanges (answering ++ [.records, .journal]) (actingAt s (consoleDesk c)) t := by
  have running := actingAt_running (d := consoleDesk c) op.taking.running
  have party : isPartyOf (consoleDesk c) x.badge r.incoming = true := by
    rw [incoming]
    exact isPartyOf_of rfl rfl
  have area : (actingAt s (consoleDesk c)).itemArea item = some p.cfg.area := by
    rw [State.itemArea, actingAt_point, hp]
    rfl
  have badge : (s.touched (consoleDesk c) x).badge = x.badge := rfl
  have rule : confirmItemRule (consoleDesk c) [ib, n1, n0, k, o1, o0] (heardAt s (deskPort (consoleDesk c))) =
      (((actingAt s (consoleDesk c)).setRecord i (some (r.confirm k.toNat))).enter .confirm
        { port := some (deskPort (consoleDesk c)), badge := some x.badge, area := some p.cfg.area
          point := some item.point, occ := item.occ, detail := detail4 ib k 0#8 0#8 },
        done [] (k :: num16 (r.confirm k.toNat).openItems)) := by
    simp only [confirmItemRule, onRecord_acting op.session hi hr number, accepted, listed, party, area, Option.any_some,
      actingAt_roleOf, views, occ, is_open, badge, Bool.not_true, Bool.false_eq_true, if_false, ne_eq,
      not_true_eq_false]
    rfl
  have written := setRecord_changes (actingAt s (consoleDesk c)) i (some (r.confirm k.toNat))
  have entered := enter_changes ((actingAt s (consoleDesk c)).setRecord i (some (r.confirm k.toNat))) .confirm
    { port := some (deskPort (consoleDesk c)), badge := some x.badge, area := some p.cfg.area
      point := some item.point, occ := item.occ, detail := detail4 ib k 0#8 0#8 }
  have made := (written.mono (U := [.records, .journal]) (by decide)).trans (entered.mono (by decide))
  obtain ⟨t, ht, replied, within, answered⟩ := request_done op.taking .confirmItem tag (by simp [maxBody]) false
    confirmItemRule rule made made.ports
  obtain ⟨here, others⟩ := recordWritten (answered.records.trans entered.records)
  refine ⟨t, (r.confirm k.toNat).items, ht, here, List.length_modify _ _ _, ?_, fun j hj => ?_, others,
    answered.lastEntry (enter_last _ _ _ (written.dev.trans running)), replied, within⟩
  · rw [Record.confirm]
    dsimp only
    rw [List.getElem?_modify_eq, listed]
    rfl
  · rw [Record.confirm]
    dsimp only
    exact List.getElem?_modify_ne _ _ (Ne.symm hj)

theorem confirmPage_confirms {s : State} {c : Console} {ib n1 n0 tag : Byte} {i : RecordIdx} {r : Record}
    {x : Session} (op : Operator s (consoleDesk c) x) (hi : recordOf ib = some i)
    (hr : (actingAt s (consoleDesk c)).record i = some r) (number : r.number = read16 n1 n0)
    (accepted : r.accepted = true) (incoming : r.incoming = some { console := c, badge := x.badge })
    (f n t3 t2 t1 t0 : Byte) (some_item : 1 ≤ n.toNat) (page : n.toNat ≤ 16) (first : f.toNat < r.items.length)
    (views : ∀ a, inSet r.areas a = true → (s.roleOf x).permits .view a = true) :
    let confirms := fun (item : Item) => item.status = .isOpen ∧
      ∀ p st, s.point item.point = some p → p.stamp = some st → atOrBefore st.mill (read32 t3 t2 t1 t0) = true
    ∃ t items, exec (.confirmPage (deskPort (consoleDesk c)) tag [ib, n1, n0, f, n, t3, t2, t1, t0]) s = .next t ∧
      t.record i = some { r with items := items } ∧ items.length = r.items.length ∧
      (∀ (j : Nat) (item : Item), r.items[j]? = some item →
        (f.toNat ≤ j ∧ j < f.toNat + n.toNat ∧ confirms item →
          items[j]? = some { item with status := .confirmed }) ∧
        (¬(f.toNat ≤ j ∧ j < f.toNat + n.toNat ∧ confirms item) → items[j]? = some item)) ∧
      OtherRecordsSame (actingAt s (consoleDesk c)) t i ∧
      (∃ confirmed, confirmed + (items.filter (·.status == .isOpen)).length =
          (r.items.filter (·.status == .isOpen)).length ∧
        LastEntry t .confirm
          { port := some (deskPort (consoleDesk c)), badge := some x.badge
            detail := detail4 ib f 0x80#8 (byte confirmed) } ∧
        Replied (actingAt s (consoleDesk c)) t (deskPort (consoleDesk c)) .confirmPage tag
          (done [] (num16 confirmed ++ num16 (items.filter (·.status == .isOpen)).length))) ∧
      OnlyChanges (answering ++ [.records, .journal]) (actingAt s (consoleDesk c)) t := by
  have running := actingAt_running (d := consoleDesk c) op.taking.running
  have party : isPartyOf (consoleDesk c) x.badge r.incoming = true := by
    rw [incoming]
    exact isPartyOf_of rfl rfl
  have permitted : (firstFailing r.areas ((s.roleOf x).permits .view)).isSome = false := by
    rw [firstFailing_none views]
    rfl
  have count : ¬ (n.toNat = 0 ∨ 16 < n.toNat) := by omega
  have listed : ¬ r.items.length ≤ f.toNat := by omega
  have badge : (s.touched (consoleDesk c) x).badge = x.badge := rfl
  have counts := confirmPage_counts (actingAt s (consoleDesk c)) (read32 t3 t2 t1 t0) f.toNat n.toNat r.items
  have get := fun j item => confirmPage_get (s := actingAt s (consoleDesk c)) (seen := read32 t3 t2 t1 t0)
    (first := f.toNat) (count := n.toNat) (j := j) (l := r.items) (item := item)
  have length := confirmPage_length (actingAt s (consoleDesk c)) (read32 t3 t2 t1 t0) f.toNat n.toNat r.items
  have rule : confirmPageRule (consoleDesk c) [ib, n1, n0, f, n, t3, t2, t1, t0]
      (heardAt s (deskPort (consoleDesk c))) =
      (((actingAt s (consoleDesk c)).setRecord i (some { r with
          items := (actingAt s (consoleDesk c)).confirmPage (read32 t3 t2 t1 t0) f.toNat n.toNat r.items })).enter
        .confirm
        { port := some (deskPort (consoleDesk c)), badge := some x.badge
          detail := detail4 ib f 0x80#8 (byte (((r.items.drop f.toNat).take n.toNat).filter
            ((actingAt s (consoleDesk c)).pageConfirms (read32 t3 t2 t1 t0))).length) },
        done [] (num16 (((r.items.drop f.toNat).take n.toNat).filter
            ((actingAt s (consoleDesk c)).pageConfirms (read32 t3 t2 t1 t0))).length ++
          num16 (openCount ((actingAt s (consoleDesk c)).confirmPage (read32 t3 t2 t1 t0) f.toNat n.toNat
            r.items)))) := by
    simp only [confirmPageRule, count, if_false, onRecord_acting op.session hi hr number, accepted, listed, party,
      actingAt_roleOf, permitted, badge, Bool.not_true, Bool.false_eq_true]
    rfl
  generalize (actingAt s (consoleDesk c)).confirmPage (read32 t3 t2 t1 t0) f.toNat n.toNat r.items = items
    at rule counts get length
  generalize hn : (((r.items.drop f.toNat).take n.toNat).filter
    ((actingAt s (consoleDesk c)).pageConfirms (read32 t3 t2 t1 t0))).length = confirmed at rule counts
  have written := setRecord_changes (actingAt s (consoleDesk c)) i (some { r with items := items })
  have entered := enter_changes ((actingAt s (consoleDesk c)).setRecord i (some { r with items := items })) .confirm
    { port := some (deskPort (consoleDesk c)), badge := some x.badge
      detail := detail4 ib f 0x80#8 (byte confirmed) }
  have made := (written.mono (U := [.records, .journal]) (by decide)).trans (entered.mono (by decide))
  obtain ⟨t, ht, replied, within, answered⟩ := request_done op.taking .confirmPage tag (by simp [maxBody]) false
    confirmPageRule rule made made.ports
  obtain ⟨here, others⟩ := recordWritten (answered.records.trans entered.records)
  have visited : ∀ item, (actingAt s (consoleDesk c)).pageConfirms (read32 t3 t2 t1 t0) item = true ↔
      item.status = .isOpen ∧ ∀ p st, s.point item.point = some p → p.stamp = some st →
        atOrBefore st.mill (read32 t3 t2 t1 t0) = true := by
    intro item
    rw [pageConfirms_iff, actingAt_point]
  refine ⟨t, items, ht, here, length, fun j item h => ⟨fun confirms => ?_, fun left => ?_⟩, others,
    ⟨confirmed, counts, answered.lastEntry (enter_last _ _ _ (written.dev.trans running)), replied⟩, within⟩
  · obtain ⟨low, high, confirms⟩ := confirms
    rw [get j item h, if_pos ⟨low, high⟩, confirmVisit, if_pos ((visited item).2 confirms)]
  · rw [get j item h]
    by_cases within : f.toNat ≤ j ∧ j < f.toNat + n.toNat
    · rw [if_pos within, confirmVisit, if_neg fun confirms => left ⟨within.1, within.2, (visited item).1 confirms⟩]
    · rw [if_neg within]

theorem handItems_follow (i : Nat) (p : Point) (fresh : Bool) (s : State) :
    OnlyChanges [.records] s (handItems s i p fresh) ∧
    ∀ k, (s.record k = none → (handItems s i p fresh).record k = none) ∧
      ∀ r, s.record k = some r →
        (r.accepted = false ∨ inSet r.areas p.cfg.area = false → (handItems s i p fresh).record k = some r) ∧
        (r.accepted = true → inSet r.areas p.cfg.area = true →
          (handItems s i p fresh).record k = some (r.follow i p fresh)) := by
  refine ⟨handItems_changes s i p fresh, fun k => ⟨fun none => by rw [handItems_record, none]; rfl, fun r hr =>
    ⟨fun apart => ?_, fun accepted within => ?_⟩⟩⟩
  · rw [handItems_record, hr, Option.map_some, if_neg (by rcases apart with h | h <;> rw [h] <;> simp)]
  · rw [handItems_record, hr, Option.map_some, accepted, within, if_pos (by rfl)]

theorem resolveMoved_resolves (i : Nat) (old new : Area) (s : State) :
    OnlyChanges [.records] s (resolveMoved s i old new) ∧
    ∀ k, (s.record k = none → (resolveMoved s i old new).record k = none) ∧
      ∀ r, s.record k = some r →
        (r.accepted = true ∧ inSet r.areas old = true ∧ inSet r.areas new = false →
          (resolveMoved s i old new).record k = some { r with items := r.items.map (fun item =>
            if item.point = i then { item with status := .resolved } else item) }) ∧
        (¬(r.accepted = true ∧ inSet r.areas old = true ∧ inSet r.areas new = false) →
          (resolveMoved s i old new).record k = some r) := by
  refine ⟨resolveMoved_changes s i old new, fun k => ⟨fun none => by rw [resolveMoved_record, none]; rfl, fun r hr =>
    ⟨fun leaves => ?_, fun stays => ?_⟩⟩⟩
  · rw [resolveMoved_record, hr, Option.map_some, if_pos (by simp [leaves])]
  · rw [resolveMoved_record, hr, Option.map_some, if_neg (by simpa [and_assoc] using stays)]

/-- Settles O47: items follow their points, and a confirmation marks the open ones that were seen. -/
theorem confirmMarksItems : Obligations.ConfirmMarksItems := by
  refine ⟨fun i p fresh s => ?_, fun i old new s => resolveMoved_resolves i old new s,
    fun c ib n1 n0 tag i r x s op hi hr number accepted incoming =>
      ⟨confirmItem_confirms op hi hr number accepted incoming, confirmPage_confirms op hi hr number accepted incoming⟩⟩
  obtain ⟨changes, records⟩ := handItems_follow i p fresh s
  refine ⟨changes, fun k => ⟨(records k).1, fun r hr => ⟨((records k).2 r hr).1, fun accepted within => ?_⟩⟩⟩
  obtain ⟨items, incomplete, follows, rest⟩ := follow_items r i p fresh
  exact ⟨items, incomplete, (((records k).2 r hr).2 accepted within).trans (congrArg some follows), rest⟩

end Sys2Proof.Proofs
end

/-! PROOFS. CO-SIGN, and the records that end as they go on (spec/09, R152, R157, R161). -/

section
namespace Sys2Proof.Proofs

open Machine

/-! ## The records that end as they go on (R152) -/

/-- The record goes on with its limit already reached. -/
def overruns (r : Record) : Bool := r.state == .overlap && r.limitExpiry.isNone

theorem overruns_false {r : Record} (h : r.state = .overlap → r.limitExpiry.isSome = true) : overruns r = false := by
  rw [overruns, Bool.and_eq_false_iff]
  by_cases overlap : r.state = .overlap
  · obtain ⟨e, he⟩ := Option.isSome_iff_exists.1 (h overlap)
    exact .inr (by rw [he]; rfl)
  · exact .inl (beq_false_of_ne overlap)

/-- The visit of one record by `endOverruns`. -/
def endOverrun (s : State) (i : RecordIdx) : State :=
  match s.record i with
  | some r => if overruns r then endRecord s i r .expired none none else s
  | none => s

theorem endOverruns_of (s : State) : endOverruns s = allRecords.foldl endOverrun s := rfl

theorem endOverrun_stays {s : State} {i : RecordIdx} (h : ∀ r, s.record i = some r → overruns r = false) :
    endOverrun s i = s := by
  unfold endOverrun
  cases hr : s.record i with
  | none => rfl
  | some r =>
    dsimp only
    rw [h r hr, if_neg (by decide)]

theorem endOverrun_ends {s : State} {i : RecordIdx} {r : Record} (hr : s.record i = some r)
    (h : overruns r = true) : endOverrun s i = endRecord s i r .expired none none := by
  unfold endOverrun
  rw [hr]
  exact if_pos h

/-- A visit leaves the other records, and every owner. -/
theorem endOverrun_keeps (s : State) (i : RecordIdx) :
    OtherRecordsSame s (endOverrun s i) i ∧ (∀ a, (endOverrun s i).owner a = s.owner a) := by
  unfold endOverrun
  cases s.record i with
  | none => exact ⟨fun _ _ => rfl, fun _ => rfl⟩
  | some r =>
    dsimp only
    split
    · refine ⟨fun j hj => by rw [endRecord_record, if_neg hj], fun a => ?_⟩
      rw [State.owner, State.owner, endRecord_area rfl]
      cases s.area a with
      | none => rfl
      | some q =>
        rw [Option.map_some, Option.bind_some, Option.bind_some]
        split <;> rfl
    · exact ⟨fun _ _ => rfl, fun _ => rfl⟩

/-- A record that does not overrun stands after the visits, and no owner changes. -/
theorem endOverruns_keeps (s : State) :
    (∀ j q, s.record j = some q → overruns q = false → (endOverruns s).record j = some q) ∧
    (∀ a, (endOverruns s).owner a = s.owner a) := by
  rw [endOverruns_of]
  generalize allRecords = l
  induction l generalizing s with
  | nil => exact ⟨fun _ _ h _ => h, fun _ => rfl⟩
  | cons i rest ih =>
    rw [List.foldl_cons]
    obtain ⟨others, owners⟩ := endOverrun_keeps s i
    obtain ⟨stands, owned⟩ := ih (endOverrun s i)
    refine ⟨fun j q hq runs => stands j q ?_ runs, fun a => (owned a).trans (owners a)⟩
    by_cases e : j = i
    · subst e
      rw [endOverrun_stays fun r hr => Option.some.inj (hq.symm.trans hr) ▸ runs, hq]
    · rw [others j e, hq]

/-- Where at most one record overruns, the visits end that one alone. -/
theorem endOverruns_alone {s : State} {i : RecordIdx}
    (others : ∀ j q, j ≠ i → s.record j = some q → overruns q = false) : endOverruns s = endOverrun s i := by
  suffices run : ∀ (l : List RecordIdx) (t : State), l.Nodup →
      (∀ j q, j ≠ i → t.record j = some q → overruns q = false) →
      l.foldl endOverrun t = if i ∈ l then endOverrun t i else t by
    have := run allRecords s (by decide) others
    rw [if_pos (mem_allRecords i)] at this
    exact this
  intro l
  induction l with
  | nil => exact fun t _ _ => rfl
  | cons k rest ih =>
    intro t nodup apart
    obtain ⟨fresh, nodup⟩ := List.nodup_cons.1 nodup
    rw [List.foldl_cons]
    by_cases e : k = i
    · subst e
      obtain ⟨same, _⟩ := endOverrun_keeps t k
      rw [ih _ nodup fun j q hj hq => apart j q hj ((same j hj).symm.trans hq), if_neg fresh,
        if_pos List.mem_cons_self]
    · rw [endOverrun_stays fun r hr => apart k r e hr, ih t nodup apart]
      simp only [List.mem_cons, Ne.symm e, false_or]

/-- The ending of a record by expiry closes a run of entries (R163). -/
theorem endRecord_expired_entries {s : State} {l : List (JournalKind × EntryFields)} (h : LastEntries s l)
    (running : s.dev = .running) (short : l.length < 256) (i : RecordIdx) (r : Record) :
    LastEntries (endRecord s i r .expired none none) (l ++ [(.handoverEnd,
      { area := (areasOf r.areas).head?
        detail := detail4 (byte i) 5#8 (handoverCode (some r.state)) 0xFF#8 })]) := by
  have cut := changeAreas_changes s r.areas (fun x => { x with link := none })
  have freed := setRecord_changes (changeAreas s r.areas (fun x => { x with link := none })) i none
  generalize hu : (changeAreas s r.areas (fun x => { x with link := none })).setRecord i none = u at freed
  have noted := handoverNotice_changes u (r.endBody i .expired)
    (fun d => r.names d || (r.state == .offered && u.receives r d))
  have all : OnlyChanges [.map, .records, .queues] s (handoverNotice u (r.endBody i .expired)
      (fun d => r.names d || (r.state == .offered && u.receives r d))) :=
    (cut.mono (by decide)).trans ((freed.mono (by decide)).trans (noted.mono (by decide)))
  have ends : endRecord s i r .expired none none = handoverEndEntry (handoverNotice u (r.endBody i .expired)
      (fun d => r.names d || (r.state == .offered && u.receives r d))) i r .expired none none := by
    rw [← hu]
    rfl
  rw [ends]
  exact (LastEntries.of_changes all h).enter (all.dev.trans running) short _ _

/-! ## CO-SIGN -/

/-- The record of a CO-SIGN (R161). -/
def signedRecord (x : Session) (r : Record) : Record := { r with coSigned := some x.badge, outgoingLost := false }

/-- The entry of a CO-SIGN. -/
def coSignEntry (d : Desk) (x : Session) (i : RecordIdx) (r : Record) : JournalKind × EntryFields :=
  (.coSign, { port := some (deskPort d), badge := some x.badge, detail := detailFlag (byte i) r.outgoingLost 0 })

/-- The entry of a move from one state of a record to another. -/
def moveEntry (i : RecordIdx) (before : HandoverState) (r : Record) : JournalKind × EntryFields :=
  (.handoverState,
    { port := some (deskPort (consoleDesk r.outgoing.console)), badge := some r.outgoing.badge
      detail := detail4 (byte i) (handoverCode (some before)) (handoverCode (some r.state))
        (causesByte r.flood r.outgoingLost) })

/-- The state of a CO-SIGN before the records that overrun end. -/
def coSignedState (s : State) (d : Desk) (x : Session) (i : RecordIdx) (r q : Record) : State :=
  let s2 := (handoverNotice (s.setRecord i (some q)) (q.body i) q.names).enter .coSign (coSignEntry d x i r).2
  if q.state = r.state then s2 else handoverStateEntry s2 i r.state q

theorem coSignTaken_of (s : State) (d : Desk) (x : Session) (i : RecordIdx) (r : Record) :
    coSignTaken s d x i r =
      (endOverruns (coSignedState s d x i r (s.followCauses (signedRecord x r))),
        done [] [handoverCode (some (s.followCauses (signedRecord x r)).state)]) := rfl

theorem coSignedState_of {s : State} (running : s.dev = .running) (d : Desk) (x : Session) (i : RecordIdx)
    (r q : Record) :
    (coSignedState s d x i r q).record i = some q ∧ OtherRecordsSame s (coSignedState s d x i r q) i ∧
    LastEntries (coSignedState s d x i r q)
      (coSignEntry d x i r :: if q.state = r.state then [] else [moveEntry i r.state q]) ∧
    OnlyChanges [.records, .queues, .journal] s (coSignedState s d x i r q) := by
  have written := setRecord_changes s i (some q)
  have noted := handoverNotice_changes (s.setRecord i (some q)) (q.body i) q.names
  generalize hn : handoverNotice (s.setRecord i (some q)) (q.body i) q.names = n at noted
  have first : OnlyChanges [.records, .queues] s n := (written.mono (by decide)).trans (noted.mono (by decide))
  have here : n.record i = some q := (noted.at_record i).trans (setRecord_record _ _ _)
  have others : OtherRecordsSame s n i := fun j hj => (noted.at_record j).trans (setRecord_record_ne _ _ hj)
  have entered := enter_changes n .coSign (coSignEntry d x i r).2
  have one := ((LastEntries.nil n).enter (first.dev.trans running) (by simp) .coSign (coSignEntry d x i r).2)
  rw [coSignedState, hn]
  by_cases same : q.state = r.state
  · rw [if_pos same, if_pos same]
    exact ⟨(entered.at_record i).trans here, otherRecordsSame_of_records others entered.records, one,
      (first.mono (by decide)).trans (entered.mono (by decide))⟩
  · rw [if_neg same, if_neg same]
    have moved := enter_changes (n.enter .coSign (coSignEntry d x i r).2) .handoverState (moveEntry i r.state q).2
    have two := one.enter (entered.dev.trans (first.dev.trans running)) (by simp) .handoverState
      (moveEntry i r.state q).2
    have both := entered.trans moved
    exact ⟨(both.at_record i).trans here, otherRecordsSame_of_records others both.records, two,
      (first.mono (by decide)).trans (both.mono (by decide))⟩

theorem followCauses_kept {s : State} {r : Record} (h : r.state = .overlap ∧ r.caused = false ∨
    r.state = .held ∧ r.caused = true) : s.followCauses r = r := by
  rcases h with ⟨state, caused⟩ | ⟨state, caused⟩ <;> simp [State.followCauses, state, caused]

theorem followCauses_resumes {s : State} {r : Record} (state : r.state = .held) (caused : r.caused = false) :
    s.followCauses r = s.enterOverlap r := by
  simp [State.followCauses, state, caused]

/-- A record that goes on in OVERLAP with its limit not reached. -/
theorem enterOverlap_runs {s : State} {r : Record} (h : r.accumulated < 10 * s.param 26) :
    s.enterOverlap r = { r with
      state := .overlap, resume := some s.elapsed
      limitExpiry := some (after s.elapsed (10 * s.param 26 - r.accumulated)) } := by
  have open_limit : ¬ s.overlapLimit ≤ r.accumulated := by
    have : s.overlapLimit = 10 * s.param 26 := rfl
    omega
  rw [State.enterOverlap, if_neg open_limit]
  rfl

/-- A record that goes on in OVERLAP with its limit reached. -/
theorem enterOverlap_overruns {s : State} {r : Record} (h : 10 * s.param 26 ≤ r.accumulated) :
    s.enterOverlap r = { r with state := .overlap, resume := some s.elapsed, limitExpiry := none } := by
  have reached_limit : s.overlapLimit ≤ r.accumulated := h
  rw [State.enterOverlap, if_pos reached_limit]

/-- The other records run on, each with its limit to come. -/
theorem coSigned_runs {s : State} {x : Session} {i : RecordIdx} {r q : Record} (running : s.dev = .running)
    (others : ∀ j q, j ≠ i → s.record j = some q → q.state = .overlap → q.limitExpiry.isSome = true) :
    endOverruns (coSignedState s supervisor x i r q) = endOverrun (coSignedState s supervisor x i r q) i := by
  obtain ⟨_, same, _, _⟩ := coSignedState_of running supervisor x i r q
  exact endOverruns_alone fun j p hj hp => overruns_false fun overlap =>
    others j p hj ((same j hj).symm.trans hp) overlap

section
variable {s t : State} {x : Session} {i : RecordIdx} {r q : Record} (running : s.dev = .running)
  (answered : OnlyChanges answering (endOverruns (coSignedState s supervisor x i r q)) t)
include running answered

/-- A co-signed record that does not overrun stands, and ends nothing by itself. -/
theorem coSigned_stands (runs : overruns q = false) :
    t.record i = some q ∧
    ((∀ j q, j ≠ i → s.record j = some q → q.state = .overlap → q.limitExpiry.isSome = true) →
      LastEntries t (coSignEntry supervisor x i r :: if q.state = r.state then [] else [moveEntry i r.state q]) ∧
      t.map = s.map) := by
  obtain ⟨here, _, last, changes⟩ := coSignedState_of running supervisor x i r q
  refine ⟨(answered.at_record i).trans ((endOverruns_keeps _).1 i q here runs), fun others => ?_⟩
  rw [coSigned_runs running others,
    endOverrun_stays fun p hp => Option.some.inj (here.symm.trans hp) ▸ runs] at answered
  exact ⟨LastEntries.of_changes answered last, answered.map.trans changes.map⟩

/-- A co-signed record that overruns ends EXPIRED. -/
theorem coSigned_ends (spent : overruns q = true) (overlap : q.state = .overlap) (moved : r.state ≠ .overlap) :
    t.record i = none ∧
    ((∀ j q, j ≠ i → s.record j = some q → q.state = .overlap → q.limitExpiry.isSome = true) →
      LastEntries t [coSignEntry supervisor x i r, moveEntry i r.state q, (.handoverEnd,
        { area := (areasOf q.areas).head?, detail := detail4 (byte i) 5#8 1#8 0xFF#8 })] ∧
      ∀ a, t.area a = (s.area a).map (fun p => if inSet q.areas a then { p with link := none } else p)) := by
  obtain ⟨here, _, last, changes⟩ := coSignedState_of running supervisor x i r q
  refine ⟨?_, fun others => ?_⟩
  · rw [answered.at_record, endOverruns_of]
    suffices gone : ∀ (l : List RecordIdx) (u : State), (u.record i = some q ∧ i ∈ l ∨ u.record i = none) →
        (l.foldl endOverrun u).record i = none from gone _ _ (.inl ⟨here, mem_allRecords i⟩)
    intro l
    induction l with
    | nil => exact fun u h => h.elim (fun h => absurd h.2 List.not_mem_nil) id
    | cons k rest ih =>
      intro u h
      rw [List.foldl_cons]
      refine ih _ ?_
      by_cases e : k = i
      · subst e
        rcases h with ⟨h, _⟩ | h
        · rw [endOverrun_ends h spent, endRecord_record, if_pos rfl]
          exact .inr rfl
        · rw [endOverrun_stays fun p hp => absurd (h.symm.trans hp) (by simp)]
          exact .inr h
      · rw [(endOverrun_keeps u k).1 i (Ne.symm e)]
        exact h.imp (fun ⟨h, hi⟩ => ⟨h, (List.mem_cons.1 hi).resolve_left (Ne.symm e)⟩) id
  · rw [coSigned_runs running others, endOverrun_ends here spent] at answered
    have ne : ¬ q.state = r.state := fun h => moved (h.symm.trans overlap)
    rw [if_neg ne] at last
    have entries := endRecord_expired_entries last (changes.dev.trans running) (by simp) i q
    rw [overlap] at entries
    refine ⟨LastEntries.of_changes answered entries, fun a => ?_⟩
    rw [answered.at_area, endRecord_area rfl, changes.at_area]

end

/-- Settles O49: the state follows the causes once the co-sign has lifted one. -/
theorem coSignLiftsOutgoingLost : Obligations.CoSignLiftsOutgoingLost := by
  intro ib n1 n0 tag i r x s
  dsimp only
  intro sup hi hr number accepted signable holds
  have changes := actingAt_desk_changes s supervisor
  have present := (actingAt_present s supervisor).1
  have running := actingAt_running (d := supervisor) sup.operator.taking.running
  obtain ⟨_, follows⟩ := holds i r ((present.at_record i).symm.trans hr) accepted
  have unsigned : (r.coSigned.isSome && !r.outgoingLost) = false := by
    rcases signable with h | h <;> rw [h] <;> simp
  have rule : coSignRule supervisor [ib, n1, n0] (heardAt s (deskPort supervisor)) =
      (endOverruns (coSignedState (actingAt s supervisor) supervisor x i r
        ((actingAt s supervisor).followCauses (signedRecord x r))),
        done [] [handoverCode (some ((actingAt s supervisor).followCauses (signedRecord x r)).state)]) := by
    simp only [coSignRule, onRecordSupervised_acting sup hi hr number, accepted, unsigned, Bool.not_true,
      Bool.false_eq_true, if_false]
    exact coSignTaken_of (actingAt s supervisor) supervisor (s.touched supervisor x) i r
  have caused : (signedRecord x r).caused = r.flood := Bool.or_false _
  generalize hq : (actingAt s supervisor).followCauses (signedRecord x r) = q at rule
  obtain ⟨here, others, _, only⟩ := coSignedState_of running supervisor x i r q
  have ended := endOverruns_changes (coSignedState (actingAt s supervisor) supervisor x i r q)
  have made : OnlyChanges [.map, .records, .queues, .journal] (actingAt s supervisor)
      (endOverruns (coSignedState (actingAt s supervisor) supervisor x i r q)) :=
    (only.mono (by decide)).trans ended
  obtain ⟨t, ht, replied, within, answered⟩ := request_done sup.operator.taking .coSign tag (by simp [maxBody]) false
    coSignRule rule made made.ports
  obtain ⟨stands, owners⟩ := endOverruns_keeps (coSignedState (actingAt s supervisor) supervisor x i r q)
  refine ⟨t, ht, ⟨fun overlap limited => ?_, fun held flood => ?_, fun held calm few => ?_, fun held calm many => ?_⟩,
    fun a => ?_, fun j p hj hp runs => (answered.at_record j).trans (stands j p ((others j hj).trans hp)
      (overruns_false runs)), within⟩
  · have calm : r.flood = false := by
      have uncaused : r.caused = false := by
        rw [Bool.eq_false_iff, Ne, ← follows, overlap]
        decide
      exact (Bool.or_eq_false_iff.1 uncaused).1
    have kept : q = signedRecord x r := hq ▸ followCauses_kept (.inl ⟨overlap, caused.trans calm⟩)
    subst kept
    obtain ⟨record, entries⟩ := coSigned_stands running answered (overruns_false fun _ => limited)
    rw [show (signedRecord x r).state = .overlap from overlap] at replied
    refine ⟨record, replied, fun run => ?_⟩
    rw [if_pos (show (signedRecord x r).state = r.state from rfl)] at entries
    exact entries run
  · have kept : q = signedRecord x r := hq ▸ followCauses_kept (.inr ⟨held, caused.trans flood⟩)
    subst kept
    have runs : overruns (signedRecord x r) = false := overruns_false fun overlap =>
      absurd (held.symm.trans overlap) (by decide)
    obtain ⟨record, entries⟩ := coSigned_stands running answered runs
    rw [show (signedRecord x r).state = .held from held] at replied
    refine ⟨record, replied, fun run => ?_⟩
    rw [if_pos (show (signedRecord x r).state = r.state from rfl)] at entries
    exact entries run
  · have moved : q = _ := hq.symm.trans ((followCauses_resumes (r := signedRecord x r) held (caused.trans calm)).trans
      (enterOverlap_runs (by rw [changes.at_param]; exact few)))
    rw [changes.elapsed, changes.at_param] at moved
    subst moved
    obtain ⟨record, entries⟩ := coSigned_stands running answered rfl
    refine ⟨record, replied, fun run => ?_⟩
    rw [held, moveEntry, if_neg (show ¬ HandoverState.overlap = .held by decide)] at entries
    dsimp only [signedRecord] at entries
    rw [calm] at entries
    exact entries run
  · have moved : q = _ := hq.symm.trans ((followCauses_resumes (r := signedRecord x r) held (caused.trans calm)).trans
      (enterOverlap_overruns (by rw [changes.at_param]; exact many)))
    subst moved
    obtain ⟨record, entries⟩ := coSigned_ends running answered rfl rfl (by rw [held]; decide)
    refine ⟨record, replied, fun run => ?_⟩
    rw [held, moveEntry] at entries
    dsimp only [signedRecord] at entries
    rw [calm] at entries
    exact entries run
  · have owned : t.owner a = (endOverruns (coSignedState (actingAt s supervisor) supervisor x i r q)).owner a := by
      rw [State.owner, State.owner, answered.at_area]
    have before : (coSignedState (actingAt s supervisor) supervisor x i r q).owner a =
        (actingAt s supervisor).owner a := by
      rw [State.owner, State.owner, only.at_area]
    rw [owned, owners, before, actingAt_owner]

end Sys2Proof.Proofs
end

/-! PROOFS. The timers before their expiries: each event's function answers its state unchanged. -/

section
namespace Sys2Proof.Proofs
open Machine

/-- A time that waits is not reached. -/
theorem not_reachedOpt_of_waits {now : Time} {e : Option Time}
    (waits : ∀ x, e = some x → reached now x = false) : reachedOpt now e = false := by
  cases he : e with
  | none => rfl
  | some x => exact waits x he

/-- An event whose function answers its state changes only the derived lines. -/
theorem still_of {s u : State} (h : u = s) :
    ∃ t, (Host.Outcome.next (settle u) : Host.Outcome State Fault Refusal) = .next t ∧
      OnlyChanges [.horns, .attention] s t :=
  ⟨_, rfl, h ▸ settle_changes u⟩

variable {s : State}

theorem pendingExpired_waits {i : Nat}
    (h : ∀ p part, s.point i = some p → p.pendingPart = some part →
      reached s.elapsed part.expiry = false) : pendingExpired s i = s := by
  unfold pendingExpired
  cases hp : s.point i with
  | none => rfl
  | some p =>
    cases hq : p.pendingPart with
    | none => simp only [hq]
    | some q => simp only [hq, h p q hp hq, Bool.false_eq_true, if_false]

theorem shelveExpired_waits
    (h : ∀ e rest, s.shelf = e :: rest → reached s.elapsed e.expiry = false) :
    shelveExpired s = s := by
  unfold shelveExpired
  cases hs : s.shelf with
  | nil => rfl
  | cons e rest => simp only [h e rest hs, Bool.false_eq_true, if_false]

theorem releaseExpired_waits {g : GroupIdx}
    (h : ∀ x, s.group g = some x → x.state ≠ .releasing ∨
      ∀ e, x.expiry = some e → reached s.elapsed e = false) : releaseExpired s g = s := by
  unfold releaseExpired
  cases hg : s.group g with
  | none => rfl
  | some x =>
    refine if_neg fun ⟨releasing, due⟩ => ?_
    rcases h x hg with other | waits
    · exact other releasing
    · exact Bool.false_ne_true ((not_reachedOpt_of_waits waits).symm.trans due)

theorem memberReleased_none_owed {g : GroupIdx} (h : ∀ x, s.group g = some x → x.owed = []) :
    memberReleased s g = s := by
  unfold memberReleased
  cases hg : s.group g with
  | none => rfl
  | some x => simp only [h x hg]

theorem loadIntervalExpired_waits
    (h : ∀ e, s.loadExpiry = some e → reached s.elapsed e = false) :
    loadIntervalExpired s = s := by
  unfold loadIntervalExpired
  cases he : s.loadExpiry with
  | none => rfl
  | some e => simp only [h e he, Bool.false_eq_true, if_false]

theorem summaryExpired_waits {a : Area}
    (h : (s.load a).state ≠ .flood ∨
      ∀ e, (s.load a).summaryExpiry = some e → reached s.elapsed e = false) :
    summaryExpired s a = s := by
  unfold summaryExpired
  cases he : (s.load a).summaryExpiry with
  | none => simp only [he]
  | some e =>
    simp only [he]
    refine if_neg fun ⟨flood, due⟩ => ?_
    rcases h with other | waits
    · exact other flood
    · exact Bool.false_ne_true ((waits e he).symm.trans due)

theorem sweepVisited_waits
    (h : s.sweep.running = false ∨ s.sweep.size ≤ s.sweep.position ∨
      reached s.elapsed (s.sweep.due s.sweep.position) = false) : sweepVisited s = s := by
  refine if_neg fun ⟨running, left, due⟩ => ?_
  rcases h with stopped | taken | early
  · exact Bool.false_ne_true (stopped.symm.trans running)
  · omega
  · exact Bool.false_ne_true (early.symm.trans due)

theorem passEnded_waits
    (h : s.sweep.running = false ∨ s.sweep.position < s.sweep.size ∨
      reached s.elapsed (after s.sweep.passStart s.sweep.period) = false) : passEnded s = s := by
  refine if_neg fun ⟨running, taken, due⟩ => ?_
  rcases h with stopped | left | early
  · exact Bool.false_ne_true (stopped.symm.trans running)
  · omega
  · exact Bool.false_ne_true (early.symm.trans due)

theorem idleExpired_waits {d : Desk}
    (h : ∀ x, (s.desk d).session = some x → x.presence ≠ .active ∨
      reached s.elapsed x.idleExpiry = false) : idleExpired s d = s := by
  unfold idleExpired
  cases hx : (s.desk d).session with
  | none => rfl
  | some x =>
    refine if_neg fun ⟨active, due⟩ => ?_
    rcases h x hx with other | early
    · exact other active
    · exact Bool.false_ne_true (early.symm.trans due)

theorem absentExpired_waits {d : Desk}
    (h : ∀ x, (s.desk d).session = some x → x.presence ≠ .idle ∨
      reached s.elapsed x.absentExpiry = false) : absentExpired s d = s := by
  unfold absentExpired
  cases hx : (s.desk d).session with
  | none => rfl
  | some x =>
    refine if_neg fun ⟨idle, due⟩ => ?_
    rcases h x hx with other | early
    · exact other idle
    · exact Bool.false_ne_true (early.symm.trans due)

theorem lockoutExpired_waits {d : Desk}
    (h : ∀ e, (s.desk d).lockout = some e → reached s.elapsed e = false) :
    lockoutExpired s d = s := by
  unfold lockoutExpired
  rw [not_reachedOpt_of_waits h]
  exact if_neg Bool.false_ne_true

theorem credentialExpired_waits {b : Badge}
    (h : ∀ c e issuer, s.credential b = some c → c.temporary = some (e, issuer) →
      reached s.elapsed e = false) : credentialExpired s b = s := by
  unfold credentialExpired
  cases hc : s.credential b with
  | none => rfl
  | some c =>
    rw [Option.bind_some]
    cases ht : c.temporary with
    | none => rfl
    | some entry => exact if_neg fun due => Bool.false_ne_true ((h c _ _ hc ht).symm.trans due)

theorem offerExpired_waits {i : RecordIdx}
    (h : ∀ r, s.record i = some r → r.state ≠ .offered ∨
      ∀ e, r.offerExpiry = some e → reached s.elapsed e = false) : offerExpired s i = s := by
  unfold offerExpired
  cases hr : s.record i with
  | none => rfl
  | some r =>
    refine if_neg fun ⟨offered, due⟩ => ?_
    rcases h r hr with other | waits
    · exact other offered
    · exact Bool.false_ne_true ((not_reachedOpt_of_waits waits).symm.trans due)

theorem overlapLimitExpired_waits {i : RecordIdx}
    (h : ∀ r, s.record i = some r → r.state ≠ .overlap ∨
      ∀ e, r.limitExpiry = some e → reached s.elapsed e = false) :
    overlapLimitExpired s i = s := by
  unfold overlapLimitExpired
  cases hr : s.record i with
  | none => rfl
  | some r =>
    refine if_neg fun ⟨overlap, due⟩ => ?_
    rcases h r hr with other | waits
    · exact other overlap
    · exact Bool.false_ne_true ((not_reachedOpt_of_waits waits).symm.trans due)

theorem livenessExpired_waits {p : Port}
    (h : ∀ e, (s.port p).liveness = some e → reached s.elapsed e = false) :
    livenessExpired s p = s := by
  unfold livenessExpired
  rw [not_reachedOpt_of_waits h]
  exact if_neg Bool.false_ne_true

theorem doubtExpired_waits {g : Gateway}
    (h : (s.gateway g).health ≠ .doubt ∨
      ∀ e, (s.gateway g).doubtExpiry = some e → reached s.elapsed e = false) :
    doubtExpired s g = s := by
  refine if_neg fun ⟨doubt, due⟩ => ?_
  rcases h with other | waits
  · exact other doubt
  · exact Bool.false_ne_true ((not_reachedOpt_of_waits waits).symm.trans due)

/-- Settles O60: a timer's event finds its test false and answers its state, which is then only
settled. -/
theorem timersActOnlyWhenDue : Obligations.TimersActOnlyWhenDue := by
  intro s
  exact ⟨fun _ h => still_of (pendingExpired_waits h), fun h => still_of (shelveExpired_waits h),
    fun _ h => still_of (releaseExpired_waits h), fun _ h => still_of (memberReleased_none_owed h),
    fun h => still_of (loadIntervalExpired_waits h), fun _ h => still_of (summaryExpired_waits h),
    fun h => still_of (sweepVisited_waits (h _ rfl)), fun h => still_of (passEnded_waits (h _ rfl)),
    fun _ h => still_of (idleExpired_waits h), fun _ h => still_of (absentExpired_waits h),
    fun _ h => still_of (lockoutExpired_waits h), fun _ h => still_of (credentialExpired_waits h),
    fun _ h => still_of (offerExpired_waits h), fun _ h => still_of (overlapLimitExpired_waits h),
    fun _ h => still_of (livenessExpired_waits h), fun _ h => still_of (doubtExpired_waits h)⟩

end Sys2Proof.Proofs
end

/-! PROOFS. The load timers: the decay of the areas at a load interval, and a FLOOD area's summary. -/

section
namespace Sys2Proof.Proofs
open Machine

/-! ## The decay (R69) -/

/-- The load `y` of an area is what one decay under the parameters of `s` leaves of `x`. -/
structure Decays (s : State) (x y : AreaLoad) : Prop where
  load : y.load = decayed x.load (s.param 4)
  state : 0 < x.load → y.state = s.evalLoad x.state (decayed x.load (s.param 4))
  zero : x.load = 0 → y = x

theorem Decays.congr {s t : State} {x y : AreaLoad} (params : t.params = s.params) (h : Decays t x y) :
    Decays s x y := by
  have param : t.param 4 = s.param 4 := by simp only [State.param, params]
  refine ⟨param ▸ h.load, fun loaded => ?_, h.zero⟩
  rw [h.state loaded, evalLoad_congr params, param]

theorem decayArea_of {s : State} {a : Area} (h : (s.area a).isSome = true) (loaded : 0 < (s.load a).load) :
    decayArea s a = endOverruns (applyLoad s a (decayed (s.load a).load (s.param 4))) :=
  if_pos (by rw [h, Bool.true_and]; exact decide_eq_true loaded)

theorem decayArea_of_zero {s : State} {a : Area} (h : (s.load a).load = 0) : decayArea s a = s :=
  if_neg (by simp [h])

theorem decayArea_of_undefined {s : State} {a : Area} (h : ¬ (s.area a).isSome = true) : decayArea s a = s :=
  if_neg (by simp [h])

theorem decayArea_defined (s : State) (a b : Area) :
    ((decayArea s a).area b).isSome = (s.area b).isSome := by
  unfold decayArea
  split
  · rw [endOverruns_defined, (applyLoad_changes _ _ _).at_area]
  · rfl

theorem decayArea_load_ne (s : State) {a b : Area} (e : b ≠ a) : (decayArea s a).load b = s.load b := by
  unfold decayArea
  split
  · rw [(endOverruns_changes _).at_load]
    exact (applyLoad_load s a _).2.2.1 b e
  · rfl

theorem decayArea_decays {s : State} {a : Area} (h : (s.area a).isSome = true) :
    Decays s (s.load a) ((decayArea s a).load a) := by
  rcases Nat.eq_zero_or_pos (s.load a).load with zero | loaded
  · rw [decayArea_of_zero zero]
    exact ⟨by rw [zero]; simp [decayed], fun loaded => absurd loaded (by omega), fun _ => rfl⟩
  · obtain ⟨load, state, _, _⟩ := applyLoad_load s a (decayed (s.load a).load (s.param 4))
    rw [decayArea_of h loaded, (endOverruns_changes _).at_load]
    exact ⟨load, fun _ => state, fun zero => absurd zero (by omega)⟩

/-- The decay of several areas, each once: the defined ones decay, every other load stays. -/
theorem decayAreas (l : List Area) (nodup : l.Nodup) (s : State) (a : Area) :
    (a ∈ l → (s.area a).isSome = true → Decays s (s.load a) ((l.foldl decayArea s).load a)) ∧
    (a ∉ l ∨ s.area a = none → (l.foldl decayArea s).load a = s.load a) := by
  induction l generalizing s with
  | nil => exact ⟨fun h => absurd h (by simp), fun _ => rfl⟩
  | cons b rest ih =>
    obtain ⟨fresh, nodup⟩ := List.nodup_cons.1 nodup
    obtain ⟨decays, stays⟩ := ih nodup (decayArea s b)
    have undefined : s.area a = none → (decayArea s b).area a = none := fun h => by
      simpa [h] using decayArea_defined s b a
    rw [List.foldl_cons]
    by_cases e : a = b
    · subst e
      rw [stays (.inl fresh)]
      refine ⟨fun _ => decayArea_decays, fun h => ?_⟩
      rw [decayArea_of_undefined (by simp [h.resolve_left (by simp)])]
    · rw [decayArea_load_ne s e] at decays stays
      refine ⟨fun h defined => ?_, fun h => stays (h.imp (fun h m => h (.tail _ m)) undefined)⟩
      exact (decays ((List.mem_cons.1 h).resolve_left e) (decayArea_defined s b a ▸ defined)).congr
        (decayArea_changes s b).params

theorem loadIntervalExpired_due {s : State} {e : Time} (he : s.loadExpiry = some e)
    (due : reached s.elapsed e = true) : loadIntervalExpired s =
      allAreas.foldl decayArea { s with loadExpiry := some (after e (10 * s.param 5)) } := by
  unfold loadIntervalExpired
  rw [he]
  exact if_pos due

theorem decayAreas_changes (l : List Area) (s : State) : OnlyChanges decayFields s (l.foldl decayArea s) :=
  foldl_keeps (X := OnlyChanges decayFields s) (fun t a h => h.trans (decayArea_changes t a)) l (.refl _)

theorem loadInterval_decays {s : State} {e : Time} (he : s.loadExpiry = some e)
    (due : reached s.elapsed e = true) :
    ∃ t, exec .loadIntervalExpiry s = .next t ∧
      t.loadExpiry = some (after e (10 * s.param 5)) ∧
      (∀ a, (s.area a).isSome = true → Decays s (s.load a) (t.load a)) ∧
      (∀ a, s.area a = none → t.load a = s.load a) ∧
      OnlyChanges [.loadExpiry, .loads, .map, .records, .queues, .journal, .horns, .attention] s t := by
  refine ⟨_, rfl, ?_⟩
  rw [loadIntervalExpired_due he due]
  have armed := setLoadExpiry_changes s (some (after e (10 * s.param 5)))
  generalize hu : { s with loadExpiry := some (after e (10 * s.param 5)) } = u at armed
  have next : u.loadExpiry = some (after e (10 * s.param 5)) := by rw [← hu]
  have decayed := decayAreas_changes allAreas u
  have each := decayAreas allAreas (by decide) u
  have loads : ∀ a, u.load a = s.load a := armed.at_load
  have areas : ∀ a, u.area a = s.area a := armed.at_area
  have settled := settle_changes (allAreas.foldl decayArea u)
  refine ⟨(settled.loadExpiry.trans decayed.loadExpiry).trans next, fun a defined => ?_, fun a h => ?_, ?_⟩
  · rw [settled.at_load, ← loads a]
    exact ((each a).1 (mem_allAreas a) (areas a ▸ defined)).congr armed.params
  · rw [settled.at_load, (each a).2 (.inr (areas a ▸ h)), loads]
  · exact ((armed.mono (by decide)).trans (decayed.mono (by decide))).trans (settled.mono (by decide))

/-! ## The summary (R73) -/

theorem summaryExpired_due {s : State} {a : Area} {e : Time} (he : (s.load a).summaryExpiry = some e)
    (flood : (s.load a).state = .flood) (due : reached s.elapsed e = true) : summaryExpired s a =
      (if 0 < (s.load a).count then summaryNotice s a else s).setLoad a
        { s.load a with count := 0, summaryExpiry := some (after e s.summaryInterval) } := by
  unfold summaryExpired
  simp only [he]
  exact if_pos ⟨flood, due⟩

theorem summary_restarts {s : State} {a : Area} {e : Time} (he : (s.load a).summaryExpiry = some e)
    (flood : (s.load a).state = .flood) (due : reached s.elapsed e = true) :
    ∃ t, exec (.summaryExpiry a) s = .next t ∧
      t.load a = { s.load a with count := 0, summaryExpiry := some (after e (10 * s.param 11)) } ∧
      (∀ b, b ≠ a → t.load b = s.load b) ∧
      ((s.load a).count = 0 → t.queues = s.queues) ∧
      (0 < (s.load a).count → t.queues = (deliver s
        { cls := 3, body := .summary a (s.load a).count (s.load a).load .flood }
        (s.areaNames a)).queues) ∧
      OnlyChanges [.loads, .queues, .horns, .attention] s t := by
  refine ⟨_, rfl, ?_⟩
  rw [summaryExpired_due he flood due]
  have told : OnlyChanges [.queues] s (if 0 < (s.load a).count then summaryNotice s a else s) := by
    split
    · exact summaryNotice_changes s a
    · exact .refl _
  have restarted := setLoad_changes (if 0 < (s.load a).count then summaryNotice s a else s) a
    { s.load a with count := 0, summaryExpiry := some (after e s.summaryInterval) }
  have settled := settle_changes ((if 0 < (s.load a).count then summaryNotice s a else s).setLoad a
    { s.load a with count := 0, summaryExpiry := some (after e s.summaryInterval) })
  refine ⟨?_, fun b hb => ?_, fun none => ?_, fun some => ?_, ?_⟩
  · rw [settled.at_load, setLoad_load]
    rfl
  · rw [settled.at_load, setLoad_load_ne _ _ hb, told.at_load]
  · rw [settled.queues, restarted.queues, if_neg (by omega)]
  · rw [settled.queues, restarted.queues, if_pos some, summaryNotice, flood]
  · exact ((told.mono (by decide)).trans (restarted.mono (by decide))).trans (settled.mono (by decide))

/-- Settles O57: the areas decay one after another, each once, and a summary's expiry restarts the count. -/
theorem loadTimersDecayAndSum : Obligations.LoadTimersDecayAndSum := by
  refine ⟨fun e s he due => ?_, fun a e s he flood due => summary_restarts he flood due⟩
  obtain ⟨t, ht, next, decays, stays, within⟩ := loadInterval_decays he due
  exact ⟨t, ht, next, fun a defined => ⟨(decays a defined).load, (decays a defined).state,
    (decays a defined).zero⟩, stays, within⟩

end Sys2Proof.Proofs
end

/-! PROOFS. TIME SET and SWAP GATEWAYS (spec/05, R83; spec/11, R173). -/

section
namespace Sys2Proof.Proofs
open Machine

/-! ## TIME SET -/

theorem setOffset_changes (s : State) (w : Word32) : OnlyChanges [.offset] s { s with offset := w } := by
  intro f hf
  cases f <;> first | rfl | simp at hf

theorem timeSetNotice_changes (s : State) (old new : MillTime) :
    OnlyChanges [.queues] s (timeSetNotice s old new) := deliver_changes _ _ _

/-- The clock set: the offset, the notice and the journal entry. -/
def clockSet (s : State) (new : MillTime) (f : EntryFields) : State :=
  (timeSetNotice { s with offset := new - s.elapsed } s.mill new).enter .timeSet f

theorem clockSet_changes (s : State) (new : MillTime) (f : EntryFields) :
    OnlyChanges [.offset, .queues, .journal] s (clockSet s new f) :=
  ((setOffset_changes s (new - s.elapsed)).mono (by decide)).trans
    (((timeSetNotice_changes _ s.mill new).mono (by decide)).trans ((enter_changes _ _ _).mono (by decide)))

theorem clockSet_offset (s : State) (new : MillTime) (f : EntryFields) :
    (clockSet s new f).offset = new - s.elapsed := by
  rw [clockSet, (enter_changes _ _ _).offset, (timeSetNotice_changes _ _ _).offset]

theorem clockSet_queues (s : State) (new : MillTime) (f : EntryFields) :
    (clockSet s new f).queues = (timeSetNotice s s.mill new).queues := by
  rw [clockSet, (enter_changes _ _ _).queues]
  exact deliver_queues_congr _ _ rfl rfl rfl rfl

theorem clockSet_last {s : State} (running : s.dev = .running) (new : MillTime) (f : EntryFields) :
    LastEntry (clockSet s new f) .timeSet f :=
  enter_last _ _ _ ((timeSetNotice_changes _ _ _).dev.trans running)

theorem timeSet_sets {s : State} {x : Session} (sup : Supervisor s x .supervise) (t3 t2 t1 t0 tag : Byte) :
    ∃ t, exec (.timeSet (deskPort supervisor) tag [t3, t2, t1, t0]) s = .next t ∧
      t.mill = read32 t3 t2 t1 t0 ∧ t.elapsed = s.elapsed ∧
      t.queues = (timeSetNotice (actingAt s supervisor) s.mill (read32 t3 t2 t1 t0)).queues ∧
      LastEntry t .timeSet
        { port := some (deskPort supervisor), badge := some x.badge
          detail := wholeSeconds (read32 t3 t2 t1 t0) s.mill } ∧
      Replied (actingAt s supervisor) t (deskPort supervisor) .timeSet tag
        (done [] (be32 s.mill ++ be32 (read32 t3 t2 t1 t0))) ∧
      OnlyChanges (answering ++ [.offset, .queues, .journal]) (actingAt s supervisor) t := by
  generalize hn : read32 t3 t2 t1 t0 = new
  have acting := actingAt_desk_changes s supervisor
  have running := actingAt_running (d := supervisor) sup.operator.taking.running
  have mill : (actingAt s supervisor).mill = s.mill := acting.mill
  have badge : (s.touched supervisor x).badge = x.badge := rfl
  have rule : timeSetRule supervisor [t3, t2, t1, t0] (heardAt s (deskPort supervisor)) =
      (clockSet (actingAt s supervisor) new
          { port := some (deskPort supervisor), badge := some x.badge, detail := wholeSeconds new s.mill },
        done [] (be32 s.mill ++ be32 new)) := by
    simp only [timeSetRule, withSession_acting sup.operator.session, consoleDesk_supervises sup, Bool.not_true,
      Bool.false_eq_true, if_false, hn, mill, badge, clockSet]
  have made := clockSet_changes (actingAt s supervisor) new
    { port := some (deskPort supervisor), badge := some x.badge, detail := wholeSeconds new s.mill }
  have last := clockSet_last running new
    { port := some (deskPort supervisor), badge := some x.badge, detail := wholeSeconds new s.mill }
  obtain ⟨t, ht, replied, within, answered⟩ := request_done sup.operator.taking .timeSet tag (by simp [maxBody]) false
    timeSetRule rule made made.ports
  refine ⟨t, ht, ?_, ?_, ?_, answered.lastEntry last, replied, within⟩
  · rw [answered.mill, State.mill, made.elapsed, clockSet_offset, BitVec.add_comm, BitVec.sub_add_cancel]
  · rw [answered.elapsed, made.elapsed, acting.elapsed]
  · rw [answered.queues, clockSet_queues, mill]

/-! ## SWAP GATEWAYS -/

theorem exchangeRoles_primary (s : State) (g : Gateway) (c : Byte) :
    (exchangeRoles s g c).gateway g = { s.gateway g with role := .secondary, refresh := false } := by
  rw [exchangeRoles, (enter_changes _ _ _).at_gateway, setGateway_gateway_of_ne _ (otherGateway_ne g).symm,
    setGateway_gateway]

theorem exchangeRoles_secondary (s : State) (g : Gateway) (c : Byte) :
    (exchangeRoles s g c).gateway (otherGateway g) =
      { s.gateway (otherGateway g) with role := .primary, refresh := true } := by
  rw [exchangeRoles, (enter_changes _ _ _).at_gateway, setGateway_gateway,
    setGateway_gateway_of_ne _ (otherGateway_ne g)]

theorem exchangeRoles_last {s : State} (running : s.dev = .running) (g : Gateway) (c : Byte) :
    LastEntry (exchangeRoles s g c) .gatewayRole
      { detail := detail4 (byte (gatewayPort (otherGateway g))) c 0#8 0#8 } :=
  enter_last _ _ _ running

theorem linkGood_eq_iff {s t : State} {p : Port} (h : t.linkGood p = s.linkGood p) :
    (t.port p).link = (s.port p).link := by
  rw [State.linkGood, State.linkGood] at h
  cases ht : (t.port p).link <;> cases hs : (s.port p).link <;> simp_all

/-- The gateway notice depends on the gateways and on what routing reads of the links. -/
theorem gatewayNotice_queues_congr {s t : State} (hd : t.dev = s.dev) (hc : t.portCfg = s.portCfg)
    (links : ∀ p, t.linkGood p = s.linkGood p) (hg : t.gateways = s.gateways) (hq : t.queues = s.queues) :
    (gatewayNotice t).queues = (gatewayNotice s).queues := by
  have view : ∀ g, t.gatewayView g = s.gatewayView g := fun g => by
    simp only [State.gatewayView, State.gateway, hg, linkGood_eq_iff (links _)]
  have queue : ∀ d, t.queue d = s.queue d := fun d => by simp only [State.queue, hq]
  simp only [gatewayNotice, view, deliver, hd, enabled_congr hd hc, links, queue, hq]

theorem actingAt_gateway_linkGood (s : State) (d : Desk) (g : Gateway) :
    (actingAt s d).linkGood (gatewayPort g) = s.linkGood (gatewayPort g) := by
  rw [State.linkGood, actingAt, (interact_changes _ _).at_port, heardAt_desk, hear_port,
    if_neg (gatewayPort_ne_deskPort g d)]
  rfl

theorem swap_exchanges {s : State} {x : Session} {g : Gateway} (sup : Supervisor s x .supervise) (tag : Byte)
    (primary : s.primary = some g) (link : s.linkGood (gatewayPort (otherGateway g)) = true)
    (health : (s.gateway (otherGateway g)).health = .good) :
    ∃ t, exec (.swapGateways (deskPort supervisor) tag []) s = .next t ∧
      t.gateway g = { s.gateway g with role := .secondary, refresh := false } ∧
      t.gateway (otherGateway g) = { s.gateway (otherGateway g) with role := .primary, refresh := true } ∧
      LastEntry t .gatewayRole { detail := detail4 (byte (gatewayPort (otherGateway g))) 1#8 0#8 0#8 } ∧
      t.queues = (gatewayNotice { t with queues := (actingAt s supervisor).queues }).queues ∧
      Replied (actingAt s supervisor) t (deskPort supervisor) .swapGateways tag
        (done [] [byte (gatewayPort (otherGateway g))]) ∧
      OnlyChanges (answering ++ [.gateways, .queues, .journal]) (actingAt s supervisor) t := by
  have acting := actingAt_desk_changes s supervisor
  have running := actingAt_running (d := supervisor) sup.operator.taking.running
  have primary' : (actingAt s supervisor).primary = some g := by
    simpa only [State.primary, acting.at_gateway] using primary
  have link' := (actingAt_gateway_linkGood s supervisor (otherGateway g)).trans link
  have rule : swapGatewaysRule supervisor [] (heardAt s (deskPort supervisor)) =
      (gatewayNotice (exchangeRoles (actingAt s supervisor) g 1#8),
        done [] [byte (gatewayPort (otherGateway g))]) := by
    simp only [swapGatewaysRule, withSession_acting sup.operator.session, consoleDesk_supervises sup, Bool.not_true,
      Bool.false_eq_true, if_false, primary', link', acting.at_gateway, health, beq_self_eq_true, Bool.and_true,
      if_true]
  have first := exchangeRoles_primary (actingAt s supervisor) g 1#8
  have second := exchangeRoles_secondary (actingAt s supervisor) g 1#8
  have last := exchangeRoles_last running g 1#8
  have exchanged := exchangeRoles_changes (actingAt s supervisor) g 1#8
  rw [acting.at_gateway] at first second
  generalize exchangeRoles (actingAt s supervisor) g 1#8 = u at *
  have told := gatewayNotice_changes u
  have made : OnlyChanges [.gateways, .queues, .journal] (actingAt s supervisor) (gatewayNotice u) :=
    (exchanged.mono (by decide)).trans (told.mono (by decide))
  obtain ⟨t, ht, replied, within, answered⟩ := request_done sup.operator.taking .swapGateways tag
    (by simp [maxBody]) false swapGatewaysRule rule made made.ports
  refine ⟨t, ht, ?_, ?_, answered.lastEntry (told.lastEntry last), ?_, replied, within⟩
  · rw [answered.at_gateway, told.at_gateway, first]
  · rw [answered.at_gateway, told.at_gateway, second]
  · rw [answered.queues]
    refine (gatewayNotice_queues_congr (s := u) (t := { t with queues := (actingAt s supervisor).queues })
      (answered.dev.trans told.dev) (answered.portCfg.trans told.portCfg) (fun p => ?_)
      (answered.gateways.trans told.gateways) exchanged.queues.symm).symm
    have linked : u.linkGood p = (actingAt s supervisor).linkGood p := by
      rw [State.linkGood, State.linkGood, exchanged.at_port]
    exact (replied_linkGood replied p).trans linked.symm

/-- Settles O50: TIME SET moves the offset so that the mill time is the new one; SWAP GATEWAYS exchanges the roles
and tells of both gateways. -/
theorem timeSetAndSwapGateways : Obligations.TimeSetAndSwapGateways := by
  refine ⟨fun t3 t2 t1 t0 tag x s sup => ?_, fun tag g x s sup primary link health =>
    swap_exchanges sup tag primary link health⟩
  obtain ⟨t, ht, mill, elapsed, queues, last, replied, within⟩ := timeSet_sets sup t3 t2 t1 t0 tag
  exact ⟨t, ht, mill, elapsed, queues, ⟨_, rfl, last⟩, replied, within⟩

end Sys2Proof.Proofs
end

/-! PROOFS. The ports that fall silent and are heard again, and the end of a gateway's DOUBT (spec/08, R141;
spec/11, R169 to R171). -/

section
namespace Sys2Proof.Proofs
open Machine

/-! ## The owners stay when a session ends (R141) -/

theorem endRecord_owner {o : HandoverOutcome} (ho : o.transfers = false) (s : State) (i : RecordIdx) (r : Record)
    (p : Option Port) (b : Option Badge) (a : Area) : (endRecord s i r o p b).owner a = s.owner a := by
  rw [State.owner, State.owner, endRecord_area ho]
  cases s.area a with
  | none => rfl
  | some q =>
    rw [Option.map_some]
    split <;> rfl

theorem sessionTold_owner (s : State) (d : Desk) (b : Badge) (x : Option Presence) (a : Area) :
    (sessionTold s d b x).owner a = s.owner a := by
  refine foldl_keeps (X := fun t => t.owner a = s.owner a) (fun t i same => ?_) _ rfl
  split
  · split
    · exact (endRecord_owner rfl _ _ _ _ _ _).trans same
    · split
      · rw [State.owner, (changeCauses_changes _ _ _).at_area]
        exact same
      · exact same
  · exact same

theorem sessionChanged_owner (s : State) (d : Desk) (b : Badge) (x y : Option Presence) (c : Cause) (a : Area) :
    (sessionChanged s d b x y c).owner a = s.owner a := by
  unfold sessionChanged
  dsimp only
  rw [State.owner, enter_at_area, (sessionNotice_changes _ _ _ _ _).at_area]
  exact (sessionTold_owner _ _ _ _ _).trans ((rederive_ownersSame s c 0 s).owner a)

theorem endSession_owner (s : State) (d : Desk) (c : Cause) (a : Area) :
    (endSession s d c).owner a = s.owner a := by
  unfold endSession
  split
  · rfl
  · rw [sessionChanged_owner]
    rfl

/-- The end of whatever session a desk holds. -/
theorem endSession_clears (s : State) (d : Desk) (c : Cause) :
    (endSession s d c).desk d = { s.desk d with session := none } ∧ OtherDesksSame s (endSession s d c) d := by
  cases hx : (s.desk d).session with
  | some x => exact endSession_desks hx c
  | none =>
    have stays : endSession s d c = s := by simp only [endSession, hx]
    have same : { s.desk d with session := none } = s.desk d := by rw [← hx]
    rw [stays, same]
    exact ⟨rfl, fun _ _ => rfl⟩

/-! ## Silence -/

/-- The port as silence leaves it. -/
def silenced (s : State) (p : Port) : State := s.setPort p { s.port p with link := .silent, liveness := none }

theorem silenced_changes (s : State) (p : Port) : OnlyChanges [.ports] s (silenced s p) := setPort_changes _ _ _

theorem becomeSilent_desk (s : State) (d : Desk) : becomeSilent s (deskPort d) =
    rederive (endSession (silenced s (deskPort d)) d .portLost) .portLost 0
      (endSession (silenced s (deskPort d)) d .portLost) := by
  unfold becomeSilent
  rw [splitPort_deskPort]
  rfl

theorem becomeSilent_gateway (s : State) (g : Gateway) :
    becomeSilent s (gatewayPort g) = gatewayNotice (judgeRoles (silenced s (gatewayPort g))) := by
  unfold becomeSilent
  rw [splitPort_gatewayPort]
  rfl

theorem exec_liveness_due {s : State} {p : Port} {e : Time} (h : (s.port p).liveness = some e)
    (due : reached s.elapsed e = true) : exec (.livenessExpiry p) s = .next (settle (becomeSilent s p)) := by
  have expired : livenessExpired s p = becomeSilent s p := by
    unfold livenessExpired
    rw [h]
    exact if_pos due
  rw [← expired]
  rfl

theorem attendanceDerived_of_changes {T : List Field} {s t : State} (h : OnlyChanges T s t)
    (k : AttendanceDerived s) (m : Field.map ∉ T := by decide) (d : Field.desks ∉ T := by decide)
    (p : Field.ports ∉ T := by decide) : AttendanceDerived t := by
  intro a r hr
  rw [deriveAttendance_congr (h.desks d) (h.ports p)]
  exact k a r (h.at_area a m ▸ hr)

theorem desk_falls_silent {s : State} {d : Desk} {e : Time} (h : (s.port (deskPort d)).liveness = some e)
    (due : reached s.elapsed e = true) :
    ∃ t, exec (.livenessExpiry (deskPort d)) s = .next t ∧
      t.ports = s.ports.set (deskPort d) { s.port (deskPort d) with link := .silent, liveness := none } ∧
      t.desk d = { s.desk d with session := none } ∧ OtherDesksSame s t d ∧ AttendanceDerived t ∧
      (∀ a, t.owner a = s.owner a) ∧
      OnlyChanges [.ports, .desks, .map, .records, .queues, .journal, .horns, .attention] s t := by
  have muted := silenced_changes s (deskPort d)
  have ended := endSession_changes (silenced s (deskPort d)) d .portLost
  have clears := endSession_clears (silenced s (deskPort d)) d .portLost
  have owners := endSession_owner (silenced s (deskPort d)) d .portLost
  refine ⟨_, exec_liveness_due h due, ?_⟩
  rw [becomeSilent_desk]
  generalize hu : endSession (silenced s (deskPort d)) d .portLost = u at *
  have derived := rederive_changes u .portLost 0 u
  have kept := rederive_ownersSame u .portLost 0 u
  have follows := rederive_derived u .portLost 0 u
  generalize rederive u .portLost 0 u = v at *
  have settled := settle_changes v
  have desks : (settle v).desks = u.desks := settled.desks.trans derived.desks
  obtain ⟨gone, others⟩ := clears
  refine ⟨?_, ?_, fun e he => ?_, attendanceDerived_of_changes settled follows, fun a => ?_, ?_⟩
  · rw [settled.ports, derived.ports, ended.ports]
    rfl
  · rw [State.desk, desks, ← State.desk, gone, muted.at_desk]
  · rw [State.desk, desks, ← State.desk, others e he, muted.at_desk]
  · rw [State.owner, settled.at_area, ← State.owner, kept.owner, owners, State.owner, muted.at_area]
    rfl
  · exact ((muted.mono (by decide)).trans (ended.mono (by decide))).trans
      ((derived.mono (by decide)).trans (settled.mono (by decide)))

theorem silenced_linkGood (s : State) (p q : Port) :
    (silenced s p).linkGood q = if q = p then false else s.linkGood q := by
  by_cases e : q = p
  · subst e
    rw [if_pos rfl, State.linkGood, silenced, setPort_port]
    rfl
  · rw [if_neg e, State.linkGood, silenced, setPort_port_ne _ _ e]
    rfl

theorem gatewayPort_otherGateway_ne (g : Gateway) : gatewayPort (otherGateway g) ≠ gatewayPort g := by
  revert g
  decide

theorem silenced_eligible_other (s : State) (g : Gateway) :
    (silenced s (gatewayPort g)).eligible (otherGateway g) = s.eligible (otherGateway g) := by
  rw [State.eligible, silenced_linkGood, if_neg (gatewayPort_otherGateway_ne g)]
  rfl

theorem gateway_of_ne {g h : Gateway} : h ≠ g → h = otherGateway g := by
  revert g h
  decide

theorem primary_otherGateway {s : State} {g h : Gateway} (hp : s.primary = some h) (ne : s.primary ≠ some g) :
    h = otherGateway g := by
  have apart : h ≠ g := fun e => ne (e ▸ hp)
  exact gateway_of_ne apart

/-- What silence at a gateway makes of the roles (R171). -/
theorem silence_judges (s : State) (g : Gateway) :
    (s.primary = some g → s.eligible (otherGateway g) = true →
      (judgeRoles (silenced s (gatewayPort g))) = exchangeRoles (silenced s (gatewayPort g)) g 0#8) ∧
    (s.primary = some g → s.eligible (otherGateway g) = false →
      (judgeRoles (silenced s (gatewayPort g))).gateways = s.gateways) ∧
    (s.primary ≠ some g → s.linkGood (gatewayPort (otherGateway g)) = true →
      (s.gateway (otherGateway g)).health ≠ .failed →
      (judgeRoles (silenced s (gatewayPort g))).gateways = s.gateways) := by
  have primary : (silenced s (gatewayPort g)).primary = s.primary := rfl
  have lost : (silenced s (gatewayPort g)).gatewayLost g = true := by
    rw [State.gatewayLost, silenced_linkGood, if_pos rfl]
    rfl
  refine ⟨fun hp eligible => ?_, fun hp eligible => ?_, fun hp link health => ?_⟩
  · simp only [judgeRoles, primary, hp, lost, silenced_eligible_other, eligible, Bool.and_self, if_true]
  · simp only [judgeRoles, primary, hp, lost, silenced_eligible_other, eligible, Bool.and_false, Bool.false_eq_true,
      if_false]
    rfl
  · cases hh : s.primary with
    | none =>
      simp only [judgeRoles, primary, hh]
      rfl
    | some h =>
      have other := primary_otherGateway hh hp
      have stands : (silenced s (gatewayPort g)).gatewayLost (otherGateway g) = false := by
        rw [State.gatewayLost, silenced_linkGood, if_neg (gatewayPort_otherGateway_ne g), link]
        exact (beq_eq_false_iff_ne ..).2 health
      simp only [judgeRoles, primary, hh, other, stands, Bool.false_and, Bool.false_eq_true, if_false]
      rfl

theorem gateway_falls_silent {s : State} {g : Gateway} {e : Time} (h : (s.port (gatewayPort g)).liveness = some e)
    (due : reached s.elapsed e = true) :
    ∃ t, exec (.livenessExpiry (gatewayPort g)) s = .next t ∧
      t.ports = s.ports.set (gatewayPort g) { s.port (gatewayPort g) with link := .silent, liveness := none } ∧
      (s.primary = some g → s.eligible (otherGateway g) = true →
        t.gateway g = { s.gateway g with role := .secondary, refresh := false } ∧
        t.gateway (otherGateway g) = { s.gateway (otherGateway g) with role := .primary, refresh := true }) ∧
      (s.primary = some g → s.eligible (otherGateway g) = false → t.gateways = s.gateways) ∧
      (s.primary ≠ some g → s.linkGood (gatewayPort (otherGateway g)) = true →
        (s.gateway (otherGateway g)).health ≠ .failed → t.gateways = s.gateways) ∧
      OnlyChanges [.ports, .gateways, .queues, .journal, .horns, .attention] s t := by
  have muted := silenced_changes s (gatewayPort g)
  obtain ⟨exchanged, alone, apart⟩ := silence_judges s g
  refine ⟨_, exec_liveness_due h due, ?_⟩
  rw [becomeSilent_gateway]
  have judged := judgeRoles_changes (silenced s (gatewayPort g))
  have told : OnlyChanges [.queues, .horns, .attention] (judgeRoles (silenced s (gatewayPort g)))
      (settle (gatewayNotice (judgeRoles (silenced s (gatewayPort g))))) :=
    settled_of_changes (gatewayNotice_changes _)
  refine ⟨?_, fun hp eligible => ?_, fun hp eligible => told.gateways.trans (alone hp eligible),
    fun hp link health => told.gateways.trans (apart hp link health), ?_⟩
  · rw [told.ports, judged.ports]
    rfl
  · rw [told.at_gateway, told.at_gateway, exchanged hp eligible, exchangeRoles_primary, exchangeRoles_secondary,
      muted.at_gateway, muted.at_gateway]
    exact ⟨rfl, rfl⟩
  · exact (muted.mono (by decide)).trans ((judged.mono (by decide)).trans (told.mono (by decide)))

/-! ## Hearing -/

theorem silenceLimit_desk {s : State} {p : Port} (h : p.val < 7) : s.silenceLimit p = s.param 27 := if_pos h

theorem silenceLimit_gateway {s : State} {p : Port} (h : 7 ≤ p.val) : s.silenceLimit p = s.param 28 :=
  if_neg (by omega)

theorem hear_justHeard (s : State) (p : Port) : JustHeard s (hear s p) p where
  link := by rw [hear_port, if_pos rfl]
  lastHeard := by rw [hear_port, if_pos rfl]
  desk h := by rw [hear_port, if_pos rfl, silenceLimit_desk h]
  gateway h := by rw [hear_port, if_pos rfl, silenceLimit_gateway h]
  others q hq := by rw [hear_port, if_neg hq]

/-- What is heard is told by the ports beside their slots. -/
theorem JustHeard.of_port {s t u : State} {p : Port} (h : JustHeard s t p)
    (same : u.port p = t.port p ∨ u.port p = { t.port p with slot := none })
    (others : ∀ q, q ≠ p → u.port q = t.port q) : JustHeard s u p := by
  rcases same with same | same <;>
  exact ⟨by rw [same]; exact h.link, by rw [same]; exact h.lastHeard, fun k => by rw [same]; exact h.desk k,
    fun k => by rw [same]; exact h.gateway k, fun q hq => (others q hq).trans (h.others q hq)⟩

theorem beginTransaction_justHeard (s : State) (p : Port) (ev : FrameEvent) :
    JustHeard s (beginTransaction s p ev) p := by
  rcases port_cases p with ⟨d, rfl⟩ | ⟨g, rfl⟩
  · rw [beginTransaction_desk]
    exact hear_justHeard s _
  · refine JustHeard.of_port (hear_justHeard s _) ?_ fun q hq => ?_
    · rw [beginTransaction_port]
      split
      · exact .inr rfl
      · exact .inl rfl
    · rw [beginTransaction_port, if_neg fun h => hq h.1]

theorem heardAt_overrun (s : State) (p : Port) : ((heardAt s p).port p).overrun = (s.port p).overrun := by
  rcases port_cases p with ⟨d, rfl⟩ | ⟨g, rfl⟩
  · rw [heardAt_desk, hear_port, if_pos rfl]
  · rw [heardAt, beginTransaction_port, hear_port, if_pos rfl]
    split <;> rfl

theorem hear_good {s : State} {p : Port} (h : (s.port p).link = .good) : OnlyChanges [.ports] s (hear s p) := by
  unfold hear
  dsimp only
  rw [if_pos h]
  exact setPort_changes _ _ _

theorem hear_silent_derived {s : State} {d : Desk} (h : (s.port (deskPort d)).link = .silent) :
    AttendanceDerived (hear s (deskPort d)) := by
  unfold hear
  dsimp only
  rw [if_neg (by rw [h]; decide), splitPort_deskPort]
  exact rederive_derived _ _ _ _

/-! ## A gateway that is heard -/

theorem next_sound_absent {x : GatewayState} (now : Time) (h : x.health = .absent) :
    x.next now .sound = { x with health := .good } := if_pos h

theorem next_sound_of_ne {x : GatewayState} (now : Time) (h : x.health ≠ .absent) : x.next now .sound = x :=
  if_neg h

theorem setGateway_self (s : State) (g : Gateway) : s.setGateway g (s.gateway g) = s := by
  simp [State.setGateway, State.gateway]

theorem changeHealth_self (s : State) (g : Gateway) : changeHealth s g (s.gateway g) = s := by
  unfold changeHealth
  exact (if_pos rfl).trans (setGateway_self s g)

/-- The fields of a gateway's health once it has been heard. -/
theorem heardAt_gateway_vitals (s : State) (g : Gateway) :
    vitals ((heardAt s (gatewayPort g)).gateway g) = vitals ((s.gateway g).next s.elapsed .sound) := by
  have h := beginTransaction_vitals s g .sound g
  rwa [if_pos rfl] at h

theorem heardAt_gateway_good {s : State} {g : Gateway} (link : (s.port (gatewayPort g)).link = .good)
    (health : (s.gateway g).health ≠ .absent) : OnlyChanges [.ports] s (heardAt s (gatewayPort g)) := by
  have heard := hear_good link
  have same := heard.at_gateway g
  have unmoved : ((hear s (gatewayPort g)).gateway g).next s.elapsed .sound = (hear s (gatewayPort g)).gateway g :=
    next_sound_of_ne _ (same.symm ▸ health)
  have begun : heardAt s (gatewayPort g) = hear s (gatewayPort g) := by
    rw [heardAt, beginTransaction, splitPort_gatewayPort]
    dsimp only
    rw [unmoved, changeHealth_self, if_pos ⟨link, by rw [same]⟩]
  rw [begun]
  exact heard

/-! ## The end of DOUBT -/

theorem changeHealth_last {s : State} {g : Gateway} {y : GatewayState} (running : s.dev = .running)
    (moved : y.health ≠ (s.gateway g).health) : LastEntry (changeHealth s g y) .gatewayHealth
      { port := some (gatewayPort g), detail := detail4 (s.gateway g).health.code y.health.code 0#8 0#8 } := by
  unfold changeHealth
  dsimp only
  rw [if_neg moved]
  refine enter_last _ _ _ ?_
  rw [(judgeRoles_changes _).dev]
  split <;> exact running

theorem changeHealth_at_gateway_changes {s : State} {g : Gateway} {y : GatewayState} (h : y.health ≠ .failed) :
    OnlyChanges [.gateways, .journal] s (changeHealth s g y) := by
  unfold changeHealth
  dsimp only
  split
  · exact (setGateway_changes _ _ _).mono (by decide)
  · exact ((setGateway_changes _ _ _).mono (by decide)).trans
      ((judgeRoles_changes _).trans ((enter_changes _ _ _).mono (by decide)))

theorem doubt_ends {s : State} {g : Gateway} {e : Time} (doubt : (s.gateway g).health = .doubt)
    (he : (s.gateway g).doubtExpiry = some e) (due : reached s.elapsed e = true) :
    ∃ t, exec (.doubtExpiry g) s = .next t ∧ (t.gateway g).health = .good ∧
      (t.gateway g).history = [] ∧ (t.gateway g).doubtExpiry = none ∧
      (s.dev = .running → LastEntry t .gatewayHealth
        { port := some (gatewayPort g), detail := detail4 2#8 1#8 0#8 0#8 }) ∧
      OnlyChanges [.gateways, .queues, .journal, .horns, .attention] s t := by
  have expired : doubtExpired s g = gatewayNotice (changeHealth s g
      { s.gateway g with health := .good, history := [], doubtExpiry := none }) := by
    refine if_pos ⟨doubt, ?_⟩
    rw [he]
    exact due
  have last : s.dev = .running → _ := fun running => changeHealth_last (s := s) (g := g)
    (y := { s.gateway g with health := .good, history := [], doubtExpiry := none }) running (by rw [doubt]; simp)
  have moved := changeHealth_at_gateway_changes (s := s) (g := g)
    (y := { s.gateway g with health := .good, history := [], doubtExpiry := none }) (by simp)
  have vital := changeHealth_vitals s g { s.gateway g with health := .good, history := [], doubtExpiry := none } g
  rw [if_pos rfl] at vital
  obtain ⟨health, history, expiry⟩ := vitals_iff.1 vital
  refine ⟨settle (doubtExpired s g), rfl, ?_⟩
  rw [expired]
  generalize changeHealth s g { s.gateway g with health := .good, history := [], doubtExpiry := none } = u at *
  have told : OnlyChanges [.queues, .horns, .attention] u (settle (gatewayNotice u)) :=
    settled_of_changes (gatewayNotice_changes u)
  rw [told.at_gateway]
  refine ⟨health, history, expiry, fun running => ?_, (moved.mono (by decide)).trans (told.mono (by decide))⟩
  have entry := told.lastEntry (last running)
  rw [doubt] at entry
  exact entry

/-- Settles O59: a silent port ends its session and the attendance is derived again; a silent gateway has the roles
judged; a port that is heard moves its expiry on. -/
theorem portsFallSilent : Obligations.PortsFallSilent := by
  refine ⟨fun d e s h due => desk_falls_silent h due, fun g e s h due => gateway_falls_silent h due,
    fun p s => ⟨beginTransaction_justHeard s p .sound, heardAt_slot s p p, heardAt_overrun s p,
      beginTransaction_justHeard s p⟩, fun d s => ?_, fun g s => ?_, fun g e s doubt he due => doubt_ends doubt he due⟩
  · refine ⟨fun ev => ?_, heardAt_desk_ownersSame s d, heardAt_desk_changes s d, fun good => ?_, fun silent => ?_⟩
    · rw [beginTransaction_desk, heardAt_desk]
    · rw [heardAt_desk]
      exact hear_good good
    · rw [heardAt_desk]
      exact hear_silent_derived silent
  · obtain ⟨health, history, expiry⟩ := vitals_iff.1 (heardAt_gateway_vitals s g)
    dsimp only
    rw [health, history, expiry]
    refine ⟨beginTransaction_at_gateway_changes s g .sound, fun absent => ?_, fun known => ?_, ?_, ?_,
      heardAt_gateway_good⟩
    · rw [next_sound_absent _ absent]
    · rw [next_sound_of_ne _ known]
    all_goals
      unfold GatewayState.next
      dsimp only
      split <;> rfl

end Sys2Proof.Proofs
end

/-! PROOFS. The visits of the review sweep (spec/06, R86 to R91; spec/01, R5, R16). -/

section
namespace Sys2Proof.Proofs
open Machine

/-! ## The points of a channel (R9, R16) -/

theorem mem_boundTo {s : State} (rise : KeysRise s.points) {c j : Nat} :
    j ∈ s.boundTo c ↔ ∃ b, s.point j = some b ∧ b.cfg.channel = c := by
  simp only [State.boundTo, List.mem_map, List.mem_filter, beq_iff_eq]
  constructor
  · rintro ⟨e, ⟨mem, bound⟩, rfl⟩
    exact ⟨e.2, rise.get mem, bound⟩
  · rintro ⟨b, hb, bound⟩
    exact ⟨(j, b), ⟨tableGet_of_mem hb, bound⟩, rfl⟩

/-- The point as the loss of its input leaves it (R16). -/
def lostInput (p : Point) : Point := { p with cond := .unknown, pendingPart := none, badInput := true }

theorem loseInput_point (s : State) (i j : Nat) :
    (loseInput s i).point j = if j = i then (s.point j).map lostInput else s.point j := by
  unfold loseInput
  cases hp : s.point i with
  | none =>
    by_cases e : j = i
    · rw [if_pos e, e, hp]
      rfl
    · exact (if_neg e).symm
  | some p =>
    dsimp only
    rw [(pointNotice_changes _ _ _ _).at_point]
    split
    · rename_i e
      rw [e, setPoint_point_of hp, hp]
      rfl
    · rename_i e
      exact setPoint_point_ne _ _ e

theorem lostInput_idem (p : Point) : lostInput (lostInput p) = lostInput p := rfl

theorem loseInputs_point (l : List Nat) (s : State) (j : Nat) :
    (l.foldl loseInput s).point j = if j ∈ l then (s.point j).map lostInput else s.point j := by
  induction l generalizing s with
  | nil => rfl
  | cons i rest ih =>
    rw [List.foldl_cons, ih, loseInput_point]
    by_cases e : j = i
    · subst e
      rw [if_pos rfl, if_pos List.mem_cons_self, Option.map_map]
      split <;> rfl
    · rw [if_neg e]
      simp only [List.mem_cons, e, false_or]

theorem losePoints_point {s : State} (rise : KeysRise s.points) (c j : Nat) :
    (losePoints s c).point j =
      (s.point j).map (fun b => if b.cfg.channel = c then lostInput b else b) := by
  rw [losePoints, loseInputs_point]
  cases hb : s.point j with
  | none => exact ite_self _
  | some b =>
    have bound : j ∈ s.boundTo c ↔ b.cfg.channel = c := by
      rw [mem_boundTo rise, hb]
      exact ⟨fun ⟨b', same, h⟩ => Option.some.inj same ▸ h, fun h => ⟨b, rfl, h⟩⟩
    by_cases h : b.cfg.channel = c
    · rw [if_pos (bound.2 h), Option.map_some, Option.map_some, if_pos h]
    · rw [if_neg (fun m => h (bound.1 m)), Option.map_some, if_neg h]

/-! ## The three checks of a visit (R87) -/

/-- A point rewritten with its activity as it was, and handed on. -/
theorem rewritten_handed {s : State} {i : Nat} {p q : Point} (h : s.point i = some p) (ha : q.active = p.active)
    (c : Change) :
    (handOn (s.setPoint i q) i p c).points = (s.setPoint i q).points ∧
    OnlyChanges [.points, .records, .queues] s (handOn (s.setPoint i q) i p c) := by
  have handed := handOn_same_changes (old := p) c (setPoint_point_of h q) ha
  exact ⟨handed.points, ((setPoint_changes s i q).mono (by decide)).trans (handed.mono (by decide))⟩

/-- The point after the escalation check (R39, R88). -/
def escalationChecked (s : State) (p : Point) : Point :=
  if s.escalationDue p then { p with escalated := true, escSerial := some (s.serial + 1) } else p

/-- The point after the chatter check (R91). -/
def chatterChecked (p : Point) : Point :=
  if p.foldSince then { p with foldSince := false } else { p with chatterCount := 0, chattering := false }

/-- One point of a state is rewritten; the others and their order stay. -/
structure Rewrites (s t : State) (i : Nat) (q : Point) : Prop where
  point : t.point i = some q
  others : ∀ j, j ≠ i → t.point j = s.point j
  rise : KeysRise s.points → KeysRise t.points

theorem Rewrites.of_points {s t : State} {i : Nat} {p q : Point} (h : s.point i = some p)
    (points : t.points = (s.setPoint i q).points) : Rewrites s t i q where
  point := by
    rw [State.point, points]
    exact setPoint_point_of h q
  others j hj := by
    rw [State.point, points]
    exact setPoint_point_ne s q hj
  rise k := by
    rw [points]
    exact k.modify i fun _ => q

theorem Rewrites.refl {s : State} {i : Nat} {p : Point} (h : s.point i = some p) : Rewrites s s i p :=
  ⟨h, fun _ _ => rfl, id⟩

theorem escalationCheck_of_due {s : State} {i : Nat} {p : Point} (h : s.point i = some p)
    (due : s.escalationDue p = true) : escalationCheck s i = escalate s i p := by
  simp only [escalationCheck, h, due, if_true]

theorem escalationCheck_of_not_due {s : State} {i : Nat} {p : Point} (h : s.point i = some p)
    (due : s.escalationDue p = false) : escalationCheck s i = s := by
  simp only [escalationCheck, h, due, Bool.false_eq_true, if_false]

theorem escalate_checks {s : State} {i : Nat} {p : Point} (h : s.point i = some p) :
    Rewrites s (escalate s i p) i { p with escalated := true, escSerial := some (s.serial + 1) } ∧
    (escalate s i p).serial = s.serial + 1 ∧
    OnlyChanges [.points, .serial, .records, .queues] s (escalate s i p) := by
  have counted := setSerial_changes s (s.serial + 1)
  have here : ({ s with serial := s.serial + 1 } : State).point i = some p := h
  obtain ⟨points, within⟩ := rewritten_handed
    (q := { p with escalated := true, escSerial := some (s.serial + 1) }) here rfl {}
  exact ⟨.of_points h points, within.serial, (counted.mono (by decide)).trans (within.mono (by decide))⟩

theorem escalationCheck_checks {s : State} {i : Nat} {p : Point} (h : s.point i = some p) :
    Rewrites s (escalationCheck s i) i (escalationChecked s p) ∧
    (escalationCheck s i).serial = (if s.escalationDue p then s.serial + 1 else s.serial) ∧
    OnlyChanges [.points, .serial, .records, .queues] s (escalationCheck s i) := by
  unfold escalationChecked
  cases due : s.escalationDue p with
  | true =>
    rw [escalationCheck_of_due h due]
    exact escalate_checks h
  | false =>
    rw [escalationCheck_of_not_due h due]
    exact ⟨.refl h, rfl, .refl s⟩

theorem chatterCheck_checks {s : State} {i : Nat} {p : Point} (h : s.point i = some p) :
    Rewrites s (chatterCheck s i) i (chatterChecked p) ∧
    OnlyChanges [.points, .records, .queues] s (chatterCheck s i) := by
  unfold chatterCheck chatterChecked
  rw [h]
  dsimp only
  split
  · exact ⟨.of_points h rfl, (setPoint_changes _ _ _).mono (by decide)⟩
  · split
    · obtain ⟨points, within⟩ := rewritten_handed (q := { p with chatterCount := 0, chattering := false }) h rfl {}
      exact ⟨.of_points h points, within⟩
    · exact ⟨.of_points h rfl, (setPoint_changes _ _ _).mono (by decide)⟩

theorem staleDue_congr {s t : State} (params : t.params = s.params) (elapsed : t.elapsed = s.elapsed) (y : Channel)
    (first : Bool) : t.staleDue y first = s.staleDue y first := by
  unfold State.staleDue State.param
  rw [params, elapsed]

theorem escalationDue_congr {s t : State} (params : t.params = s.params) (elapsed : t.elapsed = s.elapsed)
    (p : Point) : t.escalationDue p = s.escalationDue p := by
  unfold State.escalationDue State.param
  rw [params, elapsed]

theorem stalenessCheck_fresh {s : State} {i : Nat} {p : Point} {first : Bool} (h : s.point i = some p)
    (fresh : ∀ y, s.channel p.cfg.channel = some y → s.staleDue y first = false) :
    stalenessCheck s i first = s := by
  unfold stalenessCheck
  cases hy : s.channel p.cfg.channel with
  | none => simp only [h, hy]
  | some y => simp only [h, hy, fresh y hy, Bool.false_eq_true, if_false]

theorem stalenessCheck_stale {s : State} {i : Nat} {p : Point} {y : Channel} {first : Bool}
    (h : s.point i = some p) (hy : s.channel p.cfg.channel = some y) (stale : s.staleDue y first = true) :
    stalenessCheck s i first = markStale s p.cfg.channel y := by
  simp only [stalenessCheck, h, hy, stale, if_true]

/-- A channel marked STALE takes its quality and its points lose their input (R5, R16). -/
theorem markStale_marks {s : State} (rise : KeysRise s.points) (c : Nat) {y : Channel} (hy : s.channel c = some y) :
    (markStale s c y).channel c = some { y with quality := .stale } ∧
    (∀ k, k ≠ c → (markStale s c y).channel k = s.channel k) ∧
    ∀ j, (markStale s c y).point j =
      (s.point j).map (fun b => if b.cfg.channel = c then lostInput b else b) := by
  have lost := losePoints_changes (s.setChannel c { y with quality := .stale }) c
  refine ⟨?_, fun k hk => ?_, losePoints_point (s := s.setChannel c { y with quality := .stale }) rise c⟩
  · rw [markStale, State.channel, lost.channels, ← State.channel, setChannel_channel, hy]
    rfl
  · rw [markStale, State.channel, lost.channels, ← State.channel, setChannel_channel_ne _ _ hk]

/-! ## The visit -/

/-- The sweep as the visit moves it on (R86). -/
def movedOn (s : State) : State := { s with sweep := { s.sweep with position := s.sweep.position + 1 } }

theorem movedOn_changes (s : State) : OnlyChanges [.sweep] s (movedOn s) := by
  intro f hf
  cases f <;> first | rfl | simp at hf

/-- A due visit of a point. -/
structure VisitDue (s : State) (i : Nat) (p : Point) : Prop where
  running : s.sweep.running = true
  left : s.sweep.position < s.sweep.size
  due : reached s.elapsed (after s.sweep.passStart (s.sweep.position * s.sweep.period / s.sweep.size)) = true
  entry : s.points[s.sweep.position]? = some (i, p)
  rise : TablesRise s

variable {s : State} {i : Nat} {p : Point}

theorem VisitDue.point (h : VisitDue s i p) : s.point i = some p :=
  point_of_mem h.rise (List.mem_of_getElem? h.entry)

theorem VisitDue.visits (h : VisitDue s i p) : sweepVisited s = visitPoint (movedOn s) i s.sweep.firstPass := by
  unfold sweepVisited
  dsimp only
  rw [if_pos ⟨h.running, h.left, h.due⟩, h.entry]
  rfl

/-- The escalation check of the visit. -/
theorem VisitDue.escalation (h : VisitDue s i p) :
    Rewrites s (escalationCheck (movedOn s) i) i (escalationChecked s p) ∧
    (escalationCheck (movedOn s) i).serial = (if s.escalationDue p then s.serial + 1 else s.serial) ∧
    (escalationCheck (movedOn s) i).sweep = { s.sweep with position := s.sweep.position + 1 } ∧
    OnlyChanges [.sweep, .points, .serial, .records, .queues] s (escalationCheck (movedOn s) i) := by
  have moved := movedOn_changes s
  obtain ⟨rewrites, serial, within⟩ := escalationCheck_checks (s := movedOn s) (p := p) h.point
  exact ⟨⟨rewrites.point, rewrites.others, rewrites.rise⟩, serial, within.sweep,
    (moved.mono (by decide)).trans (within.mono (by decide))⟩

/-- A visit of a point whose channel is fresh. -/
theorem VisitDue.fresh (h : VisitDue s i p)
    (fresh : ∀ y, s.channel p.cfg.channel = some y → s.staleDue y s.sweep.firstPass = false) :
    ∃ t, exec .sweepVisit s = .next t ∧ t.sweep = { s.sweep with position := s.sweep.position + 1 } ∧
      t.point i = some (chatterChecked (escalationChecked s p)) ∧ OtherPointsSame s t i ∧
      t.serial = (if s.escalationDue p then s.serial + 1 else s.serial) ∧
      OnlyChanges [.sweep, .points, .serial, .records, .queues, .horns, .attention] s t := by
  obtain ⟨rewrites, serial, sweep, within⟩ := h.escalation
  refine ⟨settle (sweepVisited s), rfl, ?_⟩
  rw [h.visits, visitPoint]
  generalize escalationCheck (movedOn s) i = u at *
  have stays : stalenessCheck u i s.sweep.firstPass = u := by
    refine stalenessCheck_fresh rewrites.point fun y hy => ?_
    have channel : (escalationChecked s p).cfg.channel = p.cfg.channel := by
      unfold escalationChecked
      split <;> rfl
    rw [channel, within.at_channel] at hy
    rw [staleDue_congr within.params within.elapsed]
    exact fresh y hy
  rw [stays]
  obtain ⟨chattered, quiet⟩ := chatterCheck_checks rewrites.point
  have settled : OnlyChanges [.points, .records, .queues, .horns, .attention] u (settle (chatterCheck u i)) :=
    settled_of_changes quiet
  refine ⟨settled.sweep.trans sweep, chattered.point, fun j hj => (chattered.others j hj).trans
    (rewrites.others j hj), settled.serial.trans serial, (within.mono (by decide)).trans (settled.mono (by decide))⟩

theorem escalationChecked_bound (s : State) (p : Point) :
    (escalationChecked s p).cfg = p.cfg ∧ (escalationChecked s p).state = p.state := by
  unfold escalationChecked
  split <;> exact ⟨rfl, rfl⟩

/-- The chatter check touches no more than the chatter. -/
theorem chatterChecked_fields (p : Point) :
    (chatterChecked p).cond = p.cond ∧ (chatterChecked p).pendingPart = p.pendingPart ∧
    (chatterChecked p).badInput = p.badInput ∧ (chatterChecked p).state = p.state ∧
    (chatterChecked p).occ = p.occ ∧ (chatterChecked p).escalated = p.escalated ∧
    (chatterChecked p).escSerial = p.escSerial := by
  unfold chatterChecked
  split <;> exact ⟨rfl, rfl, rfl, rfl, rfl, rfl, rfl⟩

theorem chatterChecked_chatter (p : Point) : (chatterChecked p).foldSince = false ∧
    (p.foldSince = true → (chatterChecked p).chatterCount = p.chatterCount ∧
      (chatterChecked p).chattering = p.chattering) ∧
    (p.foldSince = false → (chatterChecked p).chatterCount = 0 ∧ (chatterChecked p).chattering = false) := by
  unfold chatterChecked
  cases h : p.foldSince with
  | true => exact ⟨rfl, fun _ => ⟨rfl, rfl⟩, fun k => absurd k (by decide)⟩
  | false => exact ⟨rfl, fun k => absurd k (by decide), fun _ => ⟨rfl, rfl⟩⟩

theorem escalationChecked_fields (s : State) (p : Point) :
    (escalationChecked s p).occ = p.occ ∧ (escalationChecked s p).foldSince = p.foldSince ∧
    (escalationChecked s p).chatterCount = p.chatterCount ∧ (escalationChecked s p).chattering = p.chattering := by
  unfold escalationChecked
  split <;> exact ⟨rfl, rfl, rfl, rfl⟩

theorem escalationChecked_due {s : State} {p : Point} (due : s.escalationDue p = true) :
    (escalationChecked s p).escalated = true ∧ (escalationChecked s p).escSerial = some (s.serial + 1) := by
  rw [escalationChecked, if_pos due]
  exact ⟨rfl, rfl⟩

theorem escalationChecked_not_due {s : State} {p : Point} (due : s.escalationDue p = false) :
    escalationChecked s p = p := by
  rw [escalationChecked, due]
  rfl

/-- A visit of a point whose channel has gone stale. -/
theorem VisitDue.stale (h : VisitDue s i p) {y : Channel} (hy : s.channel p.cfg.channel = some y)
    (stale : s.staleDue y s.sweep.firstPass = true) :
    ∃ t, exec .sweepVisit s = .next t ∧
      t.channel p.cfg.channel = some { y with quality := .stale } ∧
      (∀ c, c ≠ p.cfg.channel → t.channel c = s.channel c) ∧
      t.point i = some (chatterChecked (lostInput (escalationChecked s p))) ∧
      ∀ j, j ≠ i → t.point j =
        (s.point j).map (fun b => if b.cfg.channel = p.cfg.channel then lostInput b else b) := by
  obtain ⟨rewrites, _, _, within⟩ := h.escalation
  obtain ⟨cfg, _⟩ := escalationChecked_bound s p
  refine ⟨settle (sweepVisited s), rfl, ?_⟩
  rw [h.visits, visitPoint]
  generalize escalationCheck (movedOn s) i = u at *
  have known : u.channel (escalationChecked s p).cfg.channel = some y := by
    rw [cfg, within.at_channel]
    exact hy
  have due : u.staleDue y s.sweep.firstPass = true := (staleDue_congr within.params within.elapsed _ _).trans stale
  have marked := stalenessCheck_stale rewrites.point known due
  rw [cfg] at marked known
  obtain ⟨quality, others, lost⟩ := markStale_marks (rewrites.rise h.rise.points) _ known
  rw [marked]
  have here : (markStale u p.cfg.channel y).point i = some (lostInput (escalationChecked s p)) := by
    rw [lost, rewrites.point, Option.map_some, if_pos (by rw [cfg])]
  obtain ⟨chattered, quiet⟩ := chatterCheck_checks here
  have settled : OnlyChanges [.points, .records, .queues, .horns, .attention] (markStale u p.cfg.channel y)
      (settle (chatterCheck (markStale u p.cfg.channel y) i)) := settled_of_changes quiet
  refine ⟨?_, fun c hc => ?_, chattered.point, fun j hj => ?_⟩
  · rw [settled.at_channel, quality]
  · rw [settled.at_channel, others c hc, within.at_channel]
  · exact (chattered.others j hj).trans (by rw [lost, rewrites.others j hj])

theorem passEnd_starts {s : State} (running : s.sweep.running = true) (taken : s.sweep.size ≤ s.sweep.position)
    (due : reached s.elapsed (after s.sweep.passStart s.sweep.period) = true) :
    ∃ t, exec .passEnd s = .next t ∧ t.sweep = s.newPass s.points.length false ∧
      OnlyChanges [.sweep, .horns, .attention] s t := by
  have begun : OnlyChanges [.sweep] s { s with sweep := s.newPass s.points.length false } := by
    intro f hf
    cases f <;> first | rfl | simp at hf
  have ended : passEnded s = { s with sweep := s.newPass s.points.length false } :=
    if_pos ⟨running, taken, due⟩
  refine ⟨settle (passEnded s), rfl, ?_⟩
  rw [ended]
  exact ⟨rfl, settled_of_changes begun⟩

/-- Settles O58: the three checks each rewrite the visited point and keep its activity; a stale channel takes the
input of every point bound to it. -/
theorem sweepVisitsPoints : Obligations.SweepVisitsPoints := by
  refine ⟨?_, ?_, ?_⟩
  · rintro w i p s rfl running left due entry rise fresh
    obtain ⟨t, ht, sweep, point, others, serial, within⟩ :=
      VisitDue.fresh ⟨running, left, due, entry, rise⟩ fresh
    obtain ⟨cond, _, _, state, occ, escalated, escSerial⟩ := chatterChecked_fields (escalationChecked s p)
    obtain ⟨since, kept, lost⟩ := chatterChecked_chatter (escalationChecked s p)
    obtain ⟨occ', since', count', chattering'⟩ := escalationChecked_fields s p
    obtain ⟨_, state'⟩ := escalationChecked_bound s p
    rw [since', count', chattering'] at kept
    rw [since'] at lost
    refine ⟨t, _, ht, sweep, point, others, state.trans state', occ.trans occ', since, kept, lost, fun due => ?_,
      fun not => ?_, within.channels, within.mono (by decide)⟩
    · obtain ⟨flag, number⟩ := escalationChecked_due due
      exact ⟨escalated.trans flag, escSerial.trans number, by rw [serial, if_pos due]⟩
    · rw [escalated, escSerial, escalationChecked_not_due not, serial, not]
      exact ⟨rfl, rfl, rfl⟩
  · rintro w i p y s rfl running left due entry rise hy stale
    have visited : VisitDue s i p := ⟨running, left, due, entry, rise⟩
    obtain ⟨t, ht, quality, channels, point, others⟩ := visited.stale hy stale
    refine ⟨t, ht, quality, channels, fun j b hb bound => ?_, fun j b hb apart => ?_⟩
    · by_cases e : j = i
      · subst e
        obtain ⟨cond, pending, bad, state, _⟩ := chatterChecked_fields (lostInput (escalationChecked s p))
        obtain ⟨_, state'⟩ := escalationChecked_bound s p
        have same : p = b := Option.some.inj (visited.point.symm.trans hb)
        exact ⟨_, point, cond, pending, bad, same ▸ state.trans state'⟩
      · refine ⟨lostInput b, ?_, rfl, rfl, rfl, rfl⟩
        rw [others j e, hb, Option.map_some, if_pos bound]
    · have e : j ≠ i := by
        rintro rfl
        exact apart (Option.some.inj (visited.point.symm.trans hb) ▸ rfl)
      rw [others j e, hb, Option.map_some, if_neg apart]
  · rintro w s rfl running taken due
    exact passEnd_starts running taken due

end Sys2Proof.Proofs
end

/-! PROOFS. CHANNEL REPORT: what its entries make of the channels (spec/01, R2 to R4). -/

section
namespace Sys2Proof.Proofs
open Machine

/-! ## A gateway's request as it is taken -/

/-- A request of a gateway whose rule gives the state `u` and the reply `r`. -/
theorem gatewayRequest_done {s u : State} {g : Gateway} {r : Reply} {body : Body} {T : List Field}
    (sound : ((heardAt s (gatewayPort g)).gateway g).health ≠ .failed)
    (slot : ((heardAt s (gatewayPort g)).port (gatewayPort g)).slot = none)
    (k : Kind) (tag : Byte) (hb : body.length ≤ maxBody) {rule : GatewayRule}
    (hr : rule g body (heardAt s (gatewayPort g)) = (u, r))
    (hT : OnlyChanges T (heardAt s (gatewayPort g)) u) (hp : Field.ports ∉ T := by decide) :
    ∃ t, runRequest (gatewayPort g) k tag body (.gateway rule) s = .next t ∧
      Replied (heardAt s (gatewayPort g)) t (gatewayPort g) k tag r ∧
      OnlyChanges (answering ++ T) (heardAt s (gatewayPort g)) t ∧ OnlyChanges answering u t := by
  have answers : dispatch (some (.gateway rule)) (gatewayPort g) body (heardAt s (gatewayPort g)) = (u, r) := by
    unfold dispatch
    rw [splitPort_gatewayPort]
    exact hr
  refine ⟨_, runRequest_sound hb, ?_, ?_, ?_⟩ <;> rw [soundFrame_taken (deaf_of_sound sound) slot, answers]
  · unfold Replied
    simp only [settle_ports, State.setPort, State.port, hT.ports hp]
  · exact (hT.mono (by simp)).trans ((answer_changes _ _ _).mono (by simp))
  · exact answer_changes _ _ _

/-! ## The entries and the channels -/

/-- A channel after an entry of a report at time `now` (R3, R4). -/
def entered (now : Time) (y : Channel) (e : ReportEntry) : Channel :=
  if e.quality = 1#8 then { y with value := storedValue y.kind e.value, quality := .good, lastReport := some now }
  else { y with quality := .bad, lastReport := some now }

theorem applyGood_channels (s : State) (c : Nat) (y : Channel) (v : Word16) :
    (applyGood s c y v).channels = (s.setChannel c
      { y with value := storedValue y.kind v, quality := .good, lastReport := some s.elapsed }).channels := by
  have regained : ∀ (l : List Nat) (w : Word16) (u : State),
      (l.foldl (fun t i => regainInput t w i) u).channels = u.channels := fun l w u =>
    (OnlyChanges.foldl (T := engineFields) (fun t i => regainInput_changes t w i) l u).channels
  have evaluated : ∀ (l : List Nat) (w : Word16) (u : State),
      (l.foldl (fun t i => evaluatePoint t w i) u).channels = u.channels := fun l w u =>
    (OnlyChanges.foldl (T := engineFields) (fun t i => evaluatePoint_changes t w i) l u).channels
  unfold applyGood
  dsimp only
  cases y.quality with
  | bad => exact regained _ _ _
  | stale => exact regained _ _ _
  | good => exact evaluated _ _ _
  | never => exact evaluated _ _ _

theorem applyBad_channels (s : State) (c : Nat) (y : Channel) :
    (applyBad s c y).channels =
      (s.setChannel c { y with quality := .bad, lastReport := some s.elapsed }).channels := by
  unfold applyBad
  dsimp only
  cases y.quality with
  | good => exact (losePoints_changes _ _).channels
  | never => exact (losePoints_changes _ _).channels
  | bad => rfl
  | stale => rfl

theorem applyEntry_unconfigured {acc : State × Nat × Nat} {e : ReportEntry} (h : acc.1.channel e.channel = none) :
    applyEntry acc e = (acc.1, acc.2.1, acc.2.2 + 1) := by
  simp only [applyEntry, h]

theorem applyEntry_configured {acc : State × Nat × Nat} {e : ReportEntry} {y : Channel}
    (h : acc.1.channel e.channel = some y) : applyEntry acc e =
      (if e.quality = 1#8 then applyGood acc.1 e.channel y e.value else applyBad acc.1 e.channel y,
        acc.2.1 + 1, acc.2.2) := by
  simp only [applyEntry, h]

theorem applyEntry_channels {acc : State × Nat × Nat} {e : ReportEntry} {y : Channel}
    (h : acc.1.channel e.channel = some y) : (applyEntry acc e).1.channels =
      (acc.1.setChannel e.channel (entered acc.1.elapsed y e)).channels := by
  rw [applyEntry_configured h, entered]
  dsimp only
  split
  · exact applyGood_channels _ _ _ _
  · exact applyBad_channels _ _ _

theorem applyEntry_channel (acc : State × Nat × Nat) (e : ReportEntry) (c : Nat) :
    (applyEntry acc e).1.channel c =
      if e.channel = c then (acc.1.channel c).map (entered acc.1.elapsed · e) else acc.1.channel c := by
  cases h : acc.1.channel e.channel with
  | none =>
    rw [applyEntry_unconfigured h]
    by_cases same : e.channel = c
    · rw [if_pos same, ← same, h]
      rfl
    · exact (if_neg same).symm
  | some y =>
    rw [State.channel, applyEntry_channels h, ← State.channel]
    by_cases same : e.channel = c
    · rw [if_pos same, ← same, setChannel_channel, h]
      rfl
    · rw [if_neg same, setChannel_channel_ne _ _ (Ne.symm same)]

theorem applyEntry_elapsed (acc : State × Nat × Nat) (e : ReportEntry) :
    (applyEntry acc e).1.elapsed = acc.1.elapsed := (applyEntry_changes acc e).elapsed

theorem applyEntries_changes (l : List ReportEntry) (acc : State × Nat × Nat) :
    OnlyChanges reportFields acc.1 (l.foldl applyEntry acc).1 := by
  induction l generalizing acc with
  | nil => exact .refl _
  | cons e rest ih => exact (applyEntry_changes acc e).trans (ih _)

/-- Each channel takes its own entries in their order. -/
theorem applyEntries_channel (l : List ReportEntry) (acc : State × Nat × Nat) (c : Nat) :
    (l.foldl applyEntry acc).1.channel c =
      (acc.1.channel c).map ((l.filter (fun e => e.channel == c)).foldl (entered acc.1.elapsed)) := by
  induction l generalizing acc with
  | nil => exact (Option.map_id' (x := acc.1.channel c)).symm
  | cons e rest ih =>
    rw [List.foldl_cons, ih, applyEntry_channel, applyEntry_elapsed]
    by_cases same : e.channel = c
    · rw [if_pos same, Option.map_map, List.filter_cons_of_pos (by simpa using same)]
      rfl
    · rw [if_neg same, List.filter_cons_of_neg (by simpa using same)]

theorem applyEntry_listed (acc : State × Nat × Nat) (e : ReportEntry) (c : Nat) :
    ((applyEntry acc e).1.channel c).isSome = (acc.1.channel c).isSome := by
  rw [applyEntry_channel]
  split
  · exact Option.isSome_map
  · rfl

/-- The counts of the entries applied and ignored (R2). -/
theorem applyEntries_counts (l : List ReportEntry) (acc : State × Nat × Nat) :
    (l.foldl applyEntry acc).2 =
      (acc.2.1 + (l.filter (fun e => (acc.1.channel e.channel).isSome)).length,
        acc.2.2 + (l.filter (fun e => !(acc.1.channel e.channel).isSome)).length) := by
  induction l generalizing acc with
  | nil => rfl
  | cons e rest ih =>
    rw [List.foldl_cons, ih]
    simp only [applyEntry_listed]
    cases h : acc.1.channel e.channel with
    | none =>
      rw [applyEntry_unconfigured h, List.filter_cons_of_neg (by simp [h]), List.filter_cons_of_pos (by simp [h]),
        List.length_cons, Nat.add_right_comm, Nat.add_assoc acc.2.2]
    | some y =>
      rw [applyEntry_configured h, List.filter_cons_of_pos (by simp [h]), List.filter_cons_of_neg (by simp [h]),
        List.length_cons, Nat.add_right_comm, Nat.add_assoc acc.2.1]

/-! ## A channel after its own entries -/

theorem entered_kind (now : Time) (y : Channel) (e : ReportEntry) : (entered now y e).kind = y.kind := by
  unfold entered
  split <;> rfl

theorem entereds_kind (now : Time) (l : List ReportEntry) (y : Channel) :
    (l.foldl (entered now) y).kind = y.kind := by
  induction l generalizing y with
  | nil => rfl
  | cons e rest ih => exact (ih _).trans (entered_kind now y e)

theorem entered_report (now : Time) (y : Channel) (e : ReportEntry) :
    (entered now y e).lastReport = some now ∧
    (entered now y e).quality = if e.quality = 1#8 then .good else .bad := by
  unfold entered
  split <;> exact ⟨rfl, rfl⟩

/-- The value is that of the last GOOD entry (R3); a BAD one keeps it (R4). -/
theorem entereds_value (now : Time) (l : List ReportEntry) (y : Channel) :
    (l.foldl (entered now) y).value =
      (l.filter (fun e => e.quality == 1#8)).foldl (fun _ e => storedValue y.kind e.value) y.value := by
  induction l generalizing y with
  | nil => rfl
  | cons e rest ih =>
    rw [List.foldl_cons, ih, entered_kind]
    by_cases good : e.quality = 1#8
    · rw [List.filter_cons_of_pos (by simpa using good), List.foldl_cons, entered, if_pos good]
    · rw [List.filter_cons_of_neg (by simpa using good), entered, if_neg good]

theorem foldl_last {α β : Type} (f : β → α → β) {l : List α} {e : α} (h : l.getLast? = some e) (b : β) :
    ∃ c, l.foldl f b = f c e := by
  obtain ⟨init, rfl⟩ := List.getLast?_eq_some_iff.1 h
  exact ⟨init.foldl f b, by rw [List.foldl_append]; rfl⟩

/-- What its own entries leave of a channel. -/
theorem entereds_leave (now : Time) (own : List ReportEntry) (y : Channel) :
    let good := own.filter (fun e => e.quality == 1#8)
    let z := own.foldl (entered now) y
    z.kind = y.kind ∧ (own = [] → z = y) ∧
      (∀ e, own.getLast? = some e → z.lastReport = some now ∧
        z.quality = if e.quality = 1#8 then .good else .bad) ∧
      (good = [] → z.value = y.value) ∧
      (∀ e, good.getLast? = some e → (y.kind = .analog → z.value = e.value) ∧
        (y.kind = .discrete → z.value = if e.value = 0#16 then 0#16 else 1#16)) := by
  dsimp only
  rw [entereds_value]
  refine ⟨entereds_kind now own y, fun none => by rw [none]; rfl, fun e last => ?_, fun none => by rw [none]; rfl,
    fun e last => ?_⟩
  · obtain ⟨c, hc⟩ := foldl_last (entered now) last y
    rw [hc]
    exact entered_report now c e
  · obtain ⟨c, hc⟩ := foldl_last (fun _ e => storedValue y.kind e.value) last y.value
    rw [hc]
    exact ⟨fun analog => by rw [analog]; rfl, fun discrete => by rw [discrete]; rfl⟩

/-! ## The report -/

/-- A report of the PRIMARY that passes its checks applies its entries. -/
theorem channelReportRule_applies {s : State} {g : Gateway} {body : Body} {entries : List ReportEntry}
    (running : s.dev = .running) (parsed : parseEntries body = some entries) (some : entries ≠ [])
    (few : entries.length ≤ 40) (primary : (s.gateway g).role = .primary)
    (valid : ∀ e ∈ entries, e.channel < 1024 ∧ (e.quality = 1#8 ∨ e.quality = 2#8)) :
    channelReportRule g body s = ((entries.foldl applyEntry (s, 0, 0)).1,
      done [false] (num16 (entries.foldl applyEntry (s, 0, 0)).2.1 ++
        num16 (entries.foldl applyEntry (s, 0, 0)).2.2)) := by
  have channels : entries.findIdx? (fun e => decide (1024 ≤ e.channel)) = none :=
    List.findIdx?_eq_none_iff.2 fun e he => by simpa using (valid e he).1
  have qualities : entries.findIdx? (fun e => e.quality != 1#8 && e.quality != 2#8) = none :=
    List.findIdx?_eq_none_iff.2 fun e he => by rcases (valid e he).2 with h | h <;> simp [h]
  have length : ¬ (entries.length = 0 ∨ reportMax < entries.length) := by
    have := List.length_pos_iff.2 some
    simp only [reportMax]
    omega
  simp only [channelReportRule, parsed, if_neg length, running, ne_eq, not_true_eq_false, if_false, primary, channels,
    qualities]

theorem channelReportRule_ignores {s : State} {g : Gateway} {body : Body} {entries : List ReportEntry}
    (running : s.dev = .running) (parsed : parseEntries body = some entries) (some : entries ≠ [])
    (few : entries.length ≤ 40) (other : (s.gateway g).role ≠ .primary) :
    channelReportRule g body s = (s, done [true] []) := by
  have length : ¬ (entries.length = 0 ∨ reportMax < entries.length) := by
    have := List.length_pos_iff.2 some
    simp only [reportMax]
    omega
  simp only [channelReportRule, parsed, if_neg length, running, ne_eq, not_true_eq_false, if_false]
  exact if_pos other

section
variable {s : State} {g : Gateway} {body : Body} {entries : List ReportEntry}

theorem heardAt_gateway_changes (s : State) (g : Gateway) :
    OnlyChanges [.ports, .gateways, .queues, .journal] s (heardAt s (gatewayPort g)) :=
  beginTransaction_at_gateway_changes s g .sound

theorem report_ignored (sound : ((heardAt s (gatewayPort g)).gateway g).health ≠ .failed)
    (slot : ((heardAt s (gatewayPort g)).port (gatewayPort g)).slot = none) (running : s.dev = .running)
    (short : body.length ≤ maxBody) (parsed : parseEntries body = some entries) (some : entries ≠ [])
    (few : entries.length ≤ 40) (other : ((heardAt s (gatewayPort g)).gateway g).role ≠ .primary) (tag : Byte) :
    ∃ t, exec (.channelReport (gatewayPort g) tag body) s = .next t ∧
      Replied (heardAt s (gatewayPort g)) t (gatewayPort g) .channelReport tag (done [true] []) ∧
      OnlyChanges answering (heardAt s (gatewayPort g)) t := by
  have running' := (heardAt_gateway_changes s g).dev.trans running
  obtain ⟨t, ht, replied, within, _⟩ := gatewayRequest_done sound slot .channelReport tag short
    (channelReportRule_ignores running' parsed some few other) (OnlyChanges.refl (T := []) _)
  exact ⟨t, ht, replied, within.mono (by simp)⟩

theorem report_applied (sound : ((heardAt s (gatewayPort g)).gateway g).health ≠ .failed)
    (slot : ((heardAt s (gatewayPort g)).port (gatewayPort g)).slot = none) (running : s.dev = .running)
    (short : body.length ≤ maxBody) (parsed : parseEntries body = some entries) (some : entries ≠ [])
    (few : entries.length ≤ 40) (primary : ((heardAt s (gatewayPort g)).gateway g).role = .primary)
    (valid : ∀ e ∈ entries, e.channel < 1024 ∧ (e.quality = 1#8 ∨ e.quality = 2#8)) (tag : Byte) :
    ∃ t, exec (.channelReport (gatewayPort g) tag body) s = .next t ∧
      Replied (heardAt s (gatewayPort g)) t (gatewayPort g) .channelReport tag
        (done [false] (num16 (entries.filter (fun e => (s.channel e.channel).isSome)).length ++
          num16 (entries.filter (fun e => !(s.channel e.channel).isSome)).length)) ∧
      (∀ c, t.channel c =
        (s.channel c).map ((entries.filter (fun e => e.channel == c)).foldl (entered s.elapsed))) ∧
      OnlyChanges (answering ++ reportFields) (heardAt s (gatewayPort g)) t ∧
      OnlyChanges answering (entries.foldl applyEntry (heardAt s (gatewayPort g), 0, 0)).1 t := by
  have heard := heardAt_gateway_changes s g
  have rule := channelReportRule_applies (heard.dev.trans running) parsed some few primary valid
  have channels := applyEntries_channel entries (heardAt s (gatewayPort g), 0, 0)
  have counts := applyEntries_counts entries (heardAt s (gatewayPort g), 0, 0)
  have made := applyEntries_changes entries (heardAt s (gatewayPort g), 0, 0)
  simp only [heard.at_channel, heard.elapsed, Nat.zero_add] at channels counts
  rw [counts] at rule
  obtain ⟨t, ht, replied, within, answered⟩ := gatewayRequest_done sound slot .channelReport tag short rule made
  exact ⟨t, ht, replied, fun c => (answered.at_channel c).trans (channels c), within, answered⟩

end

end Sys2Proof.Proofs
end

/-! PROOFS. CHANNEL REPORT: what one entry makes of the points of its channel (spec/01, R9, R13, R16 to R18). -/

section
namespace Sys2Proof.Proofs
open Machine

/-! ## One entry -/

/-- The channel's points have lost their input (R16, R17). -/
def inputLost (y : Channel) : Prop := y.quality = .bad ∨ y.quality = .stale

theorem applyGood_of_lost {s : State} {c : Nat} {y : Channel} (v : Word16) (h : inputLost y) :
    applyGood s c y v = (s.boundTo c).foldl (fun t i => regainInput t (storedValue y.kind v) i)
      (s.setChannel c { y with value := storedValue y.kind v, quality := .good, lastReport := some s.elapsed }) := by
  unfold applyGood
  rcases h with h | h <;> rw [h] <;> rfl

theorem applyGood_of_present {s : State} {c : Nat} {y : Channel} (v : Word16) (h : ¬ inputLost y) :
    applyGood s c y v = (s.boundTo c).foldl (fun t i => evaluatePoint t (storedValue y.kind v) i)
      (s.setChannel c { y with value := storedValue y.kind v, quality := .good, lastReport := some s.elapsed }) := by
  unfold applyGood
  cases hq : y.quality with
  | bad => exact absurd (.inl hq) h
  | stale => exact absurd (.inr hq) h
  | good => rfl
  | never => rfl

theorem applyBad_of_lost {s : State} {c : Nat} {y : Channel} (h : inputLost y) :
    applyBad s c y = s.setChannel c { y with quality := .bad, lastReport := some s.elapsed } := by
  unfold applyBad
  rcases h with h | h <;> rw [h]

theorem applyBad_of_present {s : State} {c : Nat} {y : Channel} (h : ¬ inputLost y) :
    applyBad s c y = (s.boundTo c).foldl loseInput
      (s.setChannel c { y with quality := .bad, lastReport := some s.elapsed }) := by
  unfold applyBad
  cases hq : y.quality with
  | bad => exact absurd (.inl hq) h
  | stale => exact absurd (.inr hq) h
  | good => rfl
  | never => rfl

theorem storedValue_eq (k : ChannelKind) (v : Word16) :
    storedValue k v = if k = .analog then v else if v = 0#16 then 0#16 else 1#16 := by
  cases k <;> rfl

/-- The one entry of a body of five bytes. -/
theorem parseEntries_one (c1 c0 v1 v0 q : Byte) : parseEntries [c1, c0, v1, v0, q] =
    some [{ channel := (read16 c1 c0).toNat, value := read16 v1 v0, quality := q }] := rfl

section
variable {s : State} {g : Gateway} {c1 c0 v1 v0 q : Byte} {y : Channel}

/-- A report of one entry applies it. -/
theorem report_one (sound : ((heardAt s (gatewayPort g)).gateway g).health ≠ .failed)
    (slot : ((heardAt s (gatewayPort g)).port (gatewayPort g)).slot = none) (running : s.dev = .running)
    (primary : ((heardAt s (gatewayPort g)).gateway g).role = .primary) (inside : (read16 c1 c0).toNat < 1024)
    (hy : s.channel (read16 c1 c0).toNat = some y) (known : q = 1#8 ∨ q = 2#8) (tag : Byte) :
    ∃ t, exec (.channelReport (gatewayPort g) tag [c1, c0, v1, v0, q]) s = .next t ∧
      OnlyChanges answering (if q = 1#8 then
          applyGood (heardAt s (gatewayPort g)) (read16 c1 c0).toNat y (read16 v1 v0)
        else applyBad (heardAt s (gatewayPort g)) (read16 c1 c0).toNat y) t ∧
      ∀ c, t.channel c = if (read16 c1 c0).toNat = c then
          some (entered s.elapsed y { channel := c, value := read16 v1 v0, quality := q })
        else s.channel c := by
  obtain ⟨t, ht, _, channels, _, answered⟩ := report_applied sound slot running (by simp [maxBody])
    (parseEntries_one c1 c0 v1 v0 q) (by simp) (by simp) primary (by simpa using ⟨inside, known⟩) tag
  refine ⟨t, ht, ?_, fun c => ?_⟩
  · rw [List.foldl_cons, List.foldl_nil, applyEntry_configured
      (((heardAt_gateway_changes s g).at_channel (read16 c1 c0).toNat).trans hy)] at answered
    exact answered
  · rw [channels c]
    by_cases same : (read16 c1 c0).toNat = c
    · subst same
      rw [if_pos rfl, hy, List.filter_cons_of_pos (by simp)]
      rfl
    · rw [if_neg same, List.filter_cons_of_neg (by simpa using same)]
      exact Option.map_id'

theorem report_offending (sound : ((heardAt s (gatewayPort g)).gateway g).health ≠ .failed)
    (slot : ((heardAt s (gatewayPort g)).port (gatewayPort g)).slot = none) (running : s.dev = .running)
    (primary : ((heardAt s (gatewayPort g)).gateway g).role = .primary) (inside : (read16 c1 c0).toNat < 1024)
    (first : q ≠ 1#8) (second : q ≠ 2#8) (tag : Byte) :
    ∃ t, exec (.channelReport (gatewayPort g) tag [c1, c0, v1, v0, q]) s = .next t ∧
      OnlyChanges answering (heardAt s (gatewayPort g)) t := by
  have rule : channelReportRule g [c1, c0, v1, v0, q] (heardAt s (gatewayPort g)) =
      (heardAt s (gatewayPort g), refuseAt .malformed 0) := by
    have running' := (heardAt_gateway_changes s g).dev.trans running
    have above : ¬ 1024 ≤ (read16 c1 c0).toNat := by omega
    simp [channelReportRule, parseEntries_one, running', primary, reportMax, List.findIdx?_cons, above, first, second]
  obtain ⟨t, ht, _, within, _⟩ := gatewayRequest_done sound slot .channelReport tag (by simp [maxBody]) rule
    (OnlyChanges.refl (T := []) _)
  exact ⟨t, ht, within.mono (by simp)⟩

end

/-! ## The evaluation of a point (R13, R18) -/

/-- The point with a new condition (R13). -/
def withCondition (p : Point) (now : Bool) : Point := { p with cond := conditionOf now, lastKnown := some now }

/-- The delay of a new condition. -/
def conditionDelay (p : Point) (now : Bool) : Nat := if now then p.cfg.onDelay else p.cfg.offDelay

section
variable {s : State} {i : Nat} {p : Point} {now : Bool}

theorem handleCondition_same (h : p.cond = conditionOf now) : handleCondition s i p now = s := if_pos h

theorem handleCondition_out (h : p.cond ≠ conditionOf now) (out : p.inService = false) :
    handleCondition s i p now = s.setPoint i (withCondition p now) := by
  unfold handleCondition
  rw [if_neg h]
  exact if_pos (by rw [out]; rfl)

theorem handleCondition_level (h : p.cond ≠ conditionOf now) (inService : p.inService = true)
    (level : now = p.delivered) :
    handleCondition s i p now = s.setPoint i { withCondition p now with pendingPart := none } := by
  unfold handleCondition
  rw [if_neg h]
  dsimp only
  rw [if_neg (by rw [inService]; decide), if_pos level]
  rfl

theorem handleCondition_pends (h : p.cond ≠ conditionOf now) (inService : p.inService = true)
    (moved : now ≠ p.delivered) (delay : 0 < conditionDelay p now) :
    handleCondition s i p now = s.setPoint i { withCondition p now with
      pendingPart := some { raise := now, expiry := after s.elapsed (conditionDelay p now) } } := by
  unfold conditionDelay at *
  unfold handleCondition
  rw [if_neg h]
  dsimp only
  rw [if_neg (by rw [inService]; decide), if_neg moved, if_neg (by omega)]
  rfl

theorem handleCondition_delivers (h : p.cond ≠ conditionOf now) (inService : p.inService = true)
    (moved : now ≠ p.delivered) (delay : conditionDelay p now = 0) :
    handleCondition s i p now = deliverEvent (s.setPoint i (withCondition p now)) i now s.elapsed := by
  unfold conditionDelay at *
  unfold handleCondition
  rw [if_neg h]
  dsimp only
  rw [if_neg (by rw [inService]; decide), if_neg moved, if_pos delay]
  rfl

theorem evaluatePoint_of (h : s.point i = some p) (v : Word16) :
    evaluatePoint s v i = handleCondition s i p (evaluate p.cfg v p.cond p.lastKnown) := by
  simp only [evaluatePoint, h]

theorem written_apart (s : State) (i : Nat) (q : Point) : OtherPointsSame s (s.setPoint i q) i := fun _ hj =>
  setPoint_point_ne _ _ hj

/-- A raise taken at once. -/
theorem written_raise (h : s.point i = some p) (q : Point) (time : Time) :
    RaiseTaken s (deliverEvent (s.setPoint i q) i true time) i { q with delivered := true } time :=
  raiseTaken_from ((setPoint_changes s i q).mono (by decide)) (written_apart s i q)
    (deliverEvent_raise (setPoint_point_of h q) time false)

/-- A return taken at once. -/
theorem written_return (h : s.point i = some p) (heads : HeadsApart s) {q : Point} (cfg : q.cfg = p.cfg)
    (time : Time) : ReturnTaken s (deliverEvent (s.setPoint i q) i false time) i { q with delivered := false } time := by
  have written := setPoint_changes s i q
  obtain ⟨here, releases, fallen, changes⟩ := deliverEvent_return (setPoint_point_of h q) time false
    fun g x hg hx => heads i p g x h (cfg ▸ hg) ((written.at_group g).symm.trans hx)
  rw [Point.returned, returnState_of] at here fallen
  simp only [Bool.false_eq_true, not_false_eq_true, and_true] at here fallen
  refine ⟨?_, fun j hj => ?_, ?_, ?_, ?_, ?_⟩
  · exact here
  · rw [← written_apart s i q j hj]
    exact releases j hj
  · exact headHasFallen_congr rfl rfl rfl rfl (headHasFallen_from written.groups written.elapsed
      (written_apart s i q) fallen)
  · exact changes.serial.trans written.serial
  · exact changes.loads.trans written.loads
  · exact changes.journal.trans written.journal

end

/-! ## The flag BAD_INPUT (R17) -/

/-- A point stands with a flag BAD_INPUT. -/
def BadInputIs (t : State) (i : Nat) (b : Bool) : Prop := ∃ q, t.point i = some q ∧ q.badInput = b

theorem handOn_badInput {s : State} {i : Nat} {b : Bool} (h : BadInputIs s i b) (old : Point) (c : Change) :
    BadInputIs (handOn s i old c) i b := by
  obtain ⟨q, hq, flag⟩ := h
  rcases handOn_point s i i old c with same | released
  · exact ⟨q, same.trans hq, flag⟩
  · exact ⟨q.released, by rw [released, hq]; rfl, flag⟩

theorem engineRaise_badInput {s : State} {i : Nat} {p : Point} (h : s.point i = some p) (time : Time) :
    BadInputIs (engineRaise s i time) i p.badInput := by
  obtain ⟨folded, quiet, annunciated, _, _⟩ := engineRaise_taken time h
  cases folds : p.folds time with
  | true => exact ⟨_, (folded folds).1, rfl⟩
  | false =>
    cases wouldBe : s.wouldBeQuiet p with
    | true => exact ⟨_, (quiet folds wouldBe).1, rfl⟩
    | false => exact ⟨_, (annunciated folds wouldBe).1, rfl⟩

theorem engineReturn_badInput {s : State} {i : Nat} {p : Point} (h : s.point i = some p) (time : Time) (b : Bool) :
    BadInputIs (engineReturn s i time b) i p.badInput := by
  have written : BadInputIs (s.setPoint i (p.returned time b)) i p.badInput := ⟨_, setPoint_point_of h _, rfl⟩
  unfold engineReturn
  rw [h]
  dsimp only
  split
  · exact written
  · exact handOn_badInput written p {}

theorem deliverEvent_badInput {s : State} {i : Nat} {p : Point} (h : s.point i = some p) (raise : Bool) (time : Time) :
    BadInputIs (deliverEvent s i raise time) i p.badInput := by
  unfold deliverEvent
  rw [h]
  dsimp only
  split
  · exact engineRaise_badInput (setPoint_point_of h { p with delivered := raise }) time
  · exact engineReturn_badInput (setPoint_point_of h { p with delivered := raise }) time false

theorem evaluatePoint_badInput {s : State} {i : Nat} {p : Point} (h : s.point i = some p) (v : Word16) :
    BadInputIs (evaluatePoint s v i) i p.badInput := by
  have written : ∀ q : Point, q.badInput = p.badInput → BadInputIs (s.setPoint i q) i p.badInput :=
    fun q flag => ⟨q, setPoint_point_of h q, flag⟩
  rw [evaluatePoint_of h]
  generalize evaluate p.cfg v p.cond p.lastKnown = now
  by_cases same : p.cond = conditionOf now
  · rw [handleCondition_same same]
    exact ⟨p, h, rfl⟩
  cases service : p.inService with
  | false =>
    rw [handleCondition_out same service]
    exact written _ rfl
  | true =>
    by_cases level : now = p.delivered
    · rw [handleCondition_level same service level]
      exact written _ rfl
    · rcases Nat.eq_zero_or_pos (conditionDelay p now) with delay | delay
      · rw [handleCondition_delivers same service level delay]
        exact deliverEvent_badInput (setPoint_point_of h (withCondition p now)) _ _
      · rw [handleCondition_pends same service level delay]
        exact written _ rfl

/-! ## The three operations on a point -/

theorem pointNotice_queues {s : State} {i : Nat} {p : Point} (h : s.point i = some p) :
    (pointNotice s i false false).queues = (deliver s (pointNoticeOf (p.body i false false))
      (s.pointNames p.cfg.area p.escalated)).queues := by
  simp only [pointNotice, h]

/-- The evaluation of a point, case by case (R13, R18). -/
theorem evaluatePoint_handles {s : State} {i : Nat} {p : Point} (h : s.point i = some p) (v : Word16) (now : Bool)
    (hn : evaluate p.cfg v p.cond p.lastKnown = now) :
    (p.cond = conditionOf now → evaluatePoint s v i = s) ∧
    (p.cond ≠ conditionOf now → p.inService = false → evaluatePoint s v i = s.setPoint i (withCondition p now)) ∧
    (p.cond ≠ conditionOf now → p.inService = true →
      (now = p.delivered → evaluatePoint s v i = s.setPoint i { withCondition p now with pendingPart := none }) ∧
      (now ≠ p.delivered → 0 < conditionDelay p now → evaluatePoint s v i = s.setPoint i { withCondition p now with
        pendingPart := some { raise := now, expiry := after s.elapsed (conditionDelay p now) } }) ∧
      (now ≠ p.delivered → conditionDelay p now = 0 →
        (now = true → RaiseTaken s (evaluatePoint s v i) i { withCondition p now with delivered := true } s.elapsed) ∧
        (now = false → HeadsApart s →
          ReturnTaken s (evaluatePoint s v i) i { withCondition p now with delivered := false } s.elapsed))) := by
  rw [evaluatePoint_of h, hn]
  refine ⟨handleCondition_same, handleCondition_out, fun moved inService => ⟨handleCondition_level moved inService,
    handleCondition_pends moved inService, fun event delay => ?_⟩⟩
  rw [handleCondition_delivers moved inService event delay]
  exact ⟨fun up => by rw [up]; exact written_raise h _ _,
    fun down heads => by rw [down]; exact written_return (q := withCondition p false) h heads rfl _⟩

theorem loseInput_tells {s : State} {i : Nat} {p : Point} (h : s.point i = some p) :
    (loseInput s i).point i = some (lostInput p) ∧ OtherPointsSame s (loseInput s i) i ∧
    (loseInput s i).queues = (deliver s (pointNoticeOf ((lostInput p).body i false false))
      (s.pointNames p.cfg.area p.escalated)).queues := by
  refine ⟨?_, fun j hj => ?_, ?_⟩
  · rw [loseInput_point, if_pos rfl, h]
    rfl
  · rw [loseInput_point, if_neg hj]
  · have lost : loseInput s i = pointNotice (s.setPoint i (lostInput p)) i false false := by
      simp only [loseInput, h]
      rfl
    rw [lost, pointNotice_queues (setPoint_point_of h (lostInput p))]
    exact deliver_queues_congr _ _ rfl rfl rfl rfl

theorem regainInput_tells {s : State} {i : Nat} {p : Point} (h : s.point i = some p) (v : Word16) :
    let u := evaluatePoint (s.setPoint i { p with badInput := false }) v i
    ∃ q, u.point i = some q ∧ q.badInput = false ∧
      (regainInput s v i).queues = (deliver u (pointNoticeOf (q.body i false false))
        (u.pointNames q.cfg.area q.escalated)).queues ∧ OnlyChanges [.queues] u (regainInput s v i) := by
  obtain ⟨q, hq, flag⟩ := evaluatePoint_badInput (setPoint_point_of h { p with badInput := false }) v
  have regained : regainInput s v i =
      pointNotice (evaluatePoint (s.setPoint i { p with badInput := false }) v i) i false false := by
    simp only [regainInput, h]
  rw [regained]
  exact ⟨q, hq, flag, pointNotice_queues hq, pointNotice_changes _ _ _ _⟩

/-- Settles O51: a report is a fold over its entries, each of which writes its channel and has the points of the
channel evaluated or deprived of their input. -/
theorem channelReportStoresEntries : Obligations.ChannelReportStoresEntries := by
  refine ⟨?_, ?_, ?_⟩
  · intro g tag body entries s p h sound slot running short parsed some few
    refine ⟨fun other => report_ignored sound slot running short parsed some few other tag,
      fun primary valid => ?_⟩
    obtain ⟨t, ht, replied, channels, within, _⟩ :=
      report_applied sound slot running short parsed some few primary valid tag
    refine ⟨t, ht, replied, fun c y hy => ⟨_, ?_, entereds_leave s.elapsed _ y⟩, fun c hc => ?_, within⟩
    · rw [channels, hy]
      rfl
    · rw [channels, hc]
      rfl
  · intro g tag c1 c0 v1 v0 q y s p h c v sound slot running primary inside hy stored bound good bad lost
    have heard := heardAt_gateway_changes s g
    have hb : h.boundTo c = bound := by rw [State.boundTo, heard.points]
    have hs : storedValue y.kind v = stored := storedValue_eq _ _
    have now : h.elapsed = s.elapsed := heard.elapsed
    by_cases known : q = 1#8 ∨ q = 2#8
    · obtain ⟨t, ht, answered, channels⟩ := report_one (v1 := v1) (v0 := v0) sound slot running primary inside hy
        known tag
      refine ⟨t, ht, fun first present => ?_, fun first gone => ?_, fun second present => ?_, fun second gone => ?_,
        fun first => ?_, fun second => ?_, fun first second => absurd known (by simp [first, second]),
        fun b hb => (channels b).trans (if_neg hb.symm)⟩
      · rw [if_pos first, applyGood_of_present _ present, hs, hb, now] at answered
        exact answered
      · rw [if_pos first, applyGood_of_lost _ gone, hs, hb, now] at answered
        exact answered
      · rw [if_neg (by rw [second]; decide), applyBad_of_present present, hb, now] at answered
        exact answered
      · rw [if_neg (by rw [second]; decide), applyBad_of_lost gone, now] at answered
        exact answered
      · rw [channels, if_pos rfl, entered, if_pos first, hs]
      · rw [channels, if_pos rfl, entered, if_neg (by simp [second])]
    · obtain ⟨first, second⟩ := not_or.1 known
      obtain ⟨t, ht, answered⟩ := report_offending (v1 := v1) (v0 := v0) sound slot running primary inside first
        second tag
      exact ⟨t, ht, fun k => absurd k first, fun k => absurd k first, fun k => absurd k second,
        fun k => absurd k second, fun k => absurd k first, fun k => absurd k second, fun _ _ => answered,
        fun b _ => (answered.at_channel b).trans (heard.at_channel b)⟩
  · intro v i p s h
    exact ⟨⟨(evaluatePoint_handles h v _ rfl).1, (evaluatePoint_handles h v _ rfl).2.1,
      (evaluatePoint_handles h v _ rfl).2.2, evaluatePoint_changes s v i⟩,
      ⟨(loseInput_tells h).1, (loseInput_tells h).2.1, (loseInput_tells h).2.2, loseInput_changes s i⟩,
      regainInput_tells h v⟩

end Sys2Proof.Proofs
end

/-! PROOFS. The requests of a load at the supervisor port: LOAD END (spec/12, R177; spec/11, R171). -/

section
namespace Sys2Proof.Proofs
open Machine

/-! ## A configuration request at the supervisor port -/

theorem enabled_supervisor (s : State) : s.enabled supervisor = true := by
  simp [State.enabled]

/-- A request of the configuration, which is taken in every device state: its rule gives the state `u` and the
reply `r`. -/
theorem configRequest_done {s u : State} {r : Reply} {body : Body} (k : Kind) (tag : Byte) {rule : DeskRule}
    (slot : (s.port (deskPort supervisor)).slot = none) (hb : body.length ≤ maxBody)
    (hr : rule supervisor body (heardAt s (deskPort supervisor)) = (u, r))
    (hp : u.ports = (heardAt s (deskPort supervisor)).ports) :
    ∃ t, runRequest (deskPort supervisor) k tag body (.desk true rule) s = .next t ∧
      Replied (heardAt s (deskPort supervisor)) t (deskPort supervisor) k tag r ∧ OnlyChanges answering u t := by
  have answers : dispatch (some (.desk true rule)) (deskPort supervisor) body (heardAt s (deskPort supervisor)) =
      (u, r) := by
    unfold dispatch
    rw [splitPort_deskPort]
    dsimp only
    rw [enabled_supervisor, if_neg (by decide), if_neg (by simp)]
    exact hr
  have deaf : (heardAt s (deskPort supervisor)).deaf (deskPort supervisor) = false := by
    rw [State.deaf, splitPort_deskPort]
  have taken := soundFrame_taken (kind := k.code) (tag := tag) (body := body) (req := some (.desk true rule)) deaf
    ((heardAt_desk_slot s supervisor _).trans slot)
  refine ⟨_, runRequest_sound hb, ?_, ?_⟩ <;> rw [taken, answers]
  · unfold Replied
    simp only [settle_ports, State.setPort, State.port, hp]
  · exact answer_changes _ _ _

theorem onLoader_taken {s : State} {needed : DeviceState} (h : s.dev = needed) (k : State × Reply) :
    onLoader s supervisor needed k = k := by
  simp [onLoader, h]

/-! ## The tables taken into use (R177) -/

def loadFieldsTaken : List Field :=
  [.dev, .staged, .params, .roles, .reach, .portCfg, .preferred, .channels, .points, .shelf, .groups, .loads,
   .loadExpiry, .sweep, .queues, .creds, .desks, .map, .records, .gateways]

theorem takeIntoUse_changes (s : State) : OnlyChanges loadFieldsTaken s (takeIntoUse s) := by
  intro f hf
  cases f <;> first | (simp [loadFieldsTaken] at hf; done) | rfl

theorem takeIntoUse_gateway (s : State) (g : Gateway) :
    (takeIntoUse s).gateway g = initialRoles s.staged.preferredGateway g (s.gateway g) := by
  simp [takeIntoUse, State.gateway]

theorem takeIntoUse_area (s : State) (a : Area) :
    (takeIntoUse s).area a = (s.staged.areaName a).map AreaRecord.fresh := by
  simp [takeIntoUse, State.area]

theorem initialRoles_preferred (g : Gateway) (x : GatewayState) :
    initialRoles g g x = { x with role := .primary, refresh := true } := if_pos rfl

theorem initialRoles_other {p g : Gateway} (h : g ≠ p) (x : GatewayState) :
    initialRoles p g x = { x with role := .secondary, refresh := false } := if_neg h

/-- The gateway that holds PRIMARY is found by the roles alone. -/
theorem primary_eq {s : State} {g : Gateway} (h : (s.gateway g).role = .primary)
    (other : (s.gateway (otherGateway g)).role = .secondary) : s.primary = some g := by
  unfold State.primary
  have zero_or_one : ∀ k : Gateway, (k = 0 ∧ otherGateway k = 1) ∨ (k = 1 ∧ otherGateway k = 0) := by decide
  rcases zero_or_one g with ⟨hg, hk⟩ | ⟨hg, hk⟩
  · rw [hg] at h ⊢
    exact if_pos h
  · rw [hk] at other
    rw [hg] at h ⊢
    rw [if_neg (by rw [other]; decide), if_pos h]

/-- What LOAD END makes of the roles: `g` is the PRIMARY (R171). -/
structure RolesTaken (s t : State) (g : Gateway) : Prop where
  primary : t.gateway g = { s.gateway g with role := .primary, refresh := true }
  secondary : t.gateway (otherGateway g) = { s.gateway (otherGateway g) with role := .secondary, refresh := false }

theorem RolesTaken.holds {s t : State} {g : Gateway} (h : RolesTaken s t g) : t.primary = some g :=
  primary_eq (by rw [h.primary]) (by rw [h.secondary])

theorem takeIntoUse_roles (s : State) : RolesTaken s (takeIntoUse s) s.staged.preferredGateway where
  primary := by rw [takeIntoUse_gateway, initialRoles_preferred]
  secondary := by rw [takeIntoUse_gateway, initialRoles_other (otherGateway_ne _)]

theorem otherGateway_otherGateway (g : Gateway) : otherGateway (otherGateway g) = g := by
  revert g
  decide

theorem exchangeRoles_roles {s t : State} {g : Gateway} (h : RolesTaken s t g) (c : Byte) :
    RolesTaken s (exchangeRoles t g c) (otherGateway g) where
  primary := by rw [exchangeRoles_secondary, h.secondary]
  secondary := by rw [otherGateway_otherGateway, exchangeRoles_primary, h.primary]

/-- The roles judged at LOAD END: the preferred gateway holds PRIMARY unless it is lost and the other eligible. -/
theorem judged_roles {s t : State} {g : Gateway} (h : RolesTaken s t g) :
    (t.gatewayLost g = true ∧ t.eligible (otherGateway g) = true →
      RolesTaken s (judgeRoles t) (otherGateway g)) ∧
    (¬ (t.gatewayLost g = true ∧ t.eligible (otherGateway g) = true) → RolesTaken s (judgeRoles t) g) := by
  unfold judgeRoles
  rw [h.holds]
  simp only [Bool.and_eq_true]
  refine ⟨fun moves => ?_, fun stays => ?_⟩
  · rw [if_pos moves]
    exact exchangeRoles_roles h 0#8
  · rw [if_neg stays]
    exact h

theorem gatewayLost_iff (s : State) (g : Gateway) : s.gatewayLost g = true ↔
    (s.port (gatewayPort g)).link = .silent ∨ (s.gateway g).health = .failed := by
  rw [State.gatewayLost, State.linkGood]
  cases (s.port (gatewayPort g)).link <;> simp

theorem eligible_iff (s : State) (g : Gateway) : s.eligible g = true ↔
    (s.port (gatewayPort g)).link = .good ∧ ((s.gateway g).health = .good ∨ (s.gateway g).health = .doubt) := by
  simp [State.eligible, State.linkGood]

theorem RolesTaken.health {s t : State} {g : Gateway} (h : RolesTaken s t g) :
    (t.gateway g).health = (s.gateway g).health ∧
    (t.gateway (otherGateway g)).health = (s.gateway (otherGateway g)).health := by
  rw [h.primary, h.secondary]
  exact ⟨rfl, rfl⟩

/-- The preferred gateway is lost as R171 has it. -/
def PreferredGivesWay (s : State) (g : Gateway) : Prop :=
  ((s.port (gatewayPort g)).link = .silent ∨ (s.gateway g).health = .failed) ∧
  ((s.port (gatewayPort (otherGateway g))).link = .good ∧
    ((s.gateway (otherGateway g)).health = .good ∨ (s.gateway (otherGateway g)).health = .doubt))

theorem RolesTaken.givesWay {s t : State} {g : Gateway} (h : RolesTaken s t g) (ports : t.ports = s.ports) :
    t.gatewayLost g = true ∧ t.eligible (otherGateway g) = true ↔ PreferredGivesWay s g := by
  have port : ∀ p, t.port p = s.port p := fun p => by simp only [State.port, ports]
  rw [gatewayLost_iff, eligible_iff, port, port, h.health.1, h.health.2]
  rfl

/-- The PRIMARY after LOAD END. -/
theorem loadEnd_roles (s : State) : ∃ g,
    (PreferredGivesWay s s.staged.preferredGateway → g = otherGateway s.staged.preferredGateway) ∧
    (¬ PreferredGivesWay s s.staged.preferredGateway → g = s.staged.preferredGateway) ∧
    RolesTaken s (judgeRoles (takeIntoUse s)) g := by
  have taken := takeIntoUse_roles s
  have ways := taken.givesWay (takeIntoUse_changes s).ports
  obtain ⟨moves, stays⟩ := judged_roles taken
  by_cases gives : PreferredGivesWay s s.staged.preferredGateway
  · exact ⟨_, fun _ => rfl, fun h => absurd gives h, moves (ways.2 gives)⟩
  · exact ⟨_, fun h => absurd h gives, fun _ => rfl, stays fun h => gives (ways.1 h)⟩

/-- The entry of the restart names the PRIMARY. -/
theorem loadEndTaken_last (s : State) {g : Gateway} (h : RolesTaken s (judgeRoles (takeIntoUse s)) g) :
    LastEntry (loadEndTaken s) .restart
      { port := some (deskPort supervisor), detail := detail4 0#8 (byte (gatewayPort g)) 0#8 0#8 } := by
  have named : (judgeRoles (takeIntoUse s)).primaryByte = byte (gatewayPort g) := by
    simp only [State.primaryByte, h.holds]
  unfold loadEndTaken
  dsimp only
  rw [named]
  exact enter_last _ _ _ ((judgeRoles_changes _).dev.trans rfl)

/-- After the tables have been taken into use only the roles are judged and the restart entered. -/
theorem loadEndTaken_changes (s : State) : OnlyChanges [.gateways, .journal] (takeIntoUse s) (loadEndTaken s) :=
  (judgeRoles_changes _).trans ((enter_changes _ _ _).mono (by decide))

theorem loadEnd_fails {s : State} (tag : Byte) (slot : (s.port (deskPort supervisor)).slot = none)
    (loading : s.dev = .loading) {code index : Nat} (fault : s.staged.fault = some (code, index)) :
    ∃ t, exec (.loadEnd (deskPort supervisor) tag []) s = .next t ∧
      Replied (heardAt s (deskPort supervisor)) t (deskPort supervisor) .loadEnd tag
        { refuseAt .configError code with detail := num16 index } ∧
      OnlyChanges answering (heardAt s (deskPort supervisor)) t := by
  have heard := heardAt_desk_changes s supervisor
  have fault' : (heardAt s (deskPort supervisor)).staged.fault = some (code, index) := by rw [heard.staged, fault]
  refine configRequest_done .loadEnd tag slot (by simp [maxBody]) (rule := loadEndRule) ?_ rfl
  rw [loadEndRule, onLoader_taken (heard.dev.trans loading)]
  simp only [fault']

theorem loadEnd_passes {s : State} (tag : Byte) (slot : (s.port (deskPort supervisor)).slot = none)
    (loading : s.dev = .loading) (fault : s.staged.fault = none) :
    ∃ t, exec (.loadEnd (deskPort supervisor) tag []) s = .next t ∧
      Replied (heardAt s (deskPort supervisor)) t (deskPort supervisor) .loadEnd tag (done [] []) ∧
      OnlyChanges answering (loadEndTaken (heardAt s (deskPort supervisor))) t := by
  have heard := heardAt_desk_changes s supervisor
  have fault' : (heardAt s (deskPort supervisor)).staged.fault = none := by rw [heard.staged, fault]
  have taken := (loadEndTaken_changes (heardAt s (deskPort supervisor))).ports.trans (takeIntoUse_changes _).ports
  refine configRequest_done .loadEnd tag slot (by simp [maxBody]) (rule := loadEndRule) ?_ taken
  rw [loadEndRule, onLoader_taken (heard.dev.trans loading)]
  simp only [fault']

/-- The fields as the tables give them. -/
structure InUse (st : Staged) (now : Time) (t : State) : Prop where
  dev : t.dev = .running
  staged : t.staged = .empty
  params : t.params = st.parameters
  points : t.points = st.points
  channels : t.channels = st.channels
  roles : ∀ r : Fin 8, t.roles[r] = st.role r
  reach : ∀ c : Console, t.reach[c] = st.reachOf c
  portCfg : ∀ d : Desk, t.portCfg[d] = (st.rawPort d).cfg
  preferred : t.preferred = st.preferredGateway
  group : ∀ g, t.group g = st.groupAt g
  creds : t.creds = st.credentials
  shelf : t.shelf = []
  area : ∀ a, t.area a = (st.areaName a).map AreaRecord.fresh
  load : ∀ a, t.load a = .quiet
  record : ∀ i, t.record i = none
  desks : ∀ d : Desk, t.queue d = .empty ∧ t.desk d = .fresh
  loadExpiry : t.loadExpiry = some (after now (10 * st.parameter 5))
  sweep : t.sweep = { running := true, passStart := now, period := 10 * st.parameter 21
                      size := st.points.length, position := 0, firstPass := true }

theorem takeIntoUse_inUse (s : State) : InUse s.staged s.elapsed (takeIntoUse s) where
  dev := rfl
  staged := rfl
  params := rfl
  points := rfl
  channels := rfl
  roles r := by simp [takeIntoUse]
  reach c := by simp [takeIntoUse]
  portCfg d := by simp [takeIntoUse]
  preferred := rfl
  group := takeIntoUse_group s
  creds := rfl
  shelf := rfl
  area := takeIntoUse_area s
  load a := by simp [takeIntoUse, State.load]
  record i := by simp [takeIntoUse, State.record]
  desks d := by simp [takeIntoUse, State.queue, State.desk]
  loadExpiry := by rw [← takeIntoUse_param s 5]; rfl
  sweep := by rw [← takeIntoUse_param s 21]; rfl

theorem InUse.of_changes {st : Staged} {now : Time} {t u : State} (h : InUse st now t)
    (k : OnlyChanges (answering ++ [.gateways, .journal]) t u) : InUse st now u where
  dev := k.dev.trans h.dev
  staged := k.staged.trans h.staged
  params := k.params.trans h.params
  points := k.points.trans h.points
  channels := k.channels.trans h.channels
  roles r := by rw [k.roles, h.roles]
  reach c := by rw [k.reach, h.reach]
  portCfg d := by rw [k.portCfg, h.portCfg]
  preferred := k.preferred.trans h.preferred
  group g := (k.at_group g).trans (h.group g)
  creds := k.creds.trans h.creds
  shelf := k.shelf.trans h.shelf
  area a := (k.at_area a).trans (h.area a)
  load a := (k.at_load a).trans (h.load a)
  record i := (k.at_record i).trans (h.record i)
  desks d := ⟨(k.at_queue d).trans (h.desks d).1, (k.at_desk d).trans (h.desks d).2⟩
  loadExpiry := k.loadExpiry.trans h.loadExpiry
  sweep := k.sweep.trans h.sweep

/-- Settles O53: the first fault is answered; without one the tables are taken into use, and the roles are judged by
the links and the healths. -/
theorem loadEndChecksTables : Obligations.LoadEndChecksTables := by
  intro tag s slot loading p h st
  refine ⟨fun code index fault => loadEnd_fails tag slot loading fault, fun fault => ?_⟩
  obtain ⟨t, ht, replied, answered⟩ := loadEnd_passes tag slot loading fault
  have heard := heardAt_desk_changes s supervisor
  have rest : OnlyChanges (answering ++ [.gateways, .journal]) (takeIntoUse h) t :=
    ((loadEndTaken_changes h).mono (by decide)).trans (answered.mono (by decide))
  have used := (takeIntoUse_inUse h).of_changes rest
  have staged : h.staged = st := heard.staged
  have now : h.elapsed = s.elapsed := heard.elapsed
  obtain ⟨g, moves, stays, roles⟩ := loadEnd_roles h
  have last := loadEndTaken_last h roles
  have judged : ∀ k, t.gateway k = (judgeRoles (takeIntoUse h)).gateway k := fun k =>
    (answered.at_gateway k).trans ((enter_changes _ _ _).at_gateway k)
  rw [staged, now] at used
  rw [staged] at moves stays
  refine ⟨t, ht, used.dev, used.staged, used.params, used.points, used.channels, used.roles, used.reach, used.portCfg,
    used.preferred, used.group, used.creds, used.shelf, used.area, used.load, used.record, used.desks,
    used.loadExpiry, used.sweep, ⟨g, moves, stays, ?_, ?_, answered.lastEntry last⟩, replied,
    ((takeIntoUse_changes h).mono (by decide)).trans (rest.mono (by decide))⟩
  · rw [judged, roles.primary]
  · rw [judged, roles.secondary]

end Sys2Proof.Proofs
end

/-! PROOFS. LOAD START, CONFIG BLOCK and LOAD ABANDON (spec/12, R175, R176). -/

section
namespace Sys2Proof.Proofs
open Machine

/-! ## The entries of a block (R176) -/

theorem tableGet_tablePut_ne {α : Type} (t : List (Nat × α)) {q j : Nat} (h : j ≠ q) (x : α) :
    tableGet (tablePut t q x) j = tableGet t j := by
  induction t with
  | nil => simp [tablePut, tableGet, h.symm]
  | cons e rest ih =>
    obtain ⟨k, y⟩ := e
    unfold tablePut
    split
    · simp [tableGet, h.symm]
    · split
      · rename_i same
        simp [tableGet, h.symm, ← same]
      · simp only [tableGet, ih]

/-- The entries written stand at consecutive indices, and no other entry moves. -/
theorem tableGet_putEntries (entries : List (List Byte)) (t : List (Nat × List Byte)) (first i : Nat) :
    tableGet (putEntries t first entries) i =
      if first ≤ i ∧ i < first + entries.length then entries[i - first]? else tableGet t i := by
  induction entries generalizing t first with
  | nil => exact (if_neg (by simp)).symm
  | cons e rest ih =>
    rw [putEntries, ih, List.length_cons]
    by_cases here : i = first
    · subst here
      rw [if_neg (by omega), if_pos (by omega), tableGet_tablePut, Nat.sub_self]
      rfl
    · rw [tableGet_tablePut_ne _ here]
      by_cases inside : first + 1 ≤ i ∧ i < first + 1 + rest.length
      · rw [if_pos inside, if_pos (by omega), show i - first = (i - (first + 1)) + 1 by omega,
          List.getElem?_cons_succ]
      · rw [if_neg inside, if_neg (by omega)]

theorem chunks_length (size n : Nat) (l : List Byte) : (chunks size n l).length = n := by
  induction n generalizing l with
  | zero => rfl
  | succ n ih => rw [chunks, List.length_cons, ih]

theorem chunks_getElem? (size n : Nat) (l : List Byte) {j : Nat} (h : j < n) :
    (chunks size n l)[j]? = some ((l.drop (j * size)).take size) := by
  induction n generalizing l j with
  | zero => omega
  | succ n ih =>
    rw [chunks]
    cases j with
    | zero => simp
    | succ j =>
      rw [List.getElem?_cons_succ, ih _ (by omega), List.drop_drop, Nat.succ_mul, Nat.add_comm size]

theorem write_entry (st : Staged) (k : Fin 9) (first : Nat) (entries : List (List Byte)) (i : Nat) :
    (st.write k first entries).entry k i =
      if first ≤ i ∧ i < first + entries.length then entries[i - first]? else st.entry k i := by
  rw [Staged.entry, Staged.entry, ← tableGet_putEntries]
  simp [Staged.write]

theorem write_present (st : Staged) (k : Fin 9) (first : Nat) (entries : List (List Byte)) :
    (st.write k first entries).present[k] = true := by
  simp [Staged.write]

theorem write_others (st : Staged) {k l : Fin 9} (h : l ≠ k) (first : Nat) (entries : List (List Byte)) :
    (st.write k first entries).present[l] = st.present[l] ∧
    (st.write k first entries).tables[l] = st.tables[l] := by
  have apart : k.val ≠ l.val := fun e => h (Fin.ext e.symm)
  simp [Staged.write, apart]

theorem empty_present (k : Fin 9) : Staged.empty.present[k] = false ∧ Staged.empty.tables[k] = [] := by
  simp [Staged.empty]

/-! ## The three requests -/

variable {s : State}

theorem setLoading_changes (s : State) : OnlyChanges [.dev, .staged] s { s with dev := .loading, staged := .empty } := by
  intro f hf
  cases f <;> first | rfl | simp at hf

theorem loadStart_starts (slot : (s.port (deskPort supervisor)).slot = none) (unconfigured : s.dev = .unconfigured)
    (tag : Byte) :
    ∃ t, exec (.loadStart (deskPort supervisor) tag []) s = .next t ∧ t.dev = .loading ∧
      (∀ k : Fin 9, t.staged.present[k] = false ∧ t.staged.tables[k] = []) ∧
      Replied (heardAt s (deskPort supervisor)) t (deskPort supervisor) .loadStart tag (done [] []) ∧
      OnlyChanges (answering ++ [.dev, .staged]) (heardAt s (deskPort supervisor)) t := by
  have heard := heardAt_desk_changes s supervisor
  have rule : loadStartRule supervisor [] (heardAt s (deskPort supervisor)) =
      ({ heardAt s (deskPort supervisor) with dev := .loading, staged := .empty }, done [] []) :=
    onLoader_taken (heard.dev.trans unconfigured) _
  obtain ⟨t, ht, replied, answered⟩ := configRequest_done .loadStart tag slot (by simp [maxBody]) rule rfl
  have started := setLoading_changes (heardAt s (deskPort supervisor))
  refine ⟨t, ht, answered.dev, fun k => ?_, replied, (started.mono (by decide)).trans (answered.mono (by decide))⟩
  rw [answered.staged]
  exact empty_present k

theorem setStaged_changes (s : State) (st : Staged) : OnlyChanges [.staged] s { s with staged := st } := by
  intro f hf
  cases f <;> first | rfl | simp at hf

theorem configBlockRule_taken {s : State} (loading : s.dev = .loading) {kb f1 f0 n : Byte} {bytes : List Byte}
    {k : Fin 9} (kind : blockKind kb = some k) (some : n ≠ 0#8) (length : bytes.length = n.toNat * entrySizes[k])
    (fits : (read16 f1 f0).toNat + n.toNat ≤ tableSizes[k]) :
    configBlockRule supervisor (kb :: f1 :: f0 :: n :: bytes) s =
      ({ s with staged := s.staged.write k (read16 f1 f0).toNat (chunks entrySizes[k] n.toNat bytes) },
        done [] (kb :: num16 n.toNat)) := by
  have nonzero : n.toNat ≠ 0 := fun e => some (BitVec.eq_of_toNat_eq e)
  rw [configBlockRule, onLoader_taken loading, kind]
  dsimp only
  rw [if_neg (fun h => h.elim nonzero fun h => h length), if_neg (by omega)]

theorem configBlock_writes (slot : (s.port (deskPort supervisor)).slot = none) (loading : s.dev = .loading)
    {kb f1 f0 n : Byte} {bytes : List Byte} {k : Fin 9} (kind : blockKind kb = some k) (some : n ≠ 0#8)
    (length : bytes.length = n.toNat * entrySizes[k]) (short : bytes.length + 4 ≤ maxBody)
    (fits : (read16 f1 f0).toNat + n.toNat ≤ tableSizes[k]) (tag : Byte) :
    ∃ t, exec (.configBlock (deskPort supervisor) tag (kb :: f1 :: f0 :: n :: bytes)) s = .next t ∧
      t.staged = s.staged.write k (read16 f1 f0).toNat (chunks entrySizes[k] n.toNat bytes) ∧
      Replied (heardAt s (deskPort supervisor)) t (deskPort supervisor) .configBlock tag
        (done [] (kb :: num16 n.toNat)) ∧
      OnlyChanges (answering ++ [.staged]) (heardAt s (deskPort supervisor)) t := by
  have heard := heardAt_desk_changes s supervisor
  obtain ⟨t, ht, replied, answered⟩ := configRequest_done (rule := configBlockRule) .configBlock tag slot
    (by simp only [List.length_cons]; omega) (configBlockRule_taken (heard.dev.trans loading) kind some length fits) rfl
  have written := setStaged_changes (heardAt s (deskPort supervisor))
    ((heardAt s (deskPort supervisor)).staged.write k (read16 f1 f0).toNat (chunks entrySizes[k] n.toNat bytes))
  refine ⟨t, ht, ?_, replied, (written.mono (by decide)).trans (answered.mono (by decide))⟩
  rw [answered.staged, heard.staged]

theorem abandoned_changes (s : State) : OnlyChanges [.ports, .elapsed, .refCycles, .offset, .pending, .journal, .gateways,
    .shiftedOut, .freeCount] State.reset (abandoned s) := by
  intro f hf
  cases f <;> first | rfl | simp at hf

theorem abandoned_gateway (s : State) (g : Gateway) :
    (abandoned s).gateway g = { s.gateway g with role := .none, refresh := false } := by
  simp [abandoned, State.gateway]

theorem reset_desk (d : Desk) : State.reset.desk d = .fresh := by
  simp [State.desk, State.reset]

theorem loadAbandon_abandons (slot : (s.port (deskPort supervisor)).slot = none) (loading : s.dev = .loading)
    (tag : Byte) :
    ∃ t, exec (.loadAbandon (deskPort supervisor) tag []) s = .next t ∧
      Replied (heardAt s (deskPort supervisor)) t (deskPort supervisor) .loadAbandon tag (done [] []) ∧
      OnlyChanges answering (abandoned (heardAt s (deskPort supervisor))) t ∧
      OnlyChanges (answering ++ [.elapsed, .refCycles, .offset, .pending, .journal, .gateways, .shiftedOut,
        .freeCount]) State.reset t := by
  have heard := heardAt_desk_changes s supervisor
  have rule : loadAbandonRule supervisor [] (heardAt s (deskPort supervisor)) =
      (abandoned (heardAt s (deskPort supervisor)), done [] []) := onLoader_taken (heard.dev.trans loading) _
  obtain ⟨t, ht, replied, answered⟩ := configRequest_done .loadAbandon tag slot (by simp [maxBody]) rule rfl
  exact ⟨t, ht, replied, answered, ((abandoned_changes _).mono (by decide)).trans (answered.mono (by decide))⟩

/-- No horn sounds on a device that is not RUNNING. -/
theorem horn_of_stopped {c : Instr} {s t : State} (h : exec c s = .next t) (stopped : t.dev ≠ .running) (d : Desk) :
    t.horns[d] = false := by
  rw [horn_of_settled (exec_linesSettled h), State.hornLine, beq_false_of_ne stopped, Bool.false_and]

/-- Settles O52: LOAD START and CONFIG BLOCK write the staged tables; LOAD ABANDON leaves the state after power-on but
for what it keeps. -/
theorem loadingFillsTables : Obligations.LoadingFillsTables := by
  intro tag s slot p h
  refine ⟨fun unconfigured => loadStart_starts slot unconfigured tag,
    ?_, fun loading => ?_⟩
  · intro kb f1 f0 n bytes k loading kind some length short first fits
    obtain ⟨t, ht, staged, replied, within⟩ := configBlock_writes slot loading kind some length short fits tag
    refine ⟨t, ht, ?_, fun j hj => ?_, fun i hi => ?_, fun l hl => ?_, replied, within⟩ <;> rw [staged]
    · exact write_present _ _ _ _
    · rw [write_entry, chunks_length, if_pos (by omega), Nat.add_sub_cancel_left, chunks_getElem? _ _ _ hj]
    · rw [write_entry, chunks_length, if_neg (by omega)]
    · exact write_others _ hl _ _
  · obtain ⟨t, ht, replied, answered, within⟩ := loadAbandon_abandons slot loading tag
    have heard := heardAt_desk_changes s supervisor
    have dev : t.dev = .unconfigured := within.dev
    have gateway : ∀ g, t.gateway g = { h.gateway g with role := .none, refresh := false } := fun g =>
      (answered.at_gateway g).trans (abandoned_gateway h g)
    refine ⟨t, ht, dev, fun k => ?_, within.points, within.channels, fun a => (within.at_area a).trans (reset_area a),
      fun i => (within.at_record i).trans (reset_record i), fun d => ⟨(within.at_queue d).trans (reset_queue d),
        (within.at_desk d).trans (reset_desk d), horn_of_stopped ht (by rw [dev]; decide) d⟩, fun g => ?_, gateway,
      answered.elapsed.trans heard.elapsed, answered.refCycles.trans heard.refCycles,
      answered.offset.trans heard.offset, within.serial, answered.journal, answered.pending.trans heard.pending,
      answered.shiftedOut.trans heard.shiftedOut, answered.freeCount.trans heard.freeCount, replied, within⟩
    · rw [within.staged]
      exact empty_present k
    · rw [gateway, heard.at_gateway]
      exact ⟨rfl, rfl, rfl⟩

end Sys2Proof.Proofs
end

/-! PROOFS. RESTART: the journal entries and the notices of the records it frees (spec/12, R180; spec/09, R163). -/

section
namespace Sys2Proof.Proofs
open Machine

/-! ## The entries -/

theorem append_room {j : Journal} (room : j.entries.length < 256) (e : JournalEntry) :
    j.append e = { j with entries := j.entries ++ [e] } := if_pos room

/-- The journal has grown by entries of records that ended, and by nothing else. -/
def GrownByEnds (j k : Journal) (n : Nat) : Prop :=
  ∃ new, k.entries = j.entries ++ new ∧ new.length = n ∧ (∀ f ∈ new, f.kind = .handoverEnd) ∧ k.gap = j.gap

theorem GrownByEnds.refl (j : Journal) : GrownByEnds j j 0 :=
  ⟨[], (List.append_nil _).symm, rfl, fun _ h => absurd h List.not_mem_nil, rfl⟩

theorem GrownByEnds.trans {j k l : Journal} {m n : Nat} (h : GrownByEnds j k m) (h' : GrownByEnds k l n) :
    GrownByEnds j l (m + n) := by
  obtain ⟨a, ha, la, ka, ga⟩ := h
  obtain ⟨b, hb, lb, kb, gb⟩ := h'
  refine ⟨a ++ b, by rw [hb, ha, List.append_assoc], by rw [List.length_append, la, lb], fun f hf => ?_, gb.trans ga⟩
  exact (List.mem_append.1 hf).elim (ka f) (kb f)

section
variable {old s : State}

theorem restartedEntry_changes (old : State) (p : Port) (b : Badge) (s : State) (i : RecordIdx) :
    OnlyChanges [.journal] s (restartedEntry old p b s i) := by
  unfold restartedEntry
  split
  · exact enter_changes _ _ _
  · exact .refl s

theorem restartedEntries_changes (old : State) (p : Port) (b : Badge) (l : List RecordIdx) (s : State) :
    OnlyChanges [.journal] s (l.foldl (restartedEntry old p b) s) :=
  .foldl (fun t i => restartedEntry_changes old p b t i) l s

theorem restartedEntry_grows (running : s.dev = .running) (room : s.journal.entries.length < 256) (p : Port)
    (b : Badge) (i : RecordIdx) :
    GrownByEnds s.journal (restartedEntry old p b s i).journal (if (old.record i).isSome then 1 else 0) := by
  unfold restartedEntry
  cases old.record i with
  | none => exact .refl _
  | some r =>
    dsimp only
    rw [handoverEndEntry, enter_journal _ _ _ running, append_room room]
    refine ⟨_, rfl, rfl, fun f hf => ?_, rfl⟩
    rw [List.mem_singleton.1 hf]

/-- Each live record makes one entry (R163). -/
theorem restartedEntries_grow (l : List RecordIdx) (running : s.dev = .running)
    (room : s.journal.entries.length + l.length ≤ 256) (p : Port) (b : Badge) :
    GrownByEnds s.journal (l.foldl (restartedEntry old p b) s).journal (l.filterMap old.record).length := by
  induction l generalizing s with
  | nil => exact .refl _
  | cons i rest ih =>
    rw [List.length_cons] at room
    have first := restartedEntry_grows (old := old) running (by omega) p b i
    have kept := restartedEntry_changes old p b s i
    have length : (restartedEntry old p b s i).journal.entries.length ≤ s.journal.entries.length + 1 := by
      obtain ⟨new, entries, count, _⟩ := first
      rw [entries, List.length_append, count]
      split <;> omega
    have others := ih (s := restartedEntry old p b s i) (kept.dev.trans running) (by omega)
    have all := first.trans others
    rw [List.foldl_cons]
    cases hr : old.record i with
    | none =>
      rw [hr] at all
      rw [List.filterMap_cons_none hr]
      simpa using all
    | some r =>
      rw [hr] at all
      rw [List.filterMap_cons_some hr, List.length_cons, Nat.add_comm]
      exact all

theorem liveRecords_eq (s : State) : s.liveRecords = allRecords.filterMap s.record := by
  have listed : s.records.toList = allRecords.map s.record := by
    apply List.ext_getElem
    · simp [allRecords]
    · intro n h _
      have each : ∀ i : RecordIdx, allRecords[i.val]? = some i := by decide
      have here := each ⟨n, by simpa using h⟩
      obtain ⟨bound, at_n⟩ := List.getElem?_eq_some_iff.1 here
      simp only [List.getElem_map, State.record]
      rw [show allRecords[n] = ⟨n, by simpa using h⟩ from at_n]
      rfl
  rw [State.liveRecords, listed, List.filterMap_map]
  rfl

/-! ## The notices -/

/-- The notice of a record that RESTART frees, where it goes to a desk (R163, R95). -/
def endTold (old : State) (d : Desk) (i : RecordIdx) : Option Notice :=
  (old.record i).bind (fun r =>
    if r.names d = true ∨ d = supervisor then some { cls := 2, body := .handover (r.endBody i .restarted) } else none)

theorem restartedNotice_changes (old s : State) (i : RecordIdx) :
    OnlyChanges [.queues] s (restartedNotice old s i) := by
  unfold restartedNotice
  split
  · exact handoverNotice_changes _ _ _
  · exact .refl s

theorem restartedNotices_changes (old : State) (l : List RecordIdx) (s : State) :
    OnlyChanges [.queues] s (l.foldl (restartedNotice old) s) :=
  .foldl (fun t i => restartedNotice_changes old t i) l s

/-- A notice at the queue of a desk. -/
def tell (s : State) (d : Desk) (q : Queue) (n : Notice) : Queue :=
  if s.enabled d = true then
    if s.linkGood (deskPort d) = true then q.push (queueCapacity d) n else { q with resync := true }
  else q

theorem restartedNotice_queue (running : s.dev = .running) (i : RecordIdx) (d : Desk) :
    (restartedNotice old s i).queue d =
      match endTold old d i with
      | some n => tell s d (s.queue d) n
      | none => s.queue d := by
  unfold restartedNotice endTold
  cases old.record i with
  | none => rfl
  | some r =>
    dsimp only
    rw [handoverNotice, deliver_queue running, Option.bind_some]
    by_cases named : r.names d = true ∨ d = supervisor
    · have included : (r.names d || d == supervisor) = true := by simpa using named
      rw [if_pos named, included, Bool.true_and]
      rfl
    · have excluded : (r.names d || d == supervisor) = false := by simpa using named
      rw [if_neg named, excluded, Bool.false_and]
      rfl

theorem tell_congr {s t : State} (h : OnlyChanges [.queues] s t) (d : Desk) : tell t d = tell s d := by
  funext q n
  have good : t.linkGood (deskPort d) = s.linkGood (deskPort d) := by simp only [State.linkGood, h.at_port]
  rw [tell, tell, enabled_congr h.dev h.portCfg, good]

/-- A desk's queue takes the notices of the freed records in their order. -/
theorem restartedNotices_queue (l : List RecordIdx) (running : s.dev = .running) (d : Desk) :
    (l.foldl (restartedNotice old) s).queue d = (l.filterMap (endTold old d)).foldl (tell s d) (s.queue d) := by
  induction l generalizing s with
  | nil => rfl
  | cons i rest ih =>
    have kept := restartedNotice_changes old s i
    have first := restartedNotice_queue (old := old) running i d
    rw [List.foldl_cons, ih (kept.dev.trans running), tell_congr kept]
    cases hn : endTold old d i with
    | none =>
      rw [hn] at first
      rw [first, List.filterMap_cons_none hn]
    | some n =>
      rw [hn] at first
      rw [first, List.filterMap_cons_some hn, List.foldl_cons]

theorem endTold_handover {d : Desk} {i : RecordIdx} {n : Notice} (h : endTold old d i = some n) :
    n.cls = 2 ∧ n.point? = none := by
  obtain ⟨r, _, hr⟩ := Option.bind_eq_some_iff.1 h
  split at hr
  · cases hr
    exact ⟨rfl, rfl⟩
  · cases hr

end

/-! ## Queues under notices of one class and of no point -/

theorem insertByClass_last {n : Notice} {l : List Notice} (h : ∀ e ∈ l, e.cls ≤ n.cls) :
    insertByClass n l = l ++ [n] := by
  induction l with
  | nil => rfl
  | cons e rest ih =>
    obtain ⟨first, others⟩ := List.forall_mem_cons.1 h
    rw [insertByClass, if_pos first, ih others]
    rfl

theorem push_handover {c : Nat} {l : List Notice} {n : Notice} (room : l.length < c) (pointless : n.point? = none)
    (classes : ∀ e ∈ l, e.cls ≤ n.cls) : Queue.push c ⟨l, false⟩ n = ⟨l ++ [n], false⟩ := by
  rw [push_room (fun f _ => by simp [sameSubject, pointless]) room, insertByClass_last classes]

theorem push_handovers {c : Nat} (ns l : List Notice) (room : l.length + ns.length ≤ c)
    (handovers : ∀ n ∈ ns, n.cls = 2 ∧ n.point? = none) (classes : ∀ e ∈ l, e.cls ≤ 2) :
    ns.foldl (Queue.push c) ⟨l, false⟩ = ⟨l ++ ns, false⟩ := by
  induction ns generalizing l with
  | nil => rw [List.append_nil]; rfl
  | cons n rest ih =>
    obtain ⟨⟨cls, pointless⟩, others⟩ := List.forall_mem_cons.1 handovers
    rw [List.length_cons] at room
    rw [List.foldl_cons, push_handover (by omega) pointless (by rw [cls]; exact classes),
      ih (l ++ [n]) (by rw [List.length_append, List.length_singleton]; omega) others ?_, List.append_assoc]
    · rfl
    · intro e he
      rcases List.mem_append.1 he with he | he
      · exact classes e he
      · rw [List.mem_singleton.1 he, cls]

theorem silent_handovers (ns : List Notice) (q : Queue) :
    ns.foldl (fun q _ => { q with resync := true }) q = { q with resync := q.resync || !ns.isEmpty } := by
  cases ns with
  | nil => simp
  | cons n rest =>
    have all : ∀ l : List Notice, l.foldl (fun q _ => { q with resync := true }) { q with resync := true } =
        { q with resync := true } := fun l => by
      induction l with
      | nil => rfl
      | cons _ _ ih => exact ih
    rw [List.foldl_cons, all]
    simp

theorem queueCapacity_ge (d : Desk) : 64 ≤ queueCapacity d := by
  unfold queueCapacity
  split <;> decide

/-- An empty queue after the notices of the freed records, by the port's state (R96, R163). -/
theorem restartedNotices_told {old s : State} (running : s.dev = .running) {d : Desk} (empty : s.queue d = .empty) :
    (s.enabled d = false → (allRecords.foldl (restartedNotice old) s).queue d = .empty) ∧
    (s.enabled d = true → s.linkGood (deskPort d) = true → (allRecords.foldl (restartedNotice old) s).queue d =
      { entries := allRecords.filterMap (endTold old d), resync := false }) ∧
    (s.enabled d = true → s.linkGood (deskPort d) = false → (allRecords.foldl (restartedNotice old) s).queue d =
      { entries := [], resync := !(allRecords.filterMap (endTold old d)).isEmpty }) := by
  rw [restartedNotices_queue allRecords running, empty]
  have handovers : ∀ n ∈ allRecords.filterMap (endTold old d), n.cls = 2 ∧ n.point? = none := fun n hn => by
    obtain ⟨i, _, hi⟩ := List.mem_filterMap.1 hn
    exact endTold_handover hi
  have few : (allRecords.filterMap (endTold old d)).length ≤ 8 := List.length_filterMap_le _ _
  have capacity := queueCapacity_ge d
  refine ⟨fun disabled => ?_, fun enabled good => ?_, fun enabled silent => ?_⟩
  · have deaf : tell s d = fun q _ => q := by
      funext q n
      rw [tell, if_neg (by rw [disabled]; decide)]
    rw [deaf]
    exact List.foldl_fixed _
  · have push : tell s d = Queue.push (queueCapacity d) := by
      funext q n
      rw [tell, if_pos enabled, if_pos good]
    rw [push]
    exact push_handovers _ [] (by rw [List.length_nil]; omega) handovers (by simp)
  · have mark : tell s d = fun q _ => { q with resync := true } := by
      funext q n
      rw [tell, if_pos enabled, if_neg (by rw [silent]; decide)]
    rw [mark]
    exact silent_handovers _ _

end Sys2Proof.Proofs
end

/-! PROOFS. RESTART and RESTART TO LOAD (spec/12, R180, R181). -/

section
namespace Sys2Proof.Proofs
open Machine

/-! ## The clearing -/

def clearedFields : List Field :=
  [.channels, .points, .shelf, .groups, .loads, .loadExpiry, .sweep, .queues, .marks, .journal, .desks, .map,
   .records, .ports]

theorem cleared_changes (s : State) : OnlyChanges clearedFields s (cleared s) := by
  intro f hf
  cases f <;> first | (simp [clearedFields] at hf; done) | rfl

theorem cleared_channel (s : State) (c : Nat) :
    (cleared s).channel c = (s.channel c).map (fun q => Channel.fresh q.kind) :=
  tableGet_mapValues s.channels (fun q => Channel.fresh q.kind) c

theorem cleared_load (s : State) (a : Area) : (cleared s).load a = .quiet := by
  simp [State.load, cleared]

theorem cleared_record (s : State) (i : RecordIdx) : (cleared s).record i = none := by
  simp [State.record, cleared]

theorem cleared_desk (s : State) (d : Desk) : (cleared s).desk d = .fresh ∧ (cleared s).mark d = s.serial := by
  simp [State.desk, State.mark, cleared]

theorem cleared_queue (s : State) (d : Desk) : (cleared s).queue d = .empty := by
  simp [State.queue, cleared]

theorem cleared_area (s : State) (a : Area) : (cleared s).area a = (s.area a).map AreaRecord.restarted := by
  simp [State.area, cleared]

theorem cleared_port (s : State) (p : Port) : (cleared s).port p = { s.port p with slot := none, overrun := false } := by
  simp [State.port, cleared]

theorem cleared_linkGood (s : State) (p : Port) : (cleared s).linkGood p = s.linkGood p := by
  rw [State.linkGood, cleared_port]
  rfl

/-! ## The restart -/

/-- The entry of a RESTART. -/
def restartFields (s : State) (d : Desk) (b : Badge) : EntryFields :=
  { port := some (deskPort d), badge := some b, detail := detail16 1#8 0#8 (BitVec.ofNat 16 s.journal.entries.length) }

/-- The entries are made: the restart's, and one for each live record. -/
def restartEntered (s : State) (d : Desk) (b : Badge) : State :=
  allRecords.foldl (restartedEntry s (deskPort d) b) ((cleared s).enter .restart (restartFields s d b))

/-- The notices of the freed records are sent. -/
def restartTold (s : State) (d : Desk) (b : Badge) : State :=
  allRecords.foldl (restartedNotice s) (restartEntered s d b)

theorem restartTaken_eq (s : State) (d : Desk) (x : Session) : restartTaken s d x =
    (refreshPrimary (restartTold s d x.badge),
      done [] (num16 s.journal.entries.length ++ num16 s.liveRecords.length)) := rfl

theorem restartEntered_changes (s : State) (d : Desk) (b : Badge) :
    OnlyChanges [.journal] (cleared s) (restartEntered s d b) :=
  (enter_changes _ _ _).trans (restartedEntries_changes _ _ _ _ _)

theorem restartTold_changes (s : State) (d : Desk) (b : Badge) :
    OnlyChanges [.queues] (restartEntered s d b) (restartTold s d b) := restartedNotices_changes _ _ _

theorem refreshPrimary_changes (s : State) : OnlyChanges [.gateways] s (refreshPrimary s) := by
  unfold refreshPrimary
  split
  · exact setGateway_changes _ _ _
  · exact .refl s

theorem restart_changes (s : State) (d : Desk) (b : Badge) :
    OnlyChanges [.journal, .queues, .gateways] (cleared s) (refreshPrimary (restartTold s d b)) :=
  ((restartEntered_changes s d b).mono (by decide)).trans
    (((restartTold_changes s d b).mono (by decide)).trans ((refreshPrimary_changes _).mono (by decide)))

/-- The journal after the restart's entries: cleared but for them (R180). -/
theorem restartEntered_journal {s : State} (running : s.dev = .running) (d : Desk) (b : Badge) :
    (restartEntered s d b).journal.gap = min 65535 (s.journal.gap + s.journal.entries.length) ∧
    ∃ e rest, (restartEntered s d b).journal.entries = e :: rest ∧ e.kind = .restart ∧ e.port = some (deskPort d) ∧
      e.badge = some b ∧ rest.length = s.liveRecords.length ∧ ∀ f ∈ rest, f.kind = .handoverEnd := by
  have first : ((cleared s).enter .restart (restartFields s d b)).journal = _ := enter_journal _ _ _ running
  have kept := enter_changes (cleared s) .restart (restartFields s d b)
  rw [append_room (by simp [cleared])] at first
  obtain ⟨new, entries, length, kinds, gap⟩ := restartedEntries_grow (old := s)
    (s := (cleared s).enter .restart (restartFields s d b)) allRecords (kept.dev.trans running)
    (by rw [first]; simp [cleared, allRecords]) (deskPort d) b
  rw [first] at entries gap
  exact ⟨gap, _, new, entries, rfl, rfl, rfl, by rw [length, liveRecords_eq], kinds⟩

theorem refreshPrimary_gateway (s : State) (g : Gateway) :
    ((refreshPrimary s).gateway g).role = (s.gateway g).role ∧
    ((refreshPrimary s).gateway g).health = (s.gateway g).health ∧
    (s.primary = some g → ((refreshPrimary s).gateway g).refresh = true) := by
  unfold refreshPrimary
  cases hp : s.primary with
  | none => exact ⟨rfl, rfl, fun h => absurd h (by simp)⟩
  | some h =>
    dsimp only
    rw [setGateway_at]
    split
    · rename_i e
      exact ⟨by rw [e], by rw [e], fun _ => rfl⟩
    · rename_i e
      exact ⟨rfl, rfl, fun k => absurd (Option.some.inj k).symm e⟩

theorem restarted_silent (s : State) (d : Desk) (n : Word32) (p : Point) :
    s.soundsSupervisor (p.restarted n) = false ∧ s.soundsConsole d (p.restarted n) = false := by
  have state : (p.restarted n).state = .normal := rfl
  have escalated : (p.restarted n).escalated = false := rfl
  rw [State.soundsSupervisor, State.soundsConsole, state, escalated]
  exact ⟨by simp, by simp⟩

/-- No restarted point sounds a horn. -/
theorem horn_of_restarted {s : State} {n : Word32} {l : List (Nat × Point)}
    (points : s.points = l.map (fun e => (e.1, e.2.restarted n))) (d : Desk) : s.hornLine d = false := by
  have supervisors : s.points.any (fun e => s.soundsSupervisor e.2) = false := by
    rw [points, List.any_map, List.any_eq_false]
    exact fun e _ => Bool.eq_false_iff.1 (restarted_silent _ 0 _ _).1
  have consoles : s.points.any (fun e => s.soundsConsole d e.2) = false := by
    rw [points, List.any_map, List.any_eq_false]
    exact fun e _ => Bool.eq_false_iff.1 (restarted_silent _ _ _ _).2
  rw [State.hornLine, supervisors, consoles]
  simp

section
variable {s : State} {x : Session}

theorem onEngineer_acting (sup : Supervisor s x .engineer) (k : State → Session → State × Reply) :
    onEngineer (heardAt s (deskPort supervisor)) supervisor [] k =
      k (actingAt s supervisor) (s.touched supervisor x) := by
  simp only [onEngineer, withSession_acting sup.operator.session, consoleDesk_supervises sup, Bool.not_true,
    Bool.false_eq_true, if_false]

theorem restart_taken (sup : Supervisor s x .engineer) (tag : Byte) :
    ∃ t, exec (.restart (deskPort supervisor) tag []) s = .next t ∧
      Replied (cleared (actingAt s supervisor)) t (deskPort supervisor) .restart tag
        (done [] (num16 (actingAt s supervisor).journal.entries.length ++
          num16 (actingAt s supervisor).liveRecords.length)) ∧
      OnlyChanges answering (refreshPrimary (restartTold (actingAt s supervisor) supervisor x.badge)) t := by
  have rule : restartRule supervisor [] (heardAt s (deskPort supervisor)) =
      (refreshPrimary (restartTold (actingAt s supervisor) supervisor x.badge),
        done [] (num16 (actingAt s supervisor).journal.entries.length ++
          num16 (actingAt s supervisor).liveRecords.length)) :=
    (onEngineer_acting sup _).trans (restartTaken_eq _ _ _)
  have made := restart_changes (actingAt s supervisor) supervisor x.badge
  obtain ⟨t, ht, replied, _, answered⟩ := request_done sup.operator.taking .restart tag (by simp [maxBody]) false
    restartRule rule made made.ports
  exact ⟨t, ht, replied, answered⟩

end

/-- The port that asked and the others after a reply. -/
theorem replied_port {s t : State} {p : Port} {k : Kind} {tag : Byte} {r : Reply} (h : Replied s t p k tag r) :
    t.port p = { s.port p with slot := some { kind := k.code, tag := tag, reply := r } } ∧
    ∀ q, q ≠ p → t.port q = s.port q := by
  refine ⟨?_, fun q hq => ?_⟩
  · rw [State.port, h]
    simp [State.port]
  · have apart : p.val ≠ q.val := fun e => hq (Fin.ext e.symm)
    rw [State.port, h]
    simp [State.port, apart]

/-- The queues after the restart's notices. -/
theorem restartTold_queue {s : State} (running : s.dev = .running) (d : Desk) (b : Badge) (e : Desk) :
    (s.enabled e = false → (restartTold s d b).queue e = .empty) ∧
    (s.enabled e = true → s.linkGood (deskPort e) = true → (restartTold s d b).queue e =
      { entries := allRecords.filterMap (endTold s e), resync := false }) ∧
    (s.enabled e = true → s.linkGood (deskPort e) = false → (restartTold s d b).queue e =
      { entries := [], resync := !(allRecords.filterMap (endTold s e)).isEmpty }) := by
  have made := restartEntered_changes s d b
  have clear := cleared_changes s
  have link : (restartEntered s d b).linkGood (deskPort e) = s.linkGood (deskPort e) := by
    rw [← cleared_linkGood s, State.linkGood, State.linkGood, made.at_port]
  have enabled : (restartEntered s d b).enabled e = s.enabled e :=
    enabled_congr (made.dev.trans clear.dev) (made.portCfg.trans clear.portCfg) e
  have told := restartedNotices_told (old := s) ((made.dev.trans clear.dev).trans running)
    ((made.at_queue e).trans (cleared_queue s e))
  rw [link, enabled] at told
  exact told

/-! ## RESTART TO LOAD -/

theorem restartedToLoad_changes (s : State) :
    OnlyChanges [.dev, .elapsed, .refCycles, .offset, .pending, .freeCount] State.reset (restartedToLoad s) := by
  intro f hf
  cases f <;> first | rfl | simp at hf

theorem reset_port (p : Port) : State.reset.port p = .fresh := by
  simp [State.port, State.reset]

theorem reset_gateway (g : Gateway) : State.reset.gateway g = .fresh := by
  simp [State.gateway, State.reset]

/-- The attention lines while one port holds an answer and nothing else waits. -/
theorem attention_of_answer {t : State} {p : Port} {k : Kind} {tag : Byte} {r : Reply}
    (replied : Replied State.reset t p k tag r) (queues : t.queues = State.reset.queues)
    (gateways : t.gateways = State.reset.gateways) (desk : ∃ d, p = deskPort d) (q : Port) :
    t.attentionLine q = decide (q = p) := by
  obtain ⟨here, others⟩ := replied_port replied
  have slots : (t.port q).slot.isSome = decide (q = p) := by
    by_cases e : q = p
    · rw [e, here]
      exact (decide_eq_true rfl).symm
    · rw [others q e, reset_port]
      exact (decide_eq_false e).symm
  rcases port_cases q with ⟨d, rfl⟩ | ⟨g, rfl⟩
  · have empty : t.queue d = .empty := by rw [State.queue, queues]; exact reset_queue d
    rw [State.attentionLine, splitPort_deskPort]
    dsimp only
    rw [State.deskAttention, slots, empty]
    simp [Queue.empty]
  · have fresh : t.gateway g = .fresh := by rw [State.gateway, gateways]; exact reset_gateway g
    obtain ⟨d, rfl⟩ := desk
    rw [State.attentionLine, splitPort_gatewayPort]
    dsimp only
    rw [State.gatewayAttention, slots, fresh, decide_eq_false (gatewayPort_ne_deskPort g d)]
    rfl

theorem restartToLoad_loads {s : State} {x : Session} (sup : Supervisor s x .engineer) (tag : Byte) :
    ∃ t, exec (.restartToLoad (deskPort supervisor) tag []) s = .next t ∧ t.dev = .loading ∧ t.elapsed = s.elapsed ∧
      t.refCycles = s.refCycles ∧ t.offset = s.offset ∧ t.pending = s.pending ∧
      Replied State.reset t (deskPort supervisor) .restartToLoad tag (done [] []) ∧
      (∀ d : Desk, t.horns[d] = false) ∧ (∀ q : Port, t.attention[q] = decide (q = deskPort supervisor)) ∧
      OnlyChanges (answering ++ [.dev, .elapsed, .refCycles, .offset, .pending, .freeCount]) State.reset t := by
  have acting := actingAt_desk_changes s supervisor
  have rule : restartToLoadRule supervisor [] (heardAt s (deskPort supervisor)) =
      (restartedToLoad (actingAt s supervisor), done [] []) := onEngineer_acting sup _
  obtain ⟨t, ht, replied, within, answered⟩ := request_done sup.operator.taking .restartToLoad tag (by simp [maxBody])
    false restartToLoadRule rule (restartedToLoad_changes (actingAt s supervisor)) rfl
  have run : exec (.restartToLoad (deskPort supervisor) tag []) s = .next t := ht
  have dev : t.dev = .loading := answered.dev.trans rfl
  refine ⟨t, ht, dev, answered.elapsed.trans acting.elapsed, answered.refCycles.trans acting.refCycles,
    answered.offset.trans acting.offset, answered.pending.trans acting.pending, replied,
    horn_of_stopped run (by rw [dev]; decide), fun q => ?_, within⟩
  rw [attention_of_settled (exec_linesSettled run)]
  exact attention_of_answer replied within.queues within.gateways ⟨supervisor, rfl⟩ q

end Sys2Proof.Proofs
end

/-! PROOFS. RESTART: what it leaves, put together (spec/12, R180). -/

section
namespace Sys2Proof.Proofs
open Machine

/-- What a RESTART leaves of the block, apart from the journal, the queues, the gateways and the lines. -/
structure Restarted (s s1 t : State) : Prop where
  point : ∀ i, t.point i = (s.point i).map (fun q =>
    { Point.fresh q.cfg with occ := q.occ, raiseSerial := s.serial, inService := q.inService })
  channel : ∀ c, t.channel c = (s.channel c).map (fun q =>
    { kind := q.kind, value := 0, quality := .never, lastReport := none })
  shelf : t.shelf = []
  load : ∀ a, t.load a = .quiet
  record : ∀ i, t.record i = none
  group : ∀ g, t.group g = (s.group g).map (fun q => { q with state := .isOpen, expiry := none, owed := [] })
  desk : ∀ d : Desk, t.desk d = .fresh ∧ t.mark d = s.serial
  area : ∀ a, t.area a = (s1.area a).map (fun q => { q with attendance := .unattended, link := none })
  loadExpiry : t.loadExpiry = some (after s.elapsed (10 * s.param 5))
  sweep : t.sweep = { running := true, passStart := s.elapsed, period := 10 * s.param 21
                      size := s.points.length, position := 0, firstPass := true }

theorem cleared_restarted {s s1 : State}
    (acting : OnlyChanges [.ports, .desks, .map, .records, .queues, .journal] s s1) :
    Restarted s s1 (cleared s1) where
  point i := by rw [cleared_point, acting.at_point, acting.serial]; rfl
  channel c := by rw [cleared_channel, acting.at_channel]; rfl
  shelf := rfl
  load := cleared_load s1
  record := cleared_record s1
  group g := by rw [cleared_group, acting.at_group]; rfl
  desk d := by rw [← acting.serial]; exact cleared_desk s1 d
  area a := cleared_area s1 a
  loadExpiry := by
    rw [← acting.elapsed, ← acting.at_param 5]
    rfl
  sweep := by
    rw [← acting.elapsed, ← acting.at_param 21, ← acting.points]
    rfl

theorem Restarted.of_changes {s s1 t u : State} (h : Restarted s s1 t)
    (k : OnlyChanges (answering ++ [.journal, .queues, .gateways]) t u) : Restarted s s1 u where
  point i := (k.at_point i).trans (h.point i)
  channel c := (k.at_channel c).trans (h.channel c)
  shelf := k.shelf.trans h.shelf
  load a := (k.at_load a).trans (h.load a)
  record i := (k.at_record i).trans (h.record i)
  group g := (k.at_group g).trans (h.group g)
  desk d := ⟨(k.at_desk d).trans (h.desk d).1, (k.at_mark d).trans (h.desk d).2⟩
  area a := (k.at_area a).trans (h.area a)
  loadExpiry := k.loadExpiry.trans h.loadExpiry
  sweep := k.sweep.trans h.sweep

section
variable {s s1 : State}

theorem restart_gateways (acting : OnlyChanges [.ports, .desks, .map, .records, .queues, .journal] s s1) (d : Desk)
    (b : Badge) (g : Gateway) :
    ((refreshPrimary (restartTold s1 d b)).gateway g).role = (s.gateway g).role ∧
    ((refreshPrimary (restartTold s1 d b)).gateway g).health = (s.gateway g).health ∧
    (s.primary = some g → ((refreshPrimary (restartTold s1 d b)).gateway g).refresh = true) := by
  have made : OnlyChanges [.journal, .queues] (cleared s1) (restartTold s1 d b) :=
    ((restartEntered_changes s1 d b).mono (by decide)).trans ((restartTold_changes s1 d b).mono (by decide))
  have gateways : ∀ k, (restartTold s1 d b).gateway k = s.gateway k := fun k =>
    (made.at_gateway k).trans (((cleared_changes s1).at_gateway k).trans (acting.at_gateway k))
  have primary : (restartTold s1 d b).primary = s.primary := by simp only [State.primary, gateways]
  have refreshed := refreshPrimary_gateway (restartTold s1 d b) g
  rw [gateways, primary] at refreshed
  exact refreshed

/-- The queues in the terms of the freed records (R96, R97, R163). -/
theorem restart_queues (acting : OnlyChanges [.ports, .desks, .map, .records, .queues, .journal] s s1)
    (running : s.dev = .running) (b : Badge) (d : Desk) :
    (s.enabled d = false → (refreshPrimary (restartTold s1 supervisor b)).queue d = .empty) ∧
    (s.enabled d = true → (s1.port (deskPort d)).link = .good →
      (refreshPrimary (restartTold s1 supervisor b)).queue d =
        { entries := allRecords.filterMap (endTold s1 d), resync := false }) ∧
    (s.enabled d = true → (s1.port (deskPort d)).link = .silent →
      (refreshPrimary (restartTold s1 supervisor b)).queue d =
        { entries := [], resync := !(allRecords.filterMap (endTold s1 d)).isEmpty }) := by
  obtain ⟨disabled, good, silent⟩ := restartTold_queue (acting.dev.trans running) supervisor b d
  have enabled : s1.enabled d = s.enabled d := enabled_congr acting.dev acting.portCfg d
  rw [enabled] at disabled good silent
  rw [(refreshPrimary_changes _).at_queue]
  refine ⟨disabled, fun h link => good h ((linkGood_iff _ _).2 link), fun h link => silent h ?_⟩
  rw [Bool.eq_false_iff, Ne, linkGood_iff, link]
  decide

end

/-- A queue is empty when no record was live. -/
theorem queue_empty_of_none {s s1 t : State} {d : Desk} (none : ∀ i, s1.record i = none)
    (disabled : s.enabled d = false → t.queue d = .empty)
    (good : s.enabled d = true → (s1.port (deskPort d)).link = .good →
      t.queue d = { entries := allRecords.filterMap (endTold s1 d), resync := false })
    (silent : s.enabled d = true → (s1.port (deskPort d)).link = .silent →
      t.queue d = { entries := [], resync := !(allRecords.filterMap (endTold s1 d)).isEmpty }) :
    t.queue d = .empty := by
  have untold : allRecords.filterMap (endTold s1 d) = [] := by
    rw [List.filterMap_eq_nil_iff]
    intro i _
    rw [endTold, none]
    rfl
  rw [untold] at good silent
  cases enabled : s.enabled d with
  | false => exact disabled enabled
  | true =>
    cases link : (s1.port (deskPort d)).link with
    | good => exact good enabled link
    | silent => exact silent enabled link

theorem restart_restarts {s : State} {x : Session} (sup : Supervisor s x .engineer) (tag : Byte) :
    ∃ t, exec (.restart (deskPort supervisor) tag []) s = .next t ∧
      Restarted s (actingAt s supervisor) t ∧
      (∀ d : Desk, t.horns[d] = false) ∧
      Replied (cleared (actingAt s supervisor)) t (deskPort supervisor) .restart tag
        (done [] (num16 (actingAt s supervisor).journal.entries.length ++
          num16 (actingAt s supervisor).liveRecords.length)) ∧
      OnlyChanges answering (refreshPrimary (restartTold (actingAt s supervisor) supervisor x.badge)) t ∧
      OnlyChanges (answering ++ [.journal, .queues, .gateways]) (cleared (actingAt s supervisor)) t := by
  obtain ⟨t, ht, replied, answered⟩ := restart_taken sup tag
  have acting := actingAt_desk_changes s supervisor
  have rest : OnlyChanges (answering ++ [.journal, .queues, .gateways]) (cleared (actingAt s supervisor)) t :=
    ((restart_changes _ _ _).mono (by decide)).trans (answered.mono (by decide))
  refine ⟨t, ht, (cleared_restarted acting).of_changes rest, fun d => ?_, replied, answered, rest⟩
  rw [horn_of_settled (exec_linesSettled ht)]
  exact horn_of_restarted (n := (actingAt s supervisor).serial) (l := (actingAt s supervisor).points)
    (rest.points.trans rfl) d

/-- Settles O56: the clearing, the entries and notices of the freed records, and the REFRESH marker. -/
theorem restartsClear : Obligations.RestartsClear := by
  intro tag x s sup p s1
  refine ⟨?_, restartToLoad_loads sup tag⟩
  obtain ⟨t, ht, done, horns, replied, answered, rest⟩ := restart_restarts sup tag
  have acting : OnlyChanges _ s s1 := actingAt_desk_changes s supervisor
  have running : s.dev = .running := sup.operator.taking.running
  have clear : OnlyChanges clearedFields s1 (cleared s1) := cleared_changes s1
  obtain ⟨own, others⟩ := replied_port replied
  have journal : t.journal = (restartEntered s1 supervisor x.badge).journal :=
    answered.journal.trans ((refreshPrimary_changes _).journal.trans (restartTold_changes _ _ _).journal)
  obtain ⟨gap, entries⟩ := restartEntered_journal (acting.dev.trans running) supervisor x.badge
  have queues := fun d => restart_queues acting running x.badge d
  have queue : ∀ d, t.queue d = (refreshPrimary (restartTold s1 supervisor x.badge)).queue d := answered.at_queue
  have gateway : ∀ g, t.gateway g = (refreshPrimary (restartTold s1 supervisor x.badge)).gateway g :=
    answered.at_gateway
  simp only [← queue] at queues
  have gateways := fun g => restart_gateways acting supervisor x.badge g
  simp only [← gateway] at gateways
  refine ⟨t, ht, done.point, done.channel, done.shelf, done.load, done.record, done.group,
    fun d => ⟨(done.desk d).1, (done.desk d).2, horns d⟩, done.area, fun q hq => ?_, ?_, done.loadExpiry, done.sweep,
    by rw [journal]; exact gap, by rw [journal]; exact entries, fun g => ⟨(gateways g).1, (gateways g).2.1⟩,
    fun g => (gateways g).2.2, ⟨queues, fun none d => ?_⟩, (clear.mono (by decide)).trans (rest.mono (by decide))⟩
  · rw [others q hq, cleared_port]
  · rw [own, cleared_port]
    rfl
  · obtain ⟨disabled, good, silent⟩ := queues d
    exact queue_empty_of_none none disabled good silent

end Sys2Proof.Proofs
end

/-! PROOFS. EDIT PARAMETERS (spec/12, R179). -/

section
namespace Sys2Proof.Proofs
open Machine

/-! ## The numbered values, slot by slot -/

/-- The number of a slot (R176). -/
def slotNumber : Slot → Nat
  | .param n => n.val
  | .idle d => 32 + 2 * d.val
  | .absent d => 33 + 2 * d.val
  | .release g => 48 + g.val

/-- The value a slot holds; none for the release delay of a group that is not configured. -/
def slotValue (s : State) : Slot → Option Nat
  | .param n => some (s.param n)
  | .idle d => some s.portCfg[d].idleLimit
  | .absent d => some s.portCfg[d].absentLimit
  | .release g => (s.group g).map (·.delay)

theorem slotOf_slotNumber (slot : Slot) : slotOf (slotNumber slot) = some slot := by
  cases slot with
  | param n => exact dif_pos n.isLt
  | idle d =>
    have h : 32 + 2 * d.val < 46 := by omega
    show slotOf (32 + 2 * d.val) = _
    unfold slotOf
    rw [dif_neg (by omega), dif_pos ⟨by omega, h⟩, if_pos (by omega)]
    congr
    omega
  | absent d =>
    have h : 33 + 2 * d.val < 46 := by omega
    show slotOf (33 + 2 * d.val) = _
    unfold slotOf
    rw [dif_neg (by omega), dif_pos ⟨by omega, h⟩, if_neg (by omega)]
    congr
    omega
  | release g =>
    have h : 48 + g.val < 80 := by omega
    show slotOf (48 + g.val) = _
    unfold slotOf
    rw [dif_neg (by omega), dif_neg (by omega), dif_pos ⟨by omega, h⟩]
    congr
    omega

theorem slotNumber_of_slotOf {n : Nat} {slot : Slot} (h : slotOf n = some slot) : slotNumber slot = n := by
  unfold slotOf at h
  split at h
  · cases h
    rfl
  · split at h
    · split at h <;> cases h <;> simp only [slotNumber] <;> omega
    · split at h
      · cases h
        simp only [slotNumber]
        omega
      · cases h

theorem slotOf_eq_some {n : Nat} {slot : Slot} : slotOf n = some slot ↔ slotNumber slot = n :=
  ⟨slotNumber_of_slotOf, fun h => h ▸ slotOf_slotNumber slot⟩

theorem setSlot_portCfg (s : State) (slot : Slot) (v : Nat) (d : Desk) :
    (setSlot s slot v).portCfg[d] =
      if slot = .idle d then { s.portCfg[d] with idleLimit := v }
      else if slot = .absent d then { s.portCfg[d] with absentLimit := v }
      else s.portCfg[d] := by
  cases slot with
  | param n => simp [setSlot]
  | idle e =>
    by_cases h : e = d
    · subst h
      simp [setSlot]
    · have apart : e.val ≠ d.val := fun k => h (Fin.ext k)
      simp [setSlot, h, apart]
  | absent e =>
    by_cases h : e = d
    · subst h
      simp [setSlot]
    · have apart : e.val ≠ d.val := fun k => h (Fin.ext k)
      simp [setSlot, h, apart]
  | release g =>
    unfold setSlot
    dsimp only
    split <;> simp [State.setGroup]

theorem setSlot_group (s : State) (slot : Slot) (v : Nat) (g : GroupIdx) :
    (setSlot s slot v).group g =
      if slot = .release g then (s.group g).map (fun x => { x with delay := v }) else s.group g := by
  cases slot with
  | param n => simp [setSlot, State.group]
  | idle d => simp [setSlot, State.group]
  | absent d => simp [setSlot, State.group]
  | release h =>
    unfold setSlot
    dsimp only
    by_cases e : h = g
    · subst e
      cases hx : s.group h with
      | none => simp [hx]
      | some x => simp [setGroup_group]
    · cases hx : s.group h with
      | none => simp [e]
      | some x => simp [setGroup_group_ne _ _ (Ne.symm e), e]

theorem slotValue_setSlot (s : State) (slot other : Slot) (v : Nat) :
    slotValue (setSlot s slot v) other =
      if slot = other then (slotValue s other).map (fun _ => v) else slotValue s other := by
  cases other with
  | param n =>
    rw [slotValue, setSlot_param]
    split <;> rfl
  | idle d =>
    rw [slotValue, setSlot_portCfg]
    split
    · rfl
    · split <;> rfl
  | absent d =>
    rw [slotValue, setSlot_portCfg]
    by_cases idle : slot = .idle d
    · rw [if_pos idle, if_neg (by simp [idle])]
      rfl
    · rw [if_neg idle]
      split <;> rfl
  | release g =>
    rw [slotValue, setSlot_group]
    split
    · rw [Option.map_map, slotValue, Option.map_map]
      rfl
    · rfl

/-! ## The values stored -/

/-- One numbered value stored. -/
def storeOne (s : State) (e : Nat × Nat) : State :=
  match slotOf e.1 with
  | some slot => setSlot s slot e.2
  | none => s

theorem storeValues_eq (s : State) (vs : List (Nat × Nat)) : storeValues s vs = vs.foldl storeOne s := rfl

theorem slotValue_storeOne (s : State) (e : Nat × Nat) (slot : Slot) :
    slotValue (storeOne s e) slot =
      if slotNumber slot = e.1 then (slotValue s slot).map (fun _ => e.2) else slotValue s slot := by
  unfold storeOne
  cases hs : slotOf e.1 with
  | none =>
    refine (if_neg fun h => ?_).symm
    rw [slotOf_eq_some.2 h] at hs
    cases hs
  | some other =>
    dsimp only
    rw [slotValue_setSlot]
    by_cases same : other = slot
    · subst same
      rw [if_pos rfl, if_pos (slotNumber_of_slotOf hs)]
    · rw [if_neg same, if_neg fun h => same (Option.some.inj (hs.symm.trans (slotOf_eq_some.2 h)))]

theorem slotValue_kept {s : State} {first : Nat} {vs : List Nat} {slot : Slot}
    (h : slotNumber slot < first ∨ first + vs.length ≤ slotNumber slot) :
    slotValue (storeValues s (numbered first vs)) slot = slotValue s slot := by
  induction vs generalizing first s with
  | nil => rfl
  | cons v rest ih =>
    rw [List.length_cons] at h
    rw [numbered, storeValues_eq, List.foldl_cons, ← storeValues_eq, ih (by omega), slotValue_storeOne,
      if_neg (by dsimp only; omega)]

theorem slotValue_carried {s : State} {first j v : Nat} {vs : List Nat} {slot : Slot} (hv : vs[j]? = some v)
    (h : slotNumber slot = first + j) :
    slotValue (storeValues s (numbered first vs)) slot = (slotValue s slot).map (fun _ => v) := by
  induction vs generalizing first s j with
  | nil => cases hv
  | cons w rest ih =>
    rw [numbered, storeValues_eq, List.foldl_cons, ← storeValues_eq]
    cases j with
    | zero =>
      rw [slotValue_kept (by omega), slotValue_storeOne, if_pos (by exact h)]
      cases hv
      rfl
    | succ j =>
      rw [ih hv (by omega), slotValue_storeOne, if_neg (by dsimp only; omega)]

/-- Two states hold the same numbered values. -/
def SlotsSame (s t : State) : Prop := ∀ slot, slotValue t slot = slotValue s slot

theorem SlotsSame.storeValues {s t : State} (h : SlotsSame s t) (vs : List (Nat × Nat)) :
    SlotsSame (storeValues s vs) (storeValues t vs) := by
  induction vs generalizing s t with
  | nil => exact h
  | cons e rest ih =>
    refine ih (s := storeOne s e) (t := storeOne t e) fun slot => ?_
    rw [slotValue_storeOne, slotValue_storeOne, h slot]

theorem SlotsSame.param {s t : State} (h : SlotsSame s t) (n : Fin 29) : t.param n = s.param n :=
  Option.some.inj (h (.param n))

theorem SlotsSame.orderBroken {s t : State} (h : SlotsSame s t) (slot : Slot) :
    orderBroken t slot = orderBroken s slot := by
  have idle : ∀ d : Desk, t.portCfg[d].idleLimit = s.portCfg[d].idleLimit := fun d => Option.some.inj (h (.idle d))
  have absent : ∀ d : Desk, t.portCfg[d].absentLimit = s.portCfg[d].absentLimit := fun d =>
    Option.some.inj (h (.absent d))
  cases slot with
  | param n => simp only [Machine.orderBroken, h.param]
  | idle d => simp only [Machine.orderBroken, idle, absent]
  | absent d => simp only [Machine.orderBroken, idle, absent]
  | release g => rfl

theorem slotsSame_of_changes {T : List Field} {s t : State} (h : OnlyChanges T s t)
    (p : Field.params ∉ T := by decide) (c : Field.portCfg ∉ T := by decide) (g : Field.groups ∉ T := by decide) :
    SlotsSame s t := by
  intro slot
  cases slot with
  | param n => simp only [slotValue, State.param, h.params p]
  | idle d => simp only [slotValue, h.portCfg c]
  | absent d => simp only [slotValue, h.portCfg c]
  | release b => simp only [slotValue, State.group, h.groups g]

/-- The stored values leave what is not numbered in a PORTS entry. -/
theorem storeValues_ports (s : State) (vs : List (Nat × Nat)) (d : Desk) :
    (storeValues s vs).portCfg[d].enabled = s.portCfg[d].enabled ∧
    (storeValues s vs).portCfg[d].hornFloor = s.portCfg[d].hornFloor := by
  refine foldl_keeps (X := fun t => t.portCfg[d].enabled = s.portCfg[d].enabled ∧
    t.portCfg[d].hornFloor = s.portCfg[d].hornFloor) (step := storeOne) (fun t e h => ?_) vs ⟨rfl, rfl⟩
  unfold storeOne
  split
  · rw [setSlot_portCfg]
    split
    · exact h
    · split <;> exact h
  · exact h

/-- A group whose release delay is not carried stands. -/
theorem group_kept {s t : State} {g : GroupIdx}
    (apart : (t.group g).map (fun x => { x with delay := 0 }) = (s.group g).map (fun x => { x with delay := 0 }))
    (delay : slotValue t (.release g) = slotValue s (.release g)) : t.group g = s.group g := by
  simp only [slotValue] at delay
  cases ht : t.group g with
  | none =>
    rw [ht] at apart
    exact (Option.map_eq_none_iff.1 apart.symm).symm
  | some x =>
    cases hs : s.group g with
    | none => rw [ht, hs] at delay; cases delay
    | some y =>
      obtain ⟨head, members, state, dx, expiry, owed⟩ := x
      obtain ⟨head', members', state', dy, expiry', owed'⟩ := y
      rw [ht, hs] at apart delay
      simp_all

/-! ## The request -/

theorem values_length {bytes : List Byte} {vs : List Nat} (h : values bytes = some vs) :
    bytes.length = 4 * vs.length := by
  induction bytes using values.induct generalizing vs with
  | case1 => cases h; rfl
  | case2 a b c d rest ih =>
    rw [values, Option.map_eq_some_iff] at h
    obtain ⟨ws, hw, rfl⟩ := h
    simp only [List.length_cons, ih hw]
    omega
  | case3 l h1 h2 =>
    rw [values] at h
    · cases h
    · exact h1
    · exact h2

theorem editable_slotOf {s : State} {n : Nat} {slot : Slot} (h : s.editable n = some slot) : slotOf n = some slot := by
  cases hs : slotOf n with
  | none => simp [State.editable, hs] at h
  | some other =>
    cases other with
    | release g =>
      simp only [State.editable, hs] at h
      split at h
      · exact h
      · cases h
    | param m => simpa [State.editable, hs] using h
    | idle d => simpa [State.editable, hs] using h
    | absent d => simpa [State.editable, hs] using h

theorem editable_release {s : State} {n : Nat} {g : GroupIdx} (h : s.editable n = some (.release g)) :
    (s.group g).isSome = true := by
  have slot := editable_slotOf h
  rw [State.editable, slot] at h
  by_contra none
  simp [none] at h

end Sys2Proof.Proofs
end

/-! PROOFS. EDIT PARAMETERS: the request, and what it leaves (spec/12, R179). -/

section
namespace Sys2Proof.Proofs
open Machine

/-- The carried values pass the checks of R179. -/
def CarriedPass (s : State) (vs : List (Nat × Nat)) : Prop :=
  ∀ e ∈ vs, ∃ slot, s.editable e.1 = some slot ∧ inRange slot.range e.2 = true ∧
    orderBroken (storeValues s vs) slot = false

section
variable {s s1 : State} {vs : List (Nat × Nat)}

theorem CarriedPass.editable (h : CarriedPass s vs) : vs.any (fun e => (s.editable e.1).isNone) = false := by
  rw [List.any_eq_false]
  intro e he
  obtain ⟨slot, editable, _⟩ := h e he
  rw [editable]
  simp

theorem CarriedPass.inRange (h : CarriedPass s vs) :
    vs.find? (fun e => !(slotOf e.1).any (fun slot => inRange slot.range e.2)) = none := by
  rw [List.find?_eq_none]
  intro e he
  obtain ⟨slot, editable, range, _⟩ := h e he
  rw [editable_slotOf editable, Option.any_some, range]
  decide

/-- The orders are checked on a state with the same numbered values. -/
theorem CarriedPass.unbroken (h : CarriedPass s vs) (same : SlotsSame s s1) :
    vs.find? (fun e => (slotOf e.1).any (orderBroken (storeValues s1 vs))) = none := by
  rw [List.find?_eq_none]
  intro e he
  obtain ⟨slot, editable, _, order⟩ := h e he
  rw [editable_slotOf editable, Option.any_some, (same.storeValues vs).orderBroken, order]
  decide

end

/-- What the edit leaves of the numbered values: those stored. -/
theorem edited_of_stored (s : State) (vs : List (Nat × Nat)) :
    OnlyChanges [.loads, .map, .records, .queues, .journal] (storeValues s vs) (edited s vs) := by
  unfold edited
  split
  · exact .foldl (fun t a => (reevaluateArea_changes t a).mono (by decide)) _ _
  · exact .refl _

theorem edited_quiet {s : State} {vs : List (Nat × Nat)} (h6 : (storeValues s vs).param 6 = s.param 6)
    (h7 : (storeValues s vs).param 7 = s.param 7) (h8 : (storeValues s vs).param 8 = s.param 8)
    (h9 : (storeValues s vs).param 9 = s.param 9) : edited s vs = storeValues s vs :=
  if_neg (by simp [thresholdsChanged, h6, h7, h8, h9])

theorem editParameters_takes {s : State} {x : Session} (sup : Supervisor s x .engineer) {first count : Byte}
    {bytes : List Byte} {vs : List Nat} (parsed : values bytes = some vs) (length : vs.length = count.toNat)
    (any : 1 ≤ vs.length) (few : vs.length ≤ 16) (pass : CarriedPass s (numbered first.toNat vs)) (tag : Byte) :
    ∃ t, exec (.editParameters (deskPort supervisor) tag (first :: count :: bytes)) s = .next t ∧
      LastEntry t .edit
        { port := some (deskPort supervisor), badge := some x.badge, detail := detail4 first count 0#8 0#8 } ∧
      Replied (actingAt s supervisor) t (deskPort supervisor) .editParameters tag (done [] []) ∧
      OnlyChanges (answering ++ [.journal]) (edited (actingAt s supervisor) (numbered first.toNat vs)) t ∧
      OnlyChanges (answering ++ editFields) (actingAt s supervisor) t := by
  have heard := heardAt_desk_changes s supervisor
  have acting := actingAt_desk_changes s supervisor
  have running := actingAt_running (d := supervisor) sup.operator.taking.running
  have badge : (s.touched supervisor x).badge = x.badge := rfl
  have editable : (numbered first.toNat vs).any (fun e => ((heardAt s (deskPort supervisor)).editable e.1).isNone) =
      false := by
    have same : ∀ n, (heardAt s (deskPort supervisor)).editable n = s.editable n := fun n => by
      simp only [State.editable, heard.at_group]
    simp only [same]
    exact pass.editable
  have counted : ¬ (count.toNat = 0 ∨ 16 < count.toNat ∨ vs.length ≠ count.toNat) := by omega
  have rule : editParametersRule supervisor (first :: count :: bytes) (heardAt s (deskPort supervisor)) =
      ((edited (actingAt s supervisor) (numbered first.toNat vs)).enter .edit
        { port := some (deskPort supervisor), badge := some x.badge, detail := detail4 first count 0#8 0#8 },
        done [] []) := by
    simp only [editParametersRule, parsed, if_neg counted, editable, withSession_acting sup.operator.session,
      consoleDesk_supervises sup, Bool.not_true, Bool.false_eq_true, if_false, pass.inRange,
      pass.unbroken (slotsSame_of_changes acting), editParametersTaken, badge]
    rfl
  have made := edited_changes (actingAt s supervisor) (numbered first.toNat vs)
  generalize edited (actingAt s supervisor) (numbered first.toNat vs) = u at *
  have entered := enter_changes u .edit
    { port := some (deskPort supervisor), badge := some x.badge, detail := detail4 first count 0#8 0#8 }
  have all := made.trans (entered.mono (U := editFields) (by decide))
  obtain ⟨t, ht, replied, within, answered⟩ := request_done sup.operator.taking .editParameters tag
    (by simp only [List.length_cons, values_length parsed, maxBody]; omega) false editParametersRule rule all all.ports
  exact ⟨t, ht, answered.lastEntry (enter_last _ _ _ (made.dev.trans running)), replied,
    (entered.mono (by decide)).trans (answered.mono (by decide)), within⟩

theorem numbered_get {first j v : Nat} {vs : List Nat} (h : vs[j]? = some v) : (first + j, v) ∈ numbered first vs := by
  induction vs generalizing first j with
  | nil => cases h
  | cons w rest ih =>
    rw [numbered]
    cases j with
    | zero =>
      cases h
      exact List.mem_cons_self
    | succ j =>
      refine List.mem_cons_of_mem _ ?_
      rw [Nat.add_comm j 1, ← Nat.add_assoc]
      exact ih h

/-- The values a state holds are those stored over another. -/
structure Holds (s t : State) (first : Nat) (vs : List Nat) : Prop where
  carried : ∀ {j v : Nat} {slot : Slot}, vs[j]? = some v → slotNumber slot = first + j →
    slotValue t slot = (slotValue s slot).map (fun _ => v)
  kept : ∀ {slot : Slot}, slotNumber slot < first ∨ first + vs.length ≤ slotNumber slot →
    slotValue t slot = slotValue s slot
  ports : ∀ d : Desk, t.portCfg[d].enabled = s.portCfg[d].enabled ∧ t.portCfg[d].hornFloor = s.portCfg[d].hornFloor
  group : ∀ g, (t.group g).map (fun x => { x with delay := 0 }) = (s.group g).map (fun x => { x with delay := 0 })

theorem edited_holds {s s1 t : State} (first : Nat) (vs : List Nat)
    (acting : OnlyChanges [.ports, .desks, .map, .records, .queues, .journal] s s1)
    (rest : OnlyChanges (answering ++ [.loads, .map, .records, .queues, .journal])
      (storeValues s1 (numbered first vs)) t) : Holds s t first vs where
  carried hv hn := by
    rw [slotsSame_of_changes rest, slotValue_carried hv hn, slotsSame_of_changes acting]
  kept hn := by
    rw [slotsSame_of_changes rest, slotValue_kept hn, slotsSame_of_changes acting]
  ports d := by
    rw [rest.portCfg, ← acting.portCfg]
    exact storeValues_ports s1 _ d
  group g := by
    rw [rest.at_group, storeValues_group, acting.at_group]

section
variable {s t : State} {first : Nat} {vs : List Nat}

theorem Holds.value (h : Holds s t first vs) (pass : CarriedPass s (numbered first vs)) {j v : Nat}
    (hv : vs[j]? = some v) :
    (∀ n : Fin 29, n.val = first + j → t.param n = v) ∧
    (∀ d : Desk, 32 + 2 * d.val = first + j → t.portCfg[d].idleLimit = v) ∧
    (∀ d : Desk, 33 + 2 * d.val = first + j → t.portCfg[d].absentLimit = v) ∧
    (∀ g : GroupIdx, 48 + g.val = first + j → (t.group g).map (·.delay) = some v) := by
  refine ⟨fun n hn => Option.some.inj (h.carried (slot := .param n) hv hn),
    fun d hd => Option.some.inj (h.carried (slot := .idle d) hv hd),
    fun d hd => Option.some.inj (h.carried (slot := .absent d) hv hd), fun g hg => ?_⟩
  have stored := h.carried (slot := .release g) hv hg
  obtain ⟨slot, editable, _⟩ := pass _ (numbered_get hv)
  have release : slot = .release g := Option.some.inj
    ((editable_slotOf editable).symm.trans (slotOf_eq_some.2 (by exact hg)))
  subst release
  obtain ⟨x, hx⟩ := Option.isSome_iff_exists.1 (editable_release editable)
  simp only [slotValue, hx, Option.map_some] at stored
  exact stored

theorem Holds.outside (h : Holds s t first vs) :
    (∀ n : Fin 29, (n.val < first ∨ first + vs.length ≤ n.val) → t.param n = s.param n) ∧
    (∀ d : Desk, t.portCfg[d].enabled = s.portCfg[d].enabled ∧
      t.portCfg[d].hornFloor = s.portCfg[d].hornFloor ∧
      ((32 + 2 * d.val < first ∨ first + vs.length ≤ 32 + 2 * d.val) →
        t.portCfg[d].idleLimit = s.portCfg[d].idleLimit) ∧
      ((33 + 2 * d.val < first ∨ first + vs.length ≤ 33 + 2 * d.val) →
        t.portCfg[d].absentLimit = s.portCfg[d].absentLimit)) ∧
    (∀ g, (t.group g).map (fun q => { q with delay := 0 }) = (s.group g).map (fun q => { q with delay := 0 }) ∧
      ((48 + g.val < first ∨ first + vs.length ≤ 48 + g.val) → t.group g = s.group g)) :=
  ⟨fun n hn => Option.some.inj (h.kept (slot := .param n) hn),
    fun d => ⟨(h.ports d).1, (h.ports d).2, fun hd => Option.some.inj (h.kept (slot := .idle d) hd),
      fun hd => Option.some.inj (h.kept (slot := .absent d) hd)⟩,
    fun g => ⟨h.group g, fun hg => group_kept (h.group g) (h.kept (slot := .release g) hg)⟩⟩

end

/-- Settles O55: the values are stored slot by slot, and the areas evaluated again only after a change of a
threshold. -/
theorem editParametersStoresValues : Obligations.EditParametersStoresValues := by
  intro first count tag bytes vs x s s1 carried sup parsed length any few pass
  obtain ⟨t, ht, last, replied, rest, within⟩ := editParameters_takes sup parsed length any few pass tag
  have acting : OnlyChanges _ s s1 := actingAt_desk_changes s supervisor
  have stored : OnlyChanges (answering ++ [.loads, .map, .records, .queues, .journal]) (storeValues s1 carried) t :=
    ((edited_of_stored s1 carried).mono (by decide)).trans (rest.mono (by decide))
  have holds := edited_holds first.toNat vs acting stored
  obtain ⟨params, ports, groups⟩ := holds.outside
  refine ⟨t, ht, fun j v hv => holds.value pass hv, params, ports, groups, fun h6 h7 h8 h9 => ?_, last, replied, within⟩
  have same : ∀ n : Fin 29, t.param n = s.param n → (storeValues s1 carried).param n = s1.param n := fun n h =>
    (stored.at_param n).symm.trans (h.trans (acting.at_param n).symm)
  have quiet : edited s1 carried = storeValues s1 carried :=
    edited_quiet (same 6 h6) (same 7 h7) (same 8 h8) (same 9 h9)
  have unread : OnlyChanges (answering ++ [.journal]) (storeValues s1 carried) t := quiet ▸ rest
  exact ((storeValues_changes s1 carried).mono (by decide)).trans (unread.mono (by decide))

end Sys2Proof.Proofs
end

/-! PROOFS. EDIT POINT: the evaluator's part and the engine's part (spec/12, R178; spec/01, R19; spec/02, R43). -/

section
namespace Sys2Proof.Proofs
open Machine

/-! ## What the evaluator leaves of the points' settings -/

/-- The settings of a point: its configuration part, in service, shelved. -/
def settings (p : Point) : PointCfg × Bool × Bool := (p.cfg, p.inService, p.shelved)

/-- Every point keeps its settings. -/
def SettingsSame (s t : State) : Prop := ∀ j, (t.point j).map settings = (s.point j).map settings

theorem SettingsSame.trans {s t u : State} (h : SettingsSame s t) (k : SettingsSame t u) : SettingsSame s u :=
  fun j => (k j).trans (h j)

theorem SettingsSame.of_points {s t : State} (h : t.points = s.points) : SettingsSame s t := fun j => by
  rw [State.point, State.point, h]

theorem settingsSame_setPoint {s : State} {i : Nat} {p q : Point} (h : s.point i = some p)
    (same : settings q = settings p) : SettingsSame s (s.setPoint i q) := by
  intro j
  by_cases e : j = i
  · rw [e, setPoint_point_of h, h, Option.map_some, Option.map_some, same]
  · rw [setPoint_point_ne _ _ e]

theorem settingsSame_handOn (s : State) (i : Nat) (old : Point) (c : Change) : SettingsSame s (handOn s i old c) := by
  intro j
  rcases handOn_point s i j old c with same | released
  · rw [same]
  · rw [released, Option.map_map]
    rfl

/-- One point is rewritten with its settings, and no other moves. -/
theorem settingsSame_rewritten {s t : State} {i : Nat} {p q : Point} (h : s.point i = some p) (here : t.point i = some q)
    (same : settings q = settings p) (others : OtherPointsSame s t i) : SettingsSame s t := by
  intro j
  by_cases e : j = i
  · rw [e, here, h, Option.map_some, Option.map_some, same]
  · rw [others j e]

theorem settingsSame_engineRaise {s : State} {i : Nat} {p : Point} (h : s.point i = some p) (time : Time) :
    SettingsSame s (engineRaise s i time) := by
  obtain ⟨folded, quiet, annunciated, _, others⟩ := engineRaise_taken time h
  cases folds : p.folds time with
  | true => exact settingsSame_rewritten h (folded folds).1 rfl others
  | false =>
    cases wouldBe : s.wouldBeQuiet p with
    | true => exact settingsSame_rewritten h (quiet folds wouldBe).1 rfl others
    | false => exact settingsSame_rewritten h (annunciated folds wouldBe).1 rfl others

theorem settingsSame_engineReturn {s : State} {i : Nat} {p : Point} (h : s.point i = some p) (time : Time) (b : Bool) :
    SettingsSame s (engineReturn s i time b) := by
  have written : SettingsSame s (s.setPoint i (p.returned time b)) := settingsSame_setPoint h rfl
  unfold engineReturn
  rw [h]
  dsimp only
  split
  · exact written
  · exact written.trans (settingsSame_handOn _ _ _ _)

theorem settingsSame_deliverEvent {s : State} {i : Nat} {p : Point} (h : s.point i = some p) (raise : Bool)
    (time : Time) : SettingsSame s (deliverEvent s i raise time) := by
  have written : SettingsSame s (s.setPoint i { p with delivered := raise }) := settingsSame_setPoint h rfl
  have here := setPoint_point_of h { p with delivered := raise }
  unfold deliverEvent
  rw [h]
  dsimp only
  split
  · exact written.trans (settingsSame_engineRaise here time)
  · exact written.trans (settingsSame_engineReturn here time false)

theorem settingsSame_evaluatePoint {s : State} {i : Nat} {p : Point} (h : s.point i = some p) (v : Word16) :
    SettingsSame s (evaluatePoint s v i) := by
  rw [evaluatePoint_of h]
  generalize evaluate p.cfg v p.cond p.lastKnown = now
  by_cases same : p.cond = conditionOf now
  · rw [handleCondition_same same]
    exact fun _ => rfl
  cases service : p.inService with
  | false =>
    rw [handleCondition_out same service]
    exact settingsSame_setPoint h rfl
  | true =>
    by_cases level : now = p.delivered
    · rw [handleCondition_level same service level]
      exact settingsSame_setPoint h rfl
    · rcases Nat.eq_zero_or_pos (conditionDelay p now) with delay | delay
      · rw [handleCondition_delivers same service level delay]
        exact (settingsSame_setPoint (q := withCondition p now) h rfl).trans
          (settingsSame_deliverEvent (setPoint_point_of h (withCondition p now)) _ _)
      · rw [handleCondition_pends same service level delay]
        exact settingsSame_setPoint h rfl

theorem settingsSame_loseInput {s : State} {i : Nat} {p : Point} (h : s.point i = some p) :
    SettingsSame s (loseInput s i) := by
  obtain ⟨here, others, _⟩ := loseInput_tells h
  exact settingsSame_rewritten h here rfl others

theorem settingsSame_regainInput {s : State} {i : Nat} {p : Point} (h : s.point i = some p) (v : Word16) :
    SettingsSame s (regainInput s v i) := by
  obtain ⟨_, _, _, _, noticed⟩ := regainInput_tells h v
  have cleared : SettingsSame s (s.setPoint i { p with badInput := false }) := settingsSame_setPoint h rfl
  exact (cleared.trans (settingsSame_evaluatePoint (setPoint_point_of h { p with badInput := false }) v)).trans
    (.of_points noticed.points)

/-! ## The evaluator's part (R19) -/

/-- A channel has failed: it is BAD or STALE. -/
def failedChannel (c : Option Channel) : Prop := ∃ z, c = some z ∧ (z.quality = .bad ∨ z.quality = .stale)

theorem any_failed {c : Option Channel} :
    c.any (fun y => y.quality == .bad || y.quality == .stale) = true ↔ failedChannel c := by
  simp [Option.any_eq_true, failedChannel]

section
variable {s : State} {i : Nat} {p : Point} {old new : PointCfg} {was : Option Channel} {y : Channel}

theorem editEvaluator_good_present (h : s.point i = some p) (hy : s.channel new.channel = some y)
    (rebound : new.channel ≠ old.channel) (good : y.quality = .good) (present : p.badInput = false) :
    editEvaluator s i old new was = evaluatePoint s y.value i := by
  simp only [editEvaluator, h, hy, if_pos rebound, good, present, Bool.false_eq_true, if_false]

theorem editEvaluator_good_regained (h : s.point i = some p) (hy : s.channel new.channel = some y)
    (rebound : new.channel ≠ old.channel) (good : y.quality = .good) (lost : p.badInput = true) :
    editEvaluator s i old new was = regainInput s y.value i := by
  simp only [editEvaluator, h, hy, if_pos rebound, good, lost, if_true]

theorem editEvaluator_never (h : s.point i = some p) (hy : s.channel new.channel = some y)
    (rebound : new.channel ≠ old.channel) (never : y.quality = .never) :
    editEvaluator s i old new was =
      s.setPoint i { p with cond := .unknown, pendingPart := none, badInput := false } := by
  simp only [editEvaluator, h, hy, if_pos rebound, never]

theorem editEvaluator_fails (h : s.point i = some p) (hy : s.channel new.channel = some y)
    (rebound : new.channel ≠ old.channel) (failed : failedChannel (some y)) (sound : ¬ failedChannel was) :
    editEvaluator s i old new was = loseInput s i := by
  rw [← any_failed] at sound
  obtain ⟨z, hz, bad | stale⟩ := failed
  · cases hz
    simp only [editEvaluator, h, hy, if_pos rebound, bad, if_neg sound]
  · cases hz
    simp only [editEvaluator, h, hy, if_pos rebound, stale, if_neg sound]

theorem editEvaluator_failed_already (h : s.point i = some p) (hy : s.channel new.channel = some y)
    (rebound : new.channel ≠ old.channel) (failed : failedChannel (some y)) (already : failedChannel was) :
    editEvaluator s i old new was = s := by
  rw [← any_failed] at already
  obtain ⟨z, hz, bad | stale⟩ := failed
  · cases hz
    simp only [editEvaluator, h, hy, if_pos rebound, bad, if_pos already]
  · cases hz
    simp only [editEvaluator, h, hy, if_pos rebound, stale, if_pos already]

/-- The limit, the deadband or the kind is new. -/
def bandMoved (old new : PointCfg) : Prop :=
  new.limit ≠ old.limit ∨ new.deadband ≠ old.deadband ∨ new.kind ≠ old.kind

theorem editEvaluator_band (h : s.point i = some p) (hy : s.channel new.channel = some y)
    (bound : ¬ new.channel ≠ old.channel) (band : bandMoved old new) (good : y.quality = .good) :
    editEvaluator s i old new was = evaluatePoint s y.value i := by
  simp only [editEvaluator, h, hy, if_neg bound]
  exact if_pos ⟨band, good⟩

theorem editEvaluator_rests (bound : ¬ new.channel ≠ old.channel)
    (rests : ∀ y, s.channel new.channel = some y → ¬ (bandMoved old new ∧ y.quality = .good)) :
    editEvaluator s i old new was = s := by
  unfold editEvaluator
  split
  · rename_i q y _ hy
    rw [if_neg bound]
    exact if_neg (rests y hy)
  · rfl

/-- The evaluator's part keeps the settings of every point, and what the engine cannot change. -/
theorem editEvaluator_keeps (h : s.point i = some p) :
    SettingsSame s (editEvaluator s i old new was) ∧ OnlyChanges engineFields s (editEvaluator s i old new was) := by
  have stays : SettingsSame s s ∧ OnlyChanges engineFields s s := ⟨fun _ => rfl, .refl s⟩
  have loses : SettingsSame s (loseInput s i) ∧ OnlyChanges engineFields s (loseInput s i) :=
    ⟨settingsSame_loseInput h, (loseInput_changes s i).mono (by decide)⟩
  have evaluates : ∀ v, SettingsSame s (evaluatePoint s v i) ∧ OnlyChanges engineFields s (evaluatePoint s v i) :=
    fun v => ⟨settingsSame_evaluatePoint h v, evaluatePoint_changes s v i⟩
  unfold editEvaluator
  split
  · rename_i q y hq hy
    split
    · split
      · split
        · exact ⟨settingsSame_regainInput h _, regainInput_changes _ _ _⟩
        · exact evaluates _
      · exact ⟨settingsSame_setPoint hq rfl, (setPoint_changes _ _ _).mono (by decide)⟩
      · split
        · exact stays
        · exact loses
      · split
        · exact stays
        · exact loses
    · split
      · exact evaluates _
      · exact stays
  · exact stays

end

/-! ## The engine's part (R43) -/

/-- A new priority or a new area shows in the point's notice. -/
def shownMoved (old new : PointCfg) : Prop := new.priority ≠ old.priority ∨ new.area ≠ old.area

theorem editEngine_changes (s : State) (i : Nat) (old new : PointCfg) :
    OnlyChanges [.records, .queues] s (editEngine s i old new) := by
  have noticed := (pointNotice_changes s i false false).mono (U := [.records, .queues]) (by decide)
  unfold editEngine
  split
  · dsimp only
    split
    · split
      · exact noticed.trans (((resolveMoved_changes _ _ _ _).mono (by decide)).trans
          ((handItems_changes _ _ _ _).mono (by decide)))
      · exact noticed
    · exact noticed
  · exact .refl s

theorem resolveMoved_records_congr {s t : State} (h : t.records = s.records) (i : Nat) (old new : Area) :
    (resolveMoved t i old new).records = (resolveMoved s i old new).records := by
  simp only [resolveMoved, State.record, h]

section
variable {s : State} {i : Nat} {z : Point} {old new : PointCfg}

theorem editEngine_hidden (h : ¬ shownMoved old new) : editEngine s i old new = s := if_neg h

theorem editEngine_shown (h : shownMoved old new) (area : new.area = old.area) :
    editEngine s i old new = pointNotice s i false false := by
  refine (if_pos h).trans ?_
  dsimp only
  exact if_neg fun moved => moved area

theorem editEngine_moved (hz : s.point i = some z) (area : new.area ≠ old.area) : editEngine s i old new =
    handItems (resolveMoved (pointNotice s i false false) i old.area new.area) i z false := by
  have noticed : (pointNotice s i false false).point i = some z :=
    ((pointNotice_changes s i false false).at_point i).trans hz
  refine (if_pos (.inr area)).trans ?_
  simp only [if_pos area, noticed]

/-- The engine's part: one notice for what shows, and the items for a new area. -/
theorem editEngine_acts_once (hz : s.point i = some z) :
    (¬ shownMoved old new → (editEngine s i old new).queues = s.queues) ∧
    (new.area = old.area → (editEngine s i old new).records = s.records) ∧
    (shownMoved old new → (editEngine s i old new).queues =
      (deliver s (pointNoticeOf (z.body i false false)) (s.pointNames z.cfg.area z.escalated)).queues) ∧
    (new.area ≠ old.area → (editEngine s i old new).records =
      (handItems (resolveMoved s i old.area new.area) i z false).records) := by
  refine ⟨fun hidden => by rw [editEngine_hidden hidden], fun area => ?_, fun shown => ?_, fun area => ?_⟩
  · by_cases shown : shownMoved old new
    · rw [editEngine_shown shown area, (pointNotice_changes _ _ _ _).records]
    · rw [editEngine_hidden shown]
  · rw [← pointNotice_queues hz]
    by_cases area : new.area = old.area
    · rw [editEngine_shown shown area]
    · rw [editEngine_moved hz area, (handItems_changes _ _ _ _).queues, (resolveMoved_changes _ _ _ _).queues]
  · rw [editEngine_moved hz area]
    exact handItems_records_congr (resolveMoved_records_congr (pointNotice_changes _ _ _ _).records _ _ _) _ _ _

end

end Sys2Proof.Proofs
end

/-! PROOFS. EDIT POINT: the request (spec/12, R178). -/

section
namespace Sys2Proof.Proofs
open Machine

/-! ## The request -/

/-- An EDIT POINT that passes its checks: `raw`, `group` and `headOf` are what it carries for the point `p`. -/
structure EditPasses (s : State) (bytes : List Byte) (gb hb : Byte) (raw : RawPoint) (group headOf : Option GroupIdx)
    (p : Point) : Prop where
  length : bytes.length = 17
  parsed : rawPoint bytes = some raw
  groupByte : groupField gb = some group
  headByte : groupField hb = some headOf
  sameGroup : group = p.cfg.group
  sameHead : headOf = p.cfg.headOf
  configured : raw.configured = 1#8
  inRanges : raw.inRanges = true
  fits : raw.fits (fun c => (s.channel c).map (·.kind)) (fun a => (s.area a).isSome) = true

/-- The state once the new configuration part stands and the evaluator has acted (R19). -/
def editLeft (s : State) (i : Nat) (p : Point) (new : PointCfg) : State :=
  editEvaluator (s.setPoint i { p with cfg := new }) i p.cfg new (s.channel p.cfg.channel)

/-- The state once the engine has acted too (R43). -/
def editMade (s : State) (i : Nat) (p : Point) (new : PointCfg) : State :=
  editEngine (editLeft s i p new) i p.cfg new

theorem editPointTaken_eq (s : State) (d : Desk) (x : Session) (i : Nat) (p : Point) (new : PointCfg) :
    editPointTaken s d x i p new =
      ((editMade s i p new).enter .edit
        { port := some (deskPort d), badge := some x.badge, point := some i
          occ := (editMade s i p new).pointOcc i
          detail := BitVec.ofNat 32 (bits (changedFields p.cfg new)) },
        done [] [((editMade s i p new).pointState i).code]) := rfl

theorem fits_acting {s : State} {raw : RawPoint} (d : Desk)
    (h : raw.fits (fun c => (s.channel c).map (·.kind)) (fun a => (s.area a).isSome) = true) :
    raw.fits (fun c => ((actingAt s d).channel c).map (·.kind)) (fun a => ((actingAt s d).area a).isSome) = true := by
  have channels : (actingAt s d).channel = s.channel := funext (actingAt_desk_changes s d).at_channel
  simp only [channels, (actingAt_owners s d).defined]
  exact h

theorem editPointRule_takes {s : State} {x : Session} (sup : Supervisor s x .engineer) {p1 p0 gb hb : Byte}
    {bytes : List Byte} {raw : RawPoint} {group headOf : Option GroupIdx} {p : Point}
    (hp : s.point (read16 p1 p0).toNat = some p) (pass : EditPasses s bytes gb hb raw group headOf p) :
    editPointRule supervisor (p1 :: p0 :: (bytes ++ [gb, hb])) (heardAt s (deskPort supervisor)) =
      editPointTaken (actingAt s supervisor) supervisor (s.touched supervisor x) (read16 p1 p0).toNat p
        (raw.cfg group headOf) := by
  have entry : rawPoint ((bytes ++ [gb, hb]).take 17) = some raw := by
    rw [List.take_left' pass.length]
    exact pass.parsed
  have fields : (bytes ++ [gb, hb]).drop 17 = [gb, hb] := List.drop_left' pass.length
  have heard : (heardAt s (deskPort supervisor)).point (read16 p1 p0).toNat = some p :=
    ((heardAt_desk_changes s supervisor).at_point _).trans hp
  have acting : (actingAt s supervisor).point (read16 p1 p0).toNat = some p :=
    (actingAt_point s supervisor _).trans hp
  have ranges : (!(raw.configured == 0#8 || raw.configured == 1#8) || !raw.inRanges) = false := by
    rw [pass.configured, pass.inRanges]
    rfl
  have apart : ¬ (group ≠ p.cfg.group ∨ headOf ≠ p.cfg.headOf) := by
    simp [pass.sameGroup, pass.sameHead]
  simp only [editPointRule, entry, fields, heard, withSession_acting sup.operator.session,
    consoleDesk_supervises sup, Bool.not_true, Bool.false_eq_true, if_false, acting, pass.groupByte, pass.headByte, ranges,
    if_neg (not_not.2 pass.configured), fits_acting supervisor pass.fits, if_neg apart]

section
variable {s : State} {i : Nat} {p : Point} {new : PointCfg}

theorem editLeft_keeps (h : s.point i = some p) :
    SettingsSame (s.setPoint i { p with cfg := new }) (editLeft s i p new) ∧
    OnlyChanges engineFields s (editLeft s i p new) := by
  obtain ⟨settings, within⟩ := editEvaluator_keeps (old := p.cfg) (new := new) (was := s.channel p.cfg.channel)
    (setPoint_point_of h { p with cfg := new })
  exact ⟨settings, ((setPoint_changes s i { p with cfg := new }).mono (by decide)).trans within⟩

/-- The point after the evaluator has acted: it holds the new configuration part. -/
theorem editLeft_point (h : s.point i = some p) :
    ∃ z, (editLeft s i p new).point i = some z ∧ z.cfg = new ∧ z.inService = p.inService ∧ z.shelved = p.shelved := by
  have same := (editLeft_keeps (new := new) h).1 i
  rw [setPoint_point_of h, Option.map_some] at same
  obtain ⟨z, hz, settings⟩ := Option.map_eq_some_iff.1 same
  simp only [Proofs.settings, Prod.mk.injEq] at settings
  exact ⟨z, hz, settings⟩

theorem editLeft_cfg (h : s.point i = some p) {j : Nat} (apart : j ≠ i) :
    ((editLeft s i p new).point j).map (·.cfg) = (s.point j).map (·.cfg) := by
  have same := (editLeft_keeps (new := new) h).1 j
  rw [setPoint_point_ne _ _ apart] at same
  have first := congrArg (Option.map Prod.fst) same
  rwa [Option.map_map, Option.map_map] at first

theorem editMade_changes (s : State) (i : Nat) (p : Point) (new : PointCfg) :
    OnlyChanges [.records, .queues] (editLeft s i p new) (editMade s i p new) := editEngine_changes _ _ _ _

end

/-- What stands after the edit, the evaluator having left the state `e` (R43). -/
def EvaluatorLeaves (i : Nat) (old new : PointCfg) (t e : State) : Prop :=
  OnlyChanges (answering ++ [.records, .queues, .journal]) e t ∧
  (¬ shownMoved old new → t.queues = e.queues) ∧ (new.area = old.area → t.records = e.records) ∧
  ∀ z, e.point i = some z →
    (shownMoved old new → t.queues = (deliver e (pointNoticeOf (z.body i false false))
      (e.pointNames z.cfg.area z.escalated)).queues) ∧
    (new.area ≠ old.area →
      t.records = (handItems (resolveMoved e i old.area new.area) i z false).records)

theorem editMade_leaves {s t : State} {i : Nat} {p : Point} {new : PointCfg} (h : s.point i = some p)
    (rest : OnlyChanges (answering ++ [.journal]) (editMade s i p new) t) :
    EvaluatorLeaves i p.cfg new t (editLeft s i p new) := by
  obtain ⟨z, hz, _⟩ := editLeft_point (new := new) h
  obtain ⟨hidden, still, shown, moved⟩ := editEngine_acts_once (old := p.cfg) (new := new) hz
  refine ⟨((editMade_changes s i p new).mono (by decide)).trans (rest.mono (by decide)),
    fun h => rest.queues.trans (hidden h), fun h => rest.records.trans (still h), fun z' hz' => ?_⟩
  cases hz.symm.trans hz'
  exact ⟨fun h => rest.queues.trans (shown h), fun h => rest.records.trans (moved h)⟩

/-- The edit is made, journaled and answered. -/
theorem editPoint_makes {s : State} {x : Session} (sup : Supervisor s x .engineer) {p1 p0 gb hb : Byte}
    {bytes : List Byte} {raw : RawPoint} {group headOf : Option GroupIdx} {p : Point}
    (hp : s.point (read16 p1 p0).toNat = some p) (pass : EditPasses s bytes gb hb raw group headOf p) (tag : Byte) :
    ∃ t q, exec (.editPoint (deskPort supervisor) tag (p1 :: p0 :: (bytes ++ [gb, hb]))) s = .next t ∧
      (editLeft (actingAt s supervisor) (read16 p1 p0).toNat p (raw.cfg group headOf)).point (read16 p1 p0).toNat =
        some q ∧
      q.cfg = raw.cfg group headOf ∧ q.inService = p.inService ∧ q.shelved = p.shelved ∧
      OnlyChanges (answering ++ [.journal])
        (editMade (actingAt s supervisor) (read16 p1 p0).toNat p (raw.cfg group headOf)) t ∧
      LastEntry t .edit
        { port := some (deskPort supervisor), badge := some x.badge, point := some (read16 p1 p0).toNat, occ := q.occ
          detail := BitVec.ofNat 32 (bits (changedFields p.cfg (raw.cfg group headOf))) } ∧
      Replied (actingAt s supervisor) t (deskPort supervisor) .editPoint tag (done [] [q.state.code]) ∧
      OnlyChanges (answering ++ engineFields) (actingAt s supervisor) t := by
  have running := actingAt_running (d := supervisor) sup.operator.taking.running
  have hp' := (actingAt_point s supervisor (read16 p1 p0).toNat).trans hp
  have rule := editPointRule_takes sup hp pass
  have badge : (s.touched supervisor x).badge = x.badge := rfl
  obtain ⟨q, hq, settings⟩ := editLeft_point (new := raw.cfg group headOf) hp'
  have left := (editLeft_keeps (new := raw.cfg group headOf) hp').2
  have engine := editMade_changes (actingAt s supervisor) (read16 p1 p0).toNat p (raw.cfg group headOf)
  have here := (engine.at_point (read16 p1 p0).toNat).trans hq
  have occ : (editMade (actingAt s supervisor) (read16 p1 p0).toNat p (raw.cfg group headOf)).pointOcc
      (read16 p1 p0).toNat = q.occ := by simp only [State.pointOcc, here]
  rw [editPointTaken_eq, occ, pointState_of here, badge] at rule
  have made : OnlyChanges engineFields (actingAt s supervisor)
      (editMade (actingAt s supervisor) (read16 p1 p0).toNat p (raw.cfg group headOf)) :=
    left.trans (engine.mono (by decide))
  generalize editMade (actingAt s supervisor) (read16 p1 p0).toNat p (raw.cfg group headOf) = u at *
  have entered := enter_changes u .edit
    { port := some (deskPort supervisor), badge := some x.badge, point := some (read16 p1 p0).toNat, occ := q.occ
      detail := BitVec.ofNat 32 (bits (changedFields p.cfg (raw.cfg group headOf))) }
  have all := made.trans (entered.mono (U := engineFields) (by decide))
  obtain ⟨t, ht, replied, within, answered⟩ := request_done sup.operator.taking .editPoint tag
    (by simp [pass.length, maxBody]) false editPointRule rule all all.ports
  exact ⟨t, q, ht, hq, settings.1, settings.2.1, settings.2.2, (entered.mono (by decide)).trans (answered.mono (by decide)),
    answered.lastEntry (enter_last _ _ _ (made.dev.trans running)), replied, within⟩

/-- Settles O54: the evaluator's part and the engine's part of an edit each follow the cases of R19 and R43. -/
theorem editPointReplacesConfiguration : Obligations.EditPointReplacesConfiguration := by
  intro p1 p0 gb hb tag bytes raw group headOf x p s i s1 new sup hp length parsed hg hh sameGroup sameHead configured
    ranges fits
  obtain ⟨t, q, ht, hq, cfg, service, shelved, rest, last, replied, within⟩ := editPoint_makes sup hp
    ⟨length, parsed, hg, hh, sameGroup, sameHead, configured, ranges, fits⟩ tag
  have acting : OnlyChanges _ s s1 := actingAt_desk_changes s supervisor
  have hp' : s1.point i = some p := (acting.at_point i).trans hp
  have edited := setPoint_point_of hp' { p with cfg := new }
  have written := setPoint_changes s1 i { p with cfg := new }
  have leaves : EvaluatorLeaves i p.cfg new t (editLeft s1 i p new) := editMade_leaves hp' rest
  have unmade : OnlyChanges (answering ++ [.records, .queues, .journal]) (editLeft s1 i p new) t := leaves.1
  have was : s1.channel p.cfg.channel = s.channel p.cfg.channel := acting.at_channel _
  refine ⟨t, q, ht, (unmade.at_point i).trans hq, cfg, service, shelved, fun j hj => ?_,
    fun channel limit deadband kind => ?_, fun y hy => ?_, last, replied, within⟩
  · rw [unmade.at_point, editLeft_cfg hp' hj, acting.at_point]
  · have stays : editLeft s1 i p new = s1.setPoint i { p with cfg := new } :=
      editEvaluator_rests (not_not.2 channel) fun y _ h => by simp [bandMoved, limit, deadband, kind] at h
    rw [stays] at hq unmade
    refine ⟨Option.some.inj (hq.symm.trans edited), fun j hj => ?_, unmade.serial.trans (written.serial.trans acting.serial),
      unmade.loads.trans (written.loads.trans acting.loads), unmade.groups.trans (written.groups.trans acting.groups)⟩
    rw [unmade.at_point, setPoint_point_ne _ _ hj, acting.at_point]
  · have hy' : (s1.setPoint i { p with cfg := new }).channel new.channel = some y :=
      (written.at_channel _).trans ((acting.at_channel _).trans hy)
    have evaluated : ∀ e, editLeft s1 i p new = e → EvaluatorLeaves i p.cfg new t e := fun e he => he ▸ leaves
    refine ⟨fun rebound good present => evaluated _ (editEvaluator_good_present edited hy' rebound good present),
      fun rebound good lost => evaluated _ (editEvaluator_good_regained edited hy' rebound good lost),
      fun rebound failed sound => evaluated _ (editEvaluator_fails edited hy' rebound failed (by rw [was]; exact sound)),
      fun rebound failed already =>
        evaluated _ (editEvaluator_failed_already edited hy' rebound failed (by rw [was]; exact already)),
      fun rebound never => evaluated _ ((editEvaluator_never edited hy' rebound never).trans (setPoint_setPoint _ _ _ _)),
      fun bound band good => evaluated _ (editEvaluator_band edited hy' bound band good),
      fun bound rests => evaluated _ (editEvaluator_rests bound fun z hz h => rests ?_)⟩
    cases hy'.symm.trans hz
    exact h

end Sys2Proof.Proofs
end
